-- ==== Sys2Proof/Word.lean ====
section
/-! DEFINITION. The words of Cehal (00 R6, 01 R25, 03 R75) and the sparse table every larger store is held in. -/

namespace Sys2Proof

/-- The smallest addressable unit (09 R256). -/
abbrev Byte := BitVec 8

/-- One register of one thread slot, and one instruction word (01 R25, 03 R72). -/
abbrev Word := BitVec 32

/-- A 64-bit address, mask or pair (01 R26). -/
abbrev DWord := BitVec 64

/-- A register field of an instruction word (03 R75). -/
abbrev Reg := BitVec 7

/-- A sparse table: keys strictly rising, each with its value. What an unlisted key reads as is fixed by the
operation that reads it (Sys2Proof/Machine/Table.lean). -/
abbrev Tab (α : Type) := List (Nat × α)

end Sys2Proof
end

