-- ==== Sys2Proof/Syntax.lean ====
section
/-! DEFINITION. The instructions of Jornath and the events of a Cehal device: one constructor for each row of the
operation table (03 R75, R82; 95). Register and immediate fields are as 03 R75 lays them out; the fields of an event
are what the step is about. -/

namespace Sys2Proof

/-- One entry of a packet: its offset field (or slot number, for an exchange) and its data, low bytes first; a
returned value may carry a poison mark (13 R356, R357). -/
structure PacketEntry where
  off : BitVec 16
  data : BitVec 128
  poison : Bool
  deriving DecidableEq, Repr

/-- A fabric packet (13 R356, R357). The count is the number of entries; `zeros` tells whether every field the layout
states as zero is zero. `tag` is the resolved tag of d of an exchange or of xat (06 R191, R196): the
layout names no place for it (DEDUCED, assumption log 26); `strait` is the strait it travels on, which no byte of it says. -/
structure Packet where
  ptype : BitVec 4
  xop : BitVec 4
  gen : Bool
  kind : Bool
  scope : BitVec 3
  ctx : BitVec 6
  sdev : BitVec 9
  score : BitVec 11
  rslot : BitVec 3
  desc : Word
  tdev : BitVec 9
  tdie : BitVec 3
  base : DWord
  key : BitVec 16
  entries : List PacketEntry
  refused : Word
  cause : Byte
  tag : Byte
  strait : BitVec 5
  zeros : Bool
  deriving DecidableEq, Repr

/-- One entry of a top-k list: FP32 distance and item identifier (08 R249). -/
structure Item where
  dist : Word
  id : DWord
  deriving DecidableEq, Repr

/-- A list on its way to a crucible (08 R251, 13 R361): the merge record's fields, the list, and whether the list is
valid under R249. `op` names the contributing operation when the contributor is this device. -/
structure MergeList where
  mergeId : Word
  parts : Nat
  root : DWord
  object : DWord
  k : Nat
  tmo : Nat
  ctx : Nat
  items : List Item
  valid : Bool
  op : Option Nat
  deriving DecidableEq, Repr

/-- A ready message to the gang's home (11 R317): the sending device and its copy's identifying fields. -/
structure GangReady where
  dev : Nat
  entry : DWord
  widths : Word
  w5 : Word
  gm : Nat
  gdev : Nat
  gstr : Nat
  deriving DecidableEq, Repr

/-- What a scrub visit or an access finds (14 R371, R372). -/
inductive Scrub where
  /-- No error. -/
  | clean
  /-- A correctable error, corrected in place. -/
  | corrected
  /-- An uncorrectable error: whether the owner tag can be read, and whether the way's test patterns match. -/
  | uncorrectable (ownerReadable : Bool) (testPasses : Bool)
  deriving DecidableEq, Repr

/-- A column word of a stack (14 R373). -/
structure HbmCell where
  sid : Nat
  pch : Nat
  bank : Nat
  row : Nat
  col : Nat
  deriving DecidableEq, Repr

/-- One rail's readings at a sample (14 R378). -/
structure RailReading where
  mv : Nat
  ma : Nat
  mw : Nat
  uj : Nat
  deriving DecidableEq, Repr

/-- A routing table (13 R358): EGT of a generation, or SWRT of a switch and a generation. -/
inductive RouteTable where
  | egt (gen : Bool)
  | swrt (switch : Nat) (gen : Bool)
  deriving DecidableEq, Repr

/-- A link that keeps a report (14 R386). -/
inductive LinkId where
  | strait (port : Nat)
  | cxl (link : Nat)
  | ucie (module : Nat)
  deriving DecidableEq, Repr

/-- An eye measurement of a link (14 R386): the lowest width, the lowest height and the lane; and what the link has counted since
the last one, corrected symbols, uncorrectable codewords, replays and retrains (those of a strait port are its own flits'). -/
structure Eye where
  width : Nat
  height : Nat
  lane : Nat
  fecc : Nat
  fecu : Nat
  replays : Nat
  retrains : Nat
  deriving DecidableEq, Repr

/-- An access of the host die over CXL.mem (13 R363). -/
inductive HostAccess where
  | read (n : Nat)
  | write (bytes : List Byte)
  deriving DecidableEq, Repr

/-- What an event is about. Events have no encoding: their particulars come with the turn that raises them. Each
event's entry names the fields it uses; the others stay at their defaults. -/
structure Particulars where
  op : Nat := 0
  slots : DWord := 0
  gid : Nat := 0
  wave : Nat := 0
  ent : Nat := 0
  core : Nat := 0
  ctx : Nat := 0
  serial : Nat := 0
  unit : Nat := 0
  member : Nat := 0
  die : Nat := 0
  stack : Nat := 0
  engine : Nat := 0
  switch : Nat := 0
  port : Nat := 0
  isle : Nat := 0
  slice : Nat := 0
  index : Nat := 0
  flag : Bool := false
  value : DWord := 0
  wide : BitVec 288 := 0
  pkt : Option Packet := none
  list : Option MergeList := none
  ready : Option GangReady := none
  scrub : Scrub := .clean
  cell : Option HbmCell := none
  rails : List RailReading := []
  temps : List (Nat × Nat) := []
  ports : List Nat := []
  flit : List Byte := []
  table : Option RouteTable := none
  link : Option LinkId := none
  eye : Option Eye := none
  access : Option HostAccess := none
  deriving DecidableEq, Repr

/-- The operations and events of the device: one constructor per row of the operation table. -/
inductive Instr where
  /-- add: op 0x001, format R, units C N W (R95). -/
  | add (hold : BitVec 2) (d : Reg) (a : Reg) (b : Reg)
  /-- sub: op 0x002, format R, units C N W (R95). -/
  | sub (hold : BitVec 2) (d : Reg) (a : Reg) (b : Reg)
  /-- mul: op 0x003, format R, units C N W (R95). -/
  | mul (hold : BitVec 2) (d : Reg) (a : Reg) (b : Reg)
  /-- mulh: op 0x004, format R, units C N W (R95). -/
  | mulh (hold : BitVec 2) (d : Reg) (a : Reg) (b : Reg)
  /-- mad: op 0x005, format R, units C N W (R95). -/
  | mad (hold : BitVec 2) (d : Reg) (a : Reg) (b : Reg)
  /-- divu: op 0x006, format R, units C W (R97). -/
  | divu (hold : BitVec 2) (d : Reg) (a : Reg) (b : Reg)
  /-- divs: op 0x007, format R, units C W (R97). -/
  | divs (hold : BitVec 2) (d : Reg) (a : Reg) (b : Reg)
  /-- min: op 0x008, format R, units C N W (R95). -/
  | min (hold : BitVec 2) (d : Reg) (a : Reg) (b : Reg)
  /-- max: op 0x009, format R, units C N W (R95). -/
  | max (hold : BitVec 2) (d : Reg) (a : Reg) (b : Reg)
  /-- abs: op 0x00a, format R, units C N W (R96). -/
  | abs (hold : BitVec 2) (d : Reg) (a : Reg)
  /-- neg: op 0x00b, format R, units C N W (R96). -/
  | neg (hold : BitVec 2) (d : Reg) (a : Reg)
  /-- and: op 0x00c, format R, units C N W (R98). -/
  | and (hold : BitVec 2) (d : Reg) (a : Reg) (b : Reg)
  /-- or: op 0x00d, format R, units C N W (R98). -/
  | or (hold : BitVec 2) (d : Reg) (a : Reg) (b : Reg)
  /-- xor: op 0x00e, format R, units C N W (R98). -/
  | xor (hold : BitVec 2) (d : Reg) (a : Reg) (b : Reg)
  /-- not: op 0x00f, format R, units C N W (R98). -/
  | not (hold : BitVec 2) (d : Reg) (a : Reg)
  /-- andn: op 0x010, format R, units C N W (R98). -/
  | andn (hold : BitVec 2) (d : Reg) (a : Reg) (b : Reg)
  /-- shl: op 0x011, format R, units C N W (R99). -/
  | shl (hold : BitVec 2) (d : Reg) (a : Reg) (b : Reg)
  /-- shr: op 0x012, format R, units C N W (R99). -/
  | shr (hold : BitVec 2) (d : Reg) (a : Reg) (b : Reg)
  /-- rotl: op 0x013, format R, units C N W (R99). -/
  | rotl (hold : BitVec 2) (d : Reg) (a : Reg) (b : Reg)
  /-- rotr: op 0x014, format R, units C N W (R99). -/
  | rotr (hold : BitVec 2) (d : Reg) (a : Reg) (b : Reg)
  /-- popc: op 0x015, format R, units C N W (R98). -/
  | popc (hold : BitVec 2) (d : Reg) (a : Reg)
  /-- clz: op 0x016, format R, units C N W (R98). -/
  | clz (hold : BitVec 2) (d : Reg) (a : Reg)
  /-- brev: op 0x017, format R, units C N W (R98). -/
  | brev (hold : BitVec 2) (d : Reg) (a : Reg)
  /-- bfe: op 0x018, format R, units C N W (R100). -/
  | bfe (hold : BitVec 2) (d : Reg) (a : Reg) (b : Reg)
  /-- bfi: op 0x019, format R, units C N W (R100). -/
  | bfi (hold : BitVec 2) (d : Reg) (a : Reg) (b : Reg)
  /-- add64: op 0x01a, format R, units C W (R101). -/
  | add64 (hold : BitVec 2) (d : Reg) (a : Reg) (b : Reg)
  /-- sub64: op 0x01b, format R, units C W (R101). -/
  | sub64 (hold : BitVec 2) (d : Reg) (a : Reg) (b : Reg)
  /-- shl64: op 0x01c, format R, units C W (R101). -/
  | shl64 (hold : BitVec 2) (d : Reg) (a : Reg) (b : Reg)
  /-- shr64: op 0x01d, format R, units C W (R101). -/
  | shr64 (hold : BitVec 2) (d : Reg) (a : Reg) (b : Reg)
  /-- seq: op 0x01e, format R, units C N W (R102). -/
  | seq (hold : BitVec 2) (d : Reg) (a : Reg) (b : Reg)
  /-- sne: op 0x01f, format R, units C N W (R102). -/
  | sne (hold : BitVec 2) (d : Reg) (a : Reg) (b : Reg)
  /-- slt: op 0x020, format R, units C N W (R102). -/
  | slt (hold : BitVec 2) (d : Reg) (a : Reg) (b : Reg)
  /-- sle: op 0x021, format R, units C N W (R102). -/
  | sle (hold : BitVec 2) (d : Reg) (a : Reg) (b : Reg)
  /-- sel: op 0x022, format R, units C N W (R103). -/
  | sel (hold : BitVec 2) (d : Reg) (a : Reg) (b : Reg)
  /-- mov: op 0x023, format R, units C N W (R104). -/
  | mov (hold : BitVec 2) (d : Reg) (a : Reg)
  /-- addx: op 0x024, format R, units C W (R101). -/
  | addx (hold : BitVec 2) (d : Reg) (a : Reg) (b : Reg)
  /-- addi: op 0x040, format I, units C N W (R105). -/
  | addi (hold : BitVec 2) (d : Reg) (a : Reg) (imm : BitVec 7)
  /-- muli: op 0x041, format I, units C N W (R105). -/
  | muli (hold : BitVec 2) (d : Reg) (a : Reg) (imm : BitVec 7)
  /-- andi: op 0x042, format I, units C N W (R105). -/
  | andi (hold : BitVec 2) (d : Reg) (a : Reg) (imm : BitVec 7)
  /-- ori: op 0x043, format I, units C N W (R105). -/
  | ori (hold : BitVec 2) (d : Reg) (a : Reg) (imm : BitVec 7)
  /-- xori: op 0x044, format I, units C N W (R105). -/
  | xori (hold : BitVec 2) (d : Reg) (a : Reg) (imm : BitVec 7)
  /-- shli: op 0x045, format I, units C N W (R105). -/
  | shli (hold : BitVec 2) (d : Reg) (a : Reg) (imm : BitVec 7)
  /-- shri: op 0x046, format I, units C N W (R105). -/
  | shri (hold : BitVec 2) (d : Reg) (a : Reg) (imm : BitVec 7)
  /-- rotli: op 0x047, format I, units C N W (R105). -/
  | rotli (hold : BitVec 2) (d : Reg) (a : Reg) (imm : BitVec 7)
  /-- seqi: op 0x048, format I, units C N W (R105). -/
  | seqi (hold : BitVec 2) (d : Reg) (a : Reg) (imm : BitVec 7)
  /-- snei: op 0x049, format I, units C N W (R105). -/
  | snei (hold : BitVec 2) (d : Reg) (a : Reg) (imm : BitVec 7)
  /-- slti: op 0x04a, format I, units C N W (R105). -/
  | slti (hold : BitVec 2) (d : Reg) (a : Reg) (imm : BitVec 7)
  /-- slei: op 0x04b, format I, units C N W (R105). -/
  | slei (hold : BitVec 2) (d : Reg) (a : Reg) (imm : BitVec 7)
  /-- mini: op 0x04c, format I, units C N W (R105). -/
  | mini (hold : BitVec 2) (d : Reg) (a : Reg) (imm : BitVec 7)
  /-- maxi: op 0x04d, format I, units C N W (R105). -/
  | maxi (hold : BitVec 2) (d : Reg) (a : Reg) (imm : BitVec 7)
  /-- addi64: op 0x04e, format I, units C W (R101). -/
  | addi64 (hold : BitVec 2) (d : Reg) (a : Reg) (imm : BitVec 7)
  /-- movk: op 0x050, format K, units C N W (R106). -/
  | movk (d : Reg) (imm : BitVec 16)
  /-- movh: op 0x051, format K, units C N W (R106). -/
  | movh (d : Reg) (imm : BitVec 16)
  /-- lit: op 0x052, format K+L, units C N W (R107). -/
  | lit (d : Reg) (lit : Word)
  /-- addl: op 0x053, format K+L, units C N W (R107). -/
  | addl (d : Reg) (lit : Word)
  /-- andl: op 0x054, format K+L, units C N W (R107). -/
  | andl (d : Reg) (lit : Word)
  /-- orl: op 0x055, format K+L, units C N W (R107). -/
  | orl (d : Reg) (lit : Word)
  /-- add.u: op 0x060, format R, units C (R108). -/
  | addU (hold : BitVec 2) (d : Reg) (a : Reg) (b : Reg)
  /-- sub.u: op 0x061, format R, units C (R108). -/
  | subU (hold : BitVec 2) (d : Reg) (a : Reg) (b : Reg)
  /-- mul.u: op 0x062, format R, units C (R108). -/
  | mulU (hold : BitVec 2) (d : Reg) (a : Reg) (b : Reg)
  /-- and.u: op 0x063, format R, units C (R108). -/
  | andU (hold : BitVec 2) (d : Reg) (a : Reg) (b : Reg)
  /-- or.u: op 0x064, format R, units C (R108). -/
  | orU (hold : BitVec 2) (d : Reg) (a : Reg) (b : Reg)
  /-- xor.u: op 0x065, format R, units C (R108). -/
  | xorU (hold : BitVec 2) (d : Reg) (a : Reg) (b : Reg)
  /-- shl.u: op 0x066, format R, units C (R108). -/
  | shlU (hold : BitVec 2) (d : Reg) (a : Reg) (b : Reg)
  /-- shr.u: op 0x067, format R, units C (R108). -/
  | shrU (hold : BitVec 2) (d : Reg) (a : Reg) (b : Reg)
  /-- min.u: op 0x068, format R, units C (R108). -/
  | minU (hold : BitVec 2) (d : Reg) (a : Reg) (b : Reg)
  /-- max.u: op 0x069, format R, units C (R108). -/
  | maxU (hold : BitVec 2) (d : Reg) (a : Reg) (b : Reg)
  /-- seq.u: op 0x06a, format R, units C (R108). -/
  | seqU (hold : BitVec 2) (d : Reg) (a : Reg) (b : Reg)
  /-- slt.u: op 0x06b, format R, units C (R108). -/
  | sltU (hold : BitVec 2) (d : Reg) (a : Reg) (b : Reg)
  /-- mov.u: op 0x06c, format R, units C (R108). -/
  | movU (hold : BitVec 2) (d : Reg) (a : Reg)
  /-- add64.u: op 0x06d, format R, units C (R108). -/
  | add64U (hold : BitVec 2) (d : Reg) (a : Reg) (b : Reg)
  /-- addi.u: op 0x06e, format I, units C (R108). -/
  | addiU (hold : BitVec 2) (d : Reg) (a : Reg) (imm : BitVec 7)
  /-- shli.u: op 0x06f, format I, units C (R108). -/
  | shliU (hold : BitVec 2) (d : Reg) (a : Reg) (imm : BitVec 7)
  /-- fadd: op 0x080, format R, units C N W (R109). -/
  | fadd (hold : BitVec 2) (d : Reg) (a : Reg) (b : Reg)
  /-- fsub: op 0x081, format R, units C N W (R109). -/
  | fsub (hold : BitVec 2) (d : Reg) (a : Reg) (b : Reg)
  /-- fmul: op 0x082, format R, units C N W (R109). -/
  | fmul (hold : BitVec 2) (d : Reg) (a : Reg) (b : Reg)
  /-- fma: op 0x083, format R, units C N W (R109). -/
  | fma (hold : BitVec 2) (d : Reg) (a : Reg) (b : Reg)
  /-- fmin: op 0x084, format R, units C N W (R110). -/
  | fmin (hold : BitVec 2) (d : Reg) (a : Reg) (b : Reg)
  /-- fmax: op 0x085, format R, units C N W (R110). -/
  | fmax (hold : BitVec 2) (d : Reg) (a : Reg) (b : Reg)
  /-- fabs: op 0x086, format R, units C N W (R110). -/
  | fabs (hold : BitVec 2) (d : Reg) (a : Reg)
  /-- fneg: op 0x087, format R, units C N W (R110). -/
  | fneg (hold : BitVec 2) (d : Reg) (a : Reg)
  /-- frcp: op 0x088, format R, units C (R111). -/
  | frcp (hold : BitVec 2) (d : Reg) (a : Reg)
  /-- frsq: op 0x089, format R, units C (R111). -/
  | frsq (hold : BitVec 2) (d : Reg) (a : Reg)
  /-- fsqrt: op 0x08a, format R, units C (R111). -/
  | fsqrt (hold : BitVec 2) (d : Reg) (a : Reg)
  /-- fexp2: op 0x08b, format R, units C (R111). -/
  | fexp2 (hold : BitVec 2) (d : Reg) (a : Reg)
  /-- flog2: op 0x08c, format R, units C (R111). -/
  | flog2 (hold : BitVec 2) (d : Reg) (a : Reg)
  /-- fseq: op 0x090, format R, units C N W (R112). -/
  | fseq (hold : BitVec 2) (d : Reg) (a : Reg) (b : Reg)
  /-- fsne: op 0x091, format R, units C N W (R112). -/
  | fsne (hold : BitVec 2) (d : Reg) (a : Reg) (b : Reg)
  /-- fslt: op 0x092, format R, units C N W (R112). -/
  | fslt (hold : BitVec 2) (d : Reg) (a : Reg) (b : Reg)
  /-- fsle: op 0x093, format R, units C N W (R112). -/
  | fsle (hold : BitVec 2) (d : Reg) (a : Reg) (b : Reg)
  /-- dot2: op 0x098, format R, units C N (R114). -/
  | dot2 (hold : BitVec 2) (d : Reg) (a : Reg) (b : Reg)
  /-- dot4: op 0x099, format R, units C N (R114). -/
  | dot4 (hold : BitVec 2) (d : Reg) (a : Reg) (b : Reg)
  /-- dot8: op 0x09a, format R, units C N (R114). -/
  | dot8 (hold : BitVec 2) (d : Reg) (a : Reg) (b : Reg)
  /-- hadd: op 0x0a0, format R, units C N (R113). -/
  | hadd (hold : BitVec 2) (d : Reg) (a : Reg) (b : Reg)
  /-- hsub: op 0x0a1, format R, units C N (R113). -/
  | hsub (hold : BitVec 2) (d : Reg) (a : Reg) (b : Reg)
  /-- hmul: op 0x0a2, format R, units C N (R113). -/
  | hmul (hold : BitVec 2) (d : Reg) (a : Reg) (b : Reg)
  /-- hfma: op 0x0a3, format R, units C N (R113). -/
  | hfma (hold : BitVec 2) (d : Reg) (a : Reg) (b : Reg)
  /-- hmin: op 0x0a4, format R, units C N (R113). -/
  | hmin (hold : BitVec 2) (d : Reg) (a : Reg) (b : Reg)
  /-- hmax: op 0x0a5, format R, units C N (R113). -/
  | hmax (hold : BitVec 2) (d : Reg) (a : Reg) (b : Reg)
  /-- cvt: op 0x0c0, format R, units C N W (R115). -/
  | cvt (hold : BitVec 2) (d : Reg) (a : Reg)
  /-- pack: op 0x0c1, format R, units C N (R116). -/
  | pack (hold : BitVec 2) (d : Reg) (a : Reg) (b : Reg)
  /-- unpk: op 0x0c2, format R, units C N (R117). -/
  | unpk (hold : BitVec 2) (d : Reg) (a : Reg) (b : Reg)
  /-- tagw: op 0x0c3, format K, units C N (R118). -/
  | tagw (d : Reg) (code : BitVec 8)
  /-- tagr: op 0x0c4, format R, units C (R119). -/
  | tagr (hold : BitVec 2) (d : Reg) (a : Reg)
  /-- setm: op 0x0c5, format I, units C (R120). -/
  | setm (hold : BitVec 2) (a : Reg) (sel : BitVec 7)
  /-- setmi: op 0x0c6, format K+L, units C (R120). -/
  | setmi (lit : Word)
  /-- getm: op 0x0c7, format I, units C (R120). -/
  | getm (hold : BitVec 2) (d : Reg) (sel : BitVec 7)
  /-- stat: op 0x0c8, format R, units C (R121). -/
  | stat (hold : BitVec 2) (d : Reg) (a : Reg)
  /-- vote.any: op 0x0d0, format R, units C (R123). -/
  | voteAny (hold : BitVec 2) (d : Reg) (a : Reg)
  /-- vote.all: op 0x0d1, format R, units C (R123). -/
  | voteAll (hold : BitVec 2) (d : Reg) (a : Reg)
  /-- vote.bal: op 0x0d2, format R, units C (R123). -/
  | voteBal (hold : BitVec 2) (d : Reg) (a : Reg)
  /-- shfl.idx: op 0x0d3, format R, units C (R124). -/
  | shflIdx (hold : BitVec 2) (d : Reg) (a : Reg) (b : Reg)
  /-- shfl.up: op 0x0d4, format R, units C (R124). -/
  | shflUp (hold : BitVec 2) (d : Reg) (a : Reg) (b : Reg)
  /-- shfl.dn: op 0x0d5, format R, units C (R124). -/
  | shflDn (hold : BitVec 2) (d : Reg) (a : Reg) (b : Reg)
  /-- shfl.xor: op 0x0d6, format R, units C (R124). -/
  | shflXor (hold : BitVec 2) (d : Reg) (a : Reg) (b : Reg)
  /-- bcast: op 0x0d7, format R, units C (R125). -/
  | bcast (hold : BitVec 2) (d : Reg) (a : Reg) (b : Reg)
  /-- redu.add: op 0x0d8, format R, units C (R126). -/
  | reduAdd (hold : BitVec 2) (d : Reg) (a : Reg)
  /-- redu.min: op 0x0d9, format R, units C (R126). -/
  | reduMin (hold : BitVec 2) (d : Reg) (a : Reg)
  /-- redu.max: op 0x0da, format R, units C (R126). -/
  | reduMax (hold : BitVec 2) (d : Reg) (a : Reg)
  /-- prefx: op 0x0db, format R, units C (R127). -/
  | prefx (hold : BitVec 2) (d : Reg) (a : Reg)
  /-- wid: op 0x0dc, format I, units C (R128). -/
  | wid (hold : BitVec 2) (d : Reg) (fld : BitVec 7)
  /-- lane: op 0x0dd, format R, units C (R128). -/
  | lane (hold : BitVec 2) (d : Reg)
  /-- maskr: op 0x0de, format R, units C (R128). -/
  | maskr (hold : BitVec 2) (d : Reg)
  /-- liver: op 0x0df, format R, units C (R128). -/
  | liver (hold : BitVec 2) (d : Reg)
  /-- nop: op 0x100, format R, units C N W (R156). -/
  | nop (hold : BitVec 2)
  /-- br: op 0x101, format B, units C W (R135). -/
  | br (a : Reg) (off : BitVec 16)
  /-- bru: op 0x102, format B, units C (R136). -/
  | bru (a : Reg) (off : BitVec 16)
  /-- jmp: op 0x103, format B, units C N W (R135). -/
  | jmp (off : BitVec 16)
  /-- jmpr: op 0x104, format R, units C W (R137). -/
  | jmpr (hold : BitVec 2) (a : Reg)
  /-- call: op 0x105, format B, units C W (R138). -/
  | call (a : Reg) (off : BitVec 16)
  /-- ret: op 0x106, format R, units C W (R137). -/
  | ret (hold : BitVec 2) (a : Reg)
  /-- joinat: op 0x107, format B, units C (R139). -/
  | joinat (off : BitVec 16)
  /-- join: op 0x108, format R, units C (R140). -/
  | join (hold : BitVec 2)
  /-- brk: op 0x109, format K, units C (R141). -/
  | brk (n : BitVec 4)
  /-- loop: op 0x10a, format B, units C N (R142). -/
  | loop (a : Reg) (off : BitVec 16)
  /-- lexit: op 0x10b, format B, units C (R145). -/
  | lexit (a : Reg) (off : BitVec 16)
  /-- exit: op 0x10c, format R, units C N W (R146). -/
  | exit (hold : BitVec 2)
  /-- trap: op 0x10d, format K, units C (R148). -/
  | trap (svc : BitVec 8) (cause : BitVec 8)
  /-- tret: op 0x10e, format R, units Cs (R150). -/
  | tret (hold : BitVec 2)
  /-- waitv: op 0x10f, format R, units C (R152). -/
  | waitv (hold : BitVec 2) (d : Reg) (a : Reg) (b : Reg)
  /-- yield: op 0x110, format R, units C (R153). -/
  | yield (hold : BitVec 2)
  /-- sleep: op 0x111, format K, units C (R154). -/
  | sleep (imm : BitVec 16)
  /-- pgmap: op 0x120, format R, units Cs (R295). -/
  | pgmap (hold : BitVec 2) (d : Reg) (a : Reg) (b : Reg)
  /-- pginv: op 0x121, format R, units Cs (R296). -/
  | pginv (hold : BitVec 2) (d : Reg) (a : Reg) (b : Reg)
  /-- ldb: op 0x140, format I, units C (R164). -/
  | ldb (hold : BitVec 2) (d : Reg) (a : Reg) (imm : BitVec 7)
  /-- ldbs: op 0x141, format I, units C (R164). -/
  | ldbs (hold : BitVec 2) (d : Reg) (a : Reg) (imm : BitVec 7)
  /-- ldh: op 0x142, format I, units C (R164). -/
  | ldh (hold : BitVec 2) (d : Reg) (a : Reg) (imm : BitVec 7)
  /-- ldhs: op 0x143, format I, units C (R164). -/
  | ldhs (hold : BitVec 2) (d : Reg) (a : Reg) (imm : BitVec 7)
  /-- ld: op 0x144, format I, units C (R164). -/
  | ld (hold : BitVec 2) (d : Reg) (a : Reg) (imm : BitVec 7)
  /-- ldd: op 0x145, format I, units C (R164). -/
  | ldd (hold : BitVec 2) (d : Reg) (a : Reg) (imm : BitVec 7)
  /-- ldq: op 0x146, format I, units C (R164). -/
  | ldq (hold : BitVec 2) (d : Reg) (a : Reg) (imm : BitVec 7)
  /-- stb: op 0x148, format I, units C (R165). -/
  | stb (hold : BitVec 2) (d : Reg) (a : Reg) (imm : BitVec 7)
  /-- sth: op 0x149, format I, units C (R165). -/
  | sth (hold : BitVec 2) (d : Reg) (a : Reg) (imm : BitVec 7)
  /-- st: op 0x14a, format I, units C (R165). -/
  | st (hold : BitVec 2) (d : Reg) (a : Reg) (imm : BitVec 7)
  /-- std: op 0x14b, format I, units C (R165). -/
  | std (hold : BitVec 2) (d : Reg) (a : Reg) (imm : BitVec 7)
  /-- stq: op 0x14c, format I, units C (R165). -/
  | stq (hold : BitVec 2) (d : Reg) (a : Reg) (imm : BitVec 7)
  /-- ld.acq: op 0x150, format I, units C (R167). -/
  | ldAcq (hold : BitVec 2) (d : Reg) (a : Reg) (imm : BitVec 7)
  /-- ldd.acq: op 0x151, format I, units C (R167). -/
  | lddAcq (hold : BitVec 2) (d : Reg) (a : Reg) (imm : BitVec 7)
  /-- st.rel: op 0x152, format I, units C (R167). -/
  | stRel (hold : BitVec 2) (d : Reg) (a : Reg) (imm : BitVec 7)
  /-- std.rel: op 0x153, format I, units C (R167). -/
  | stdRel (hold : BitVec 2) (d : Reg) (a : Reg) (imm : BitVec 7)
  /-- ldro: op 0x154, format I, units C (R169). -/
  | ldro (hold : BitVec 2) (d : Reg) (a : Reg) (imm : BitVec 7)
  /-- ldro.q: op 0x155, format I, units C (R169). -/
  | ldroQ (hold : BitVec 2) (d : Reg) (a : Reg) (imm : BitVec 7)
  /-- pref: op 0x156, format I, units C (R171). -/
  | pref (hold : BitVec 2) (a : Reg) (imm : BitVec 7)
  /-- lds: op 0x160, format I, units C (R173). -/
  | lds (hold : BitVec 2) (d : Reg) (a : Reg) (imm : BitVec 7)
  /-- lds.q: op 0x161, format I, units C (R173). -/
  | ldsQ (hold : BitVec 2) (d : Reg) (a : Reg) (imm : BitVec 7)
  /-- sts: op 0x162, format I, units C (R173). -/
  | sts (hold : BitVec 2) (d : Reg) (a : Reg) (imm : BitVec 7)
  /-- sts.q: op 0x163, format I, units C (R173). -/
  | stsQ (hold : BitVec 2) (d : Reg) (a : Reg) (imm : BitVec 7)
  /-- tagl: op 0x168, format R, units C (R175). -/
  | tagl (hold : BitVec 2) (d : Reg) (a : Reg)
  /-- tagi: op 0x169, format R, units C (R175). -/
  | tagi (hold : BitVec 2) (d : Reg) (a : Reg) (b : Reg)
  /-- tage: op 0x16a, format R, units C (R175). -/
  | tage (hold : BitVec 2) (d : Reg) (a : Reg)
  /-- tagp: op 0x16b, format R, units C (R175). -/
  | tagp (hold : BitVec 2) (d : Reg) (a : Reg) (b : Reg)
  /-- tagt: op 0x16c, format R, units C (R175). -/
  | tagt (hold : BitVec 2) (d : Reg) (a : Reg) (b : Reg)
  /-- aadd: op 0x180, format R, units C (R176). -/
  | aadd (hold : BitVec 2) (d : Reg) (a : Reg) (b : Reg)
  /-- amin: op 0x181, format R, units C (R176). -/
  | amin (hold : BitVec 2) (d : Reg) (a : Reg) (b : Reg)
  /-- amax: op 0x182, format R, units C (R176). -/
  | amax (hold : BitVec 2) (d : Reg) (a : Reg) (b : Reg)
  /-- aand: op 0x183, format R, units C (R176). -/
  | aand (hold : BitVec 2) (d : Reg) (a : Reg) (b : Reg)
  /-- aor: op 0x184, format R, units C (R176). -/
  | aor (hold : BitVec 2) (d : Reg) (a : Reg) (b : Reg)
  /-- axor: op 0x185, format R, units C (R176). -/
  | axor (hold : BitVec 2) (d : Reg) (a : Reg) (b : Reg)
  /-- axch: op 0x186, format R, units C (R176). -/
  | axch (hold : BitVec 2) (d : Reg) (a : Reg) (b : Reg)
  /-- acas: op 0x187, format R, units C (R176). -/
  | acas (hold : BitVec 2) (d : Reg) (a : Reg) (b : Reg)
  /-- aadd64: op 0x188, format R, units C (R176). -/
  | aadd64 (hold : BitVec 2) (d : Reg) (a : Reg) (b : Reg)
  /-- acas64: op 0x189, format R, units C (R176). -/
  | acas64 (hold : BitVec 2) (d : Reg) (a : Reg) (b : Reg)
  /-- fence: op 0x18c, format R, units C (R168). -/
  | fence (hold : BitVec 2)
  /-- fence.ro: op 0x18d, format R, units C (R170). -/
  | fenceRo (hold : BitVec 2)
  /-- waitc: op 0x190, format K, units C (R178). -/
  | waitc (tl : BitVec 4) (cp : BitVec 4) (st : BitVec 4) (ld : BitVec 4)
  /-- waitr: op 0x191, format I, units C (R179). -/
  | waitr (hold : BitVec 2) (a : Reg) (cls : BitVec 7)
  /-- ctrr: op 0x192, format I, units C (R179). -/
  | ctrr (hold : BitVec 2) (d : Reg) (cls : BitVec 7)
  /-- bar: op 0x198, format R, units C (R181). -/
  | bar (hold : BitVec 2)
  /-- baro.arr: op 0x199, format R, units C (R184). -/
  | baroArr (hold : BitVec 2) (a : Reg)
  /-- baro.wt: op 0x19a, format R, units C (R186). -/
  | baroWt (hold : BitVec 2) (d : Reg) (a : Reg) (b : Reg)
  /-- xld: op 0x1a0, format R, units C (R191). -/
  | xld (hold : BitVec 2) (d : Reg) (a : Reg) (b : Reg)
  /-- xld.q: op 0x1a1, format R, units C (R191). -/
  | xldQ (hold : BitVec 2) (d : Reg) (a : Reg) (b : Reg)
  /-- xst: op 0x1a2, format R, units C (R191). -/
  | xst (hold : BitVec 2) (d : Reg) (a : Reg) (b : Reg)
  /-- xst.q: op 0x1a3, format R, units C (R191). -/
  | xstQ (hold : BitVec 2) (d : Reg) (a : Reg) (b : Reg)
  /-- xat: op 0x1a4, format R, units C (R191). -/
  | xat (hold : BitVec 2) (d : Reg) (a : Reg) (b : Reg)
  /-- xcas: op 0x1a5, format R, units C (R191). -/
  | xcas (hold : BitVec 2) (d : Reg) (a : Reg) (b : Reg)
  /-- cwdet: op 0x1a8, format R, units C (R194). -/
  | cwdet (hold : BitVec 2)
  /-- cwleave: op 0x1a9, format R, units C (R195). -/
  | cwleave (hold : BitVec 2)
  /-- cwxch: op 0x1aa, format R, units C (R196). -/
  | cwxch (hold : BitVec 2) (d : Reg) (a : Reg) (b : Reg)
  /-- wbld: op 0x1c0, format R, units C (R205). -/
  | wbld (hold : BitVec 2) (tile : BitVec 7) (a : Reg)
  /-- wbz: op 0x1c1, format R, units C (R206). -/
  | wbz (hold : BitVec 2) (tile : BitVec 7)
  /-- mma: op 0x1c2, format R, units C (R208). -/
  | mma (hold : BitVec 2) (tile : BitVec 7) (a : Reg) (slot : BitVec 7)
  /-- accz: op 0x1c3, format R, units C (R212). -/
  | accz (hold : BitVec 2) (tile : BitVec 7)
  /-- accsv: op 0x1c4, format R, units C (R212). -/
  | accsv (hold : BitVec 2) (tile : BitVec 7) (a : Reg)
  /-- accrs: op 0x1c5, format R, units C (R212). -/
  | accrs (hold : BitVec 2) (tile : BitVec 7) (a : Reg)
  /-- tdrain: op 0x1c6, format R, units C (R213). -/
  | tdrain (hold : BitVec 2) (tile : BitVec 7) (a : Reg)
  /-- tscale: op 0x1c7, format R, units C (R214). -/
  | tscale (hold : BitVec 2) (tile : BitVec 7) (a : Reg) (sel : BitVec 7)
  /-- histrd: op 0x1c8, format R, units C (R215). -/
  | histrd (hold : BitVec 2) (d : Reg) (tile : BitVec 7)
  /-- histz: op 0x1c9, format R, units C (R215). -/
  | histz (hold : BitVec 2) (tile : BitVec 7)
  /-- cpy: op 0x1cc, format R, units C (R217). -/
  | cpy (hold : BitVec 2) (d : Reg) (a : Reg) (b : Reg)
  /-- cpy2d: op 0x1cd, format R, units C (R217). -/
  | cpy2d (hold : BitVec 2) (d : Reg) (a : Reg) (b : Reg)
  /-- cpfill: op 0x1ce, format R, units C (R217). -/
  | cpfill (hold : BitVec 2) (d : Reg) (a : Reg) (b : Reg)
  /-- cprt: op 0x1cf, format R, units C (R221). -/
  | cprt (hold : BitVec 2) (a : Reg) (b : Reg)
  /-- nmld: op 0x1d0, format R, units C (R240). -/
  | nmld (hold : BitVec 2) (d : Reg) (a : Reg)
  /-- nmsw: op 0x1d1, format R, units C (R241). -/
  | nmsw (hold : BitVec 2) (d : Reg) (a : Reg)
  /-- nmx: op 0x1d2, format R, units C (R244). -/
  | nmx (hold : BitVec 2) (a : Reg)
  /-- nmst: op 0x1d3, format R, units C (R242). -/
  | nmst (hold : BitVec 2) (d : Reg) (a : Reg) (b : Reg)
  /-- idxreg: op 0x1d4, format R, units C (R246). -/
  | idxreg (hold : BitVec 2) (d : Reg) (a : Reg) (b : Reg)
  /-- srch: op 0x1d5, format R, units C (R247). -/
  | srch (hold : BitVec 2) (d : Reg) (a : Reg)
  /-- scan: op 0x1d6, format R, units C (R247). -/
  | scan (hold : BitVec 2) (d : Reg) (a : Reg)
  /-- walk: op 0x1d7, format R, units C (R247). -/
  | walk (hold : BitVec 2) (d : Reg) (a : Reg)
  /-- xred: op 0x1d8, format R, units C (R251). -/
  | xred (hold : BitVec 2) (a : Reg)
  /-- tkmerge: op 0x1d9, format R, units C (R250). -/
  | tkmerge (hold : BitVec 2) (d : Reg) (a : Reg) (b : Reg)
  /-- ivcommit: op 0x1da, format R, units C (R248). -/
  | ivcommit (hold : BitVec 2) (d : Reg) (a : Reg)
  /-- qpush: op 0x1dc, format R, units C (R252). -/
  | qpush (hold : BitVec 2) (d : Reg) (a : Reg) (b : Reg)
  /-- qpop: op 0x1dd, format R, units C (R252). -/
  | qpop (hold : BitVec 2) (d : Reg) (a : Reg)
  /-- jcard: op 0x1de, format R, units C (R253). -/
  | jcard (hold : BitVec 2) (d : Reg) (a : Reg)
  /-- launch: op 0x1df, format R, units C (R253). -/
  | launch (hold : BitVec 2) (d : Reg) (a : Reg)
  /-- evset: op 0x1e0, format R, units C (R254). -/
  | evset (hold : BitVec 2) (a : Reg) (b : Reg)
  /-- evclr: op 0x1e1, format R, units C (R254). -/
  | evclr (hold : BitVec 2) (a : Reg) (b : Reg)
  /-- evrd: op 0x1e2, format R, units C (R254). -/
  | evrd (hold : BitVec 2) (d : Reg) (a : Reg)
  /-- bsgl: op 0x1e9, format R, units N (R230). -/
  | bsgl (hold : BitVec 2) (a : Reg)
  /-- brow: op 0x1ea, format R, units N (R231). -/
  | brow (hold : BitVec 2) (a : Reg)
  /-- bcolr: op 0x1eb, format R, units N (R232). -/
  | bcolr (hold : BitVec 2) (d : Reg) (a : Reg)
  /-- bcolw: op 0x1ec, format R, units N (R232). -/
  | bcolw (hold : BitVec 2) (d : Reg) (a : Reg)
  /-- bres: op 0x1ed, format R, units N (R233). -/
  | bres (hold : BitVec 2) (d : Reg) (a : Reg)
  /-- ifm: op 0x1ee, format R, units N (R229). -/
  | ifm (hold : BitVec 2) (a : Reg)
  /-- dist: op 0x1f4, format R, units W (R235). -/
  | dist (hold : BitVec 2) (d : Reg) (a : Reg)
  /-- heapi: op 0x1f5, format R, units W (R236). -/
  | heapi (hold : BitVec 2) (d : Reg) (a : Reg) (b : Reg)
  /-- adj: op 0x1f6, format R, units W (R235). -/
  | adj (hold : BitVec 2) (d : Reg) (a : Reg) (b : Reg)
  /-- ferry: op 0x1f7, format R, units W (R237). -/
  | ferry (hold : BitVec 2) (a : Reg)
  /-- vchk: op 0x1f8, format R, units W (R235). -/
  | vchk (hold : BitVec 2) (d : Reg) (a : Reg)
  /-- ball: op 0x1e8, format R, units N (R230). -/
  | ball
  /-- elm: op 0x1ef, format R, units N (R229). -/
  | elm
  /-- enm: op 0x1f0, format R, units N (R229). -/
  | enm
  /-- R161: the data of outstanding load `op` return for the thread slots `slots`. Uses op, slots. -/
  | loadReturn
  /-- R165: outstanding store or atomic `op` is performed for the thread slots `slots`. Uses op, slots. -/
  | storePerformed
  /-- R166: the slots `slots` of load `op`, waiting on empty rows, time out. Uses op, slots. -/
  | emptyRowTimeout
  /-- R151: the event held for a wave reaches its bound. Uses gid, wave. -/
  | heldEventTimeout
  /-- R152: the deadline of a waitv passes. Uses gid, wave, ent. -/
  | waitvTimeout
  /-- R154: a sleep ends. Uses gid, wave, ent. -/
  | sleepWake
  /-- R153: a yield ends. Uses gid, wave, ent. -/
  | yieldWake
  /-- R186: the deadline of a baro.wt passes. Uses gid, wave, ent. -/
  | baroWtTimeout
  /-- R196: the deadline of a cwxch passes. Uses gid, wave, ent. -/
  | pairTimeout
  /-- R143: a waiting loop step completes. Uses gid, wave, ent. -/
  | loopStepComplete
  /-- R184: a baro.arr held for room in the tracking list is performed. Uses gid, wave, ent. -/
  | trackedArrival
  /-- R190: the first packet of a core's request queue takes a request slot and is sent. Uses core. -/
  | xPacketSend
  /-- R356: a request packet arrives at this device. Uses pkt. -/
  | xRequestArrival
  /-- R192: a response packet is accepted at the requesting core. Uses pkt. -/
  | xResponseAccept
  /-- R352: a lost notice for a request of context `ctx` on strait `port` arrives. Uses ctx, port. -/
  | lostNotice
  /-- R355: a cwxch refused for a full pairing table is sent again. Uses op. -/
  | cwxchRetry
  /-- R193: notice that member `member` of the gang of group `gid` was withdrawn; with `flag`, that it has only detached
  or ended. Uses gid, member, flag, value (the tick of the withdrawal); or pkt (R196). -/
  | cwWithdrawalNotice
  /-- R205: the matrix queue's oldest entry, a wbld, completes. Uses core. -/
  | wbldEntryDone
  /-- R206: the matrix queue's oldest entry, a wbz, completes. Uses core. -/
  | wbzEntryDone
  /-- R209: the matrix queue's oldest entry, an mma, completes. Uses core. -/
  | mmaEntryDone
  /-- R212: the matrix queue's oldest entry, an accz, completes. Uses core. -/
  | acczEntryDone
  /-- R212: the matrix queue's oldest entry, an accsv, completes. Uses core. -/
  | accsvEntryDone
  /-- R212: the matrix queue's oldest entry, an accrs, completes. Uses core. -/
  | accrsEntryDone
  /-- R213: the matrix queue's oldest entry, a tdrain, completes. Uses core. -/
  | tdrainEntryDone
  /-- R214: the matrix queue's oldest entry, a tscale, completes. Uses core. -/
  | tscaleEntryDone
  /-- R217: copy or fill `op` completes. Uses op. -/
  | copyComplete
  /-- R221: layout copy `op` completes. Uses op. -/
  | cprtComplete
  /-- R240: microprogram load `op` has written its words. Uses op. -/
  | nmldComplete
  /-- R245: bank engine `engine` starts its oldest queued launch. Uses engine. -/
  | bankLaunchStart
  /-- R228: the program of bank engine `engine` has used up its budget. Uses engine. -/
  | bankBudgetExpiry
  /-- R341: the oldest command waiting at a base die is accepted. Uses stack. -/
  | searchAccept
  /-- R342: srch or scan `op` completes. Uses op. -/
  | searchComplete
  /-- R343: walk `op` completes. Uses op. -/
  | walkComplete
  /-- R343: walk `op` has used up its budget. Uses op. -/
  | walkBudgetExpiry
  /-- R344: the ferry message of walker `op` arrives. Uses op. -/
  | ferryArrival
  /-- R250: top-k merge `op` completes. Uses op. -/
  | tkmergeComplete
  /-- R347: the control processor of a base die stops. Uses stack. -/
  | controllerStop
  /-- R361: a list reaches the crucible of a strait switch. Uses switch, list, flag. -/
  | crucibleListArrival
  /-- R362: the time-out of a crucible's merge expires. Uses switch, index. -/
  | crucibleMergeTimeout
  /-- R361: a list refused by a full crucible is sent again. Uses op. -/
  | crucibleRetry
  /-- R310: the dispatcher makes one placement. -/
  | dispatchStep
  /-- R316: the ladle advances the record that waits on a core. Uses core. -/
  | ladleFill
  /-- R309: a launch completes. Uses ctx, serial. -/
  | launchComplete
  /-- R326: the time-out of a launch expires. Uses ctx, serial. -/
  | launchTimeout
  /-- R319: the pre-emption check runs. -/
  | preemptionCheck
  /-- R321: a group to be saved reaches its boundary and is saved. Uses gid. -/
  | groupSave
  /-- R319: the save message of a gang arrives from another device. Uses ctx, serial, unit. -/
  | gangSaveMessage
  /-- R317: a ready message reaches the gang's home. Uses ctx, serial, unit, ready. -/
  | gangReady
  /-- R317: the home's go starts the members, or with `flag` ends the gang because its copies differ. Uses ctx, serial,
  unit, flag. -/
  | gangGo
  /-- R325: the rotation drains the next core of an isle. Uses isle. -/
  | assayDrainStart
  /-- R375: an assay ends. Uses core, flag. -/
  | assayComplete
  /-- R371: a slice visits a line of its die; `index` is tier × 2^41 + PA div 128, `flag` tells
  that the PA is bank-local. Uses die, index, flag, scrub. -/
  | l2ScrubVisit
  /-- R371: an HBM channel visits a column word. Uses stack, cell, scrub. -/
  | hbmScrubVisit
  /-- R372: the write-back of a quarantined way ends. Uses die, slice. -/
  | quarantineWritebackDone
  /-- R374: the host commands the pending repair. Uses stack. -/
  | repcmdGo
  /-- R374: the host discards the pending repair request. Uses stack. -/
  | repcmdDecline
  /-- R374: a repair finishes. Uses stack. -/
  | repairComplete
  /-- R378: every rail is sampled; `temps` is each die's hottest and mean sensor. Uses rails, temps. -/
  | telemetrySample
  /-- R379: the host writes PSTATE.req = 0. Uses die. -/
  | pstateRun
  /-- R379: the host writes PSTATE.req = 1. Uses die. -/
  | pstateQuiesce
  /-- R379: the host writes PSTATE.req = 2. Uses die. -/
  | pstateHalt
  /-- R379: the host writes MDUTY. Uses die, value. -/
  | mdutyWrite
  /-- R329: the host writes BACT. Uses stack, value. -/
  | bactWrite
  /-- R381: the device is reset. -/
  | deviceReset
  /-- R383: the host submits the image in FWWIN. -/
  | fwctl
  /-- R381: training ends; `index` is 0, 3 or 4, `ports` the strait ports that failed to train. Uses index, ports. -/
  | trainComplete
  /-- R382: the host writes the nonce. Uses wide. -/
  | idchal
  /-- R382: the signature is ready. -/
  | idSignComplete
  /-- R381: the host writes DEVNUM. Uses value. -/
  | devnumWrite
  /-- R381: the host reads DEVSTAT. -/
  | devstatRead
  /-- R306: the host writes CTXCTL.en. Uses ctx, flag. -/
  | ctxctlEn
  /-- R306: the host writes CTXCTL.stop. Uses ctx, flag. -/
  | ctxctlStop
  /-- R306: the host writes CTXCTL.kill = 1. Uses ctx. -/
  | ctxctlKill
  /-- R307: the host writes LQDOOR with bit 0 = 0. Uses ctx, value. -/
  | lqdoorHeader
  /-- R307: the host writes LQDOOR with bit 0 = 1. Uses ctx, value. -/
  | lqdoorCard
  /-- R364: the host writes HARRP. Uses ctx, value. -/
  | harrp
  /-- R347: the host writes CTLRST. Uses value. -/
  | ctlrst
  /-- R345: the host writes QCTL of a task queue. Uses stack, index, value. -/
  | qctlWrite
  /-- R280: the host writes TROOT, or TPOOL when `flag`. Uses die, ctx, flag, value. -/
  | translationRegWrite
  /-- R372: the host writes QWAY. Uses die, slice, value. -/
  | qwayWrite
  /-- R376: the host writes ASYFAIL. Uses die, wide. -/
  | asyfailWrite
  /-- R359: the host writes one routing-table entry. Uses table, index, value. -/
  | routingTableWrite
  /-- R359: the host writes FABGEN. Uses value. -/
  | fabgenWrite
  /-- R384: the host writes the register-window slot at byte offset `index`. Uses index, value. -/
  | registerWrite
  /-- R351: a strait port receives a 256-byte flit. Uses port, flit. -/
  | flitReceive
  /-- R352: a strait link that has not retrained goes down. Uses port. -/
  | linkDown
  /-- R359: a drain marker of a generation reaches a switch input port. Uses switch, port, flag. -/
  | drainMarkerArrival
  /-- R386: the eye of a link is measured. Uses link, eye. -/
  | eyeMeasurement
  /-- R365: a second-tier link fails. Uses die, index. -/
  | cxlLinkFailure
  /-- R363: the host reads or writes tier-0 memory of a die. Uses index, access. -/
  | hostCxlMemAccess
  /-- R351: a strait link finishes retraining. Uses port. -/
  | linkRetrainComplete
  /-- R352: system software brings a strait link up. Uses port. -/
  | linkBringUp
  /-- R365: system software restores a second-tier link. Uses die, index. -/
  | cxlLinkRestore
  deriving DecidableEq, Repr

end Sys2Proof
end

