-- ==== Sys2Proof/Machine/Operands.lean ====
section
/-! DEFINITION. The operand forms: which registers and tiles an instruction names, in the order of 01 R28, what it
does with them, which numbers its number fields may hold, and on which units it runs (03 R76, R81, R82, R83). -/

namespace Sys2Proof

/-- The three kinds of unit that execute instruction words (03 R81). -/
inductive UnitKind where
  | core | bank | walker
  deriving DecidableEq, Repr

/-- One register or tile operand: its field, how many consecutive registers it names (0 for a tile), and whether the
instruction reads or writes them (01 R25, R26; 03 R76). -/
structure Opnd where
  reg : Reg
  count : Nat
  read : Bool
  write : Bool
  deriving DecidableEq, Repr

/-- A single register that is read. -/
def Opnd.src (r : Reg) : Opnd := { reg := r, count := 1, read := true, write := false }
/-- A single register that is written. -/
def Opnd.dst (r : Reg) : Opnd := { reg := r, count := 1, read := false, write := true }
/-- A single register that is read and written. -/
def Opnd.upd (r : Reg) : Opnd := { reg := r, count := 1, read := true, write := true }
/-- A pair (01 R26) or a quad (06 R157). -/
def Opnd.many (n : Nat) (o : Opnd) : Opnd := { o with count := n }
/-- A tile field (03 R76). -/
def Opnd.tile (r : Reg) : Opnd := { reg := r, count := 0, read := false, write := false }

/-- The form holds: a tile field is 0 to 3, a pair is even, a quad a multiple of four (01 R26; 03 R76; 06 R157). -/
def Opnd.formed (o : Opnd) : Bool :=
  if o.count = 0 then o.reg.toNat < 4 else o.reg.toNat % o.count = 0

/-- The operand lies below the register count of the unit (01 R25; 03 R81); tiles are not counted. -/
def Opnd.below (limit : Nat) (o : Opnd) : Bool :=
  o.count = 0 || o.reg.toNat + o.count ≤ limit

/-- The registers an operand stands for: none of the pair named by v0, which reads as zero and is not written (01 R26). -/
def Opnd.regs (o : Opnd) : List Nat := if o.reg = 0 && o.count = 2 then [] else (List.range o.count).map (o.reg.toNat + ·)

/-- The register and tile operands of an instruction in the order d, a, b (01 R28). Events name none. -/
def operands : Instr → List Opnd
  | .add _ d a b => [.dst d, .src a, .src b]
  | .sub _ d a b => [.dst d, .src a, .src b]
  | .mul _ d a b => [.dst d, .src a, .src b]
  | .mulh _ d a b => [.dst d, .src a, .src b]
  | .mad _ d a b => [.upd d, .src a, .src b]
  | .divu _ d a b => [.dst d, .src a, .src b]
  | .divs _ d a b => [.dst d, .src a, .src b]
  | .min _ d a b => [.dst d, .src a, .src b]
  | .max _ d a b => [.dst d, .src a, .src b]
  | .abs _ d a => [.dst d, .src a]
  | .neg _ d a => [.dst d, .src a]
  | .and _ d a b => [.dst d, .src a, .src b]
  | .or _ d a b => [.dst d, .src a, .src b]
  | .xor _ d a b => [.dst d, .src a, .src b]
  | .not _ d a => [.dst d, .src a]
  | .andn _ d a b => [.dst d, .src a, .src b]
  | .shl _ d a b => [.dst d, .src a, .src b]
  | .shr _ d a b => [.dst d, .src a, .src b]
  | .rotl _ d a b => [.dst d, .src a, .src b]
  | .rotr _ d a b => [.dst d, .src a, .src b]
  | .popc _ d a => [.dst d, .src a]
  | .clz _ d a => [.dst d, .src a]
  | .brev _ d a => [.dst d, .src a]
  | .bfe _ d a b => [.dst d, .src a, .src b]
  | .bfi _ d a b => [.upd d, .src a, .src b]
  | .add64 _ d a b => [.many 2 (.dst d), .many 2 (.src a), .many 2 (.src b)]
  | .sub64 _ d a b => [.many 2 (.dst d), .many 2 (.src a), .many 2 (.src b)]
  | .shl64 _ d a b => [.many 2 (.dst d), .many 2 (.src a), .src b]
  | .shr64 _ d a b => [.many 2 (.dst d), .many 2 (.src a), .src b]
  | .seq _ d a b => [.dst d, .src a, .src b]
  | .sne _ d a b => [.dst d, .src a, .src b]
  | .slt _ d a b => [.dst d, .src a, .src b]
  | .sle _ d a b => [.dst d, .src a, .src b]
  | .sel _ d a b => [.dst d, .src a, .src b]
  | .mov _ d a => [.dst d, .src a]
  | .addx _ d a b => [.many 2 (.dst d), .many 2 (.src a), .src b]
  | .addi _ d a _ => [.dst d, .src a]
  | .muli _ d a _ => [.dst d, .src a]
  | .andi _ d a _ => [.dst d, .src a]
  | .ori _ d a _ => [.dst d, .src a]
  | .xori _ d a _ => [.dst d, .src a]
  | .shli _ d a _ => [.dst d, .src a]
  | .shri _ d a _ => [.dst d, .src a]
  | .rotli _ d a _ => [.dst d, .src a]
  | .seqi _ d a _ => [.dst d, .src a]
  | .snei _ d a _ => [.dst d, .src a]
  | .slti _ d a _ => [.dst d, .src a]
  | .slei _ d a _ => [.dst d, .src a]
  | .mini _ d a _ => [.dst d, .src a]
  | .maxi _ d a _ => [.dst d, .src a]
  | .addi64 _ d a _ => [.many 2 (.dst d), .many 2 (.src a)]
  | .movk d _ => [.dst d]
  | .movh d _ => [.upd d]
  | .lit d _ => [.dst d]
  | .addl d _ => [.upd d]
  | .andl d _ => [.upd d]
  | .orl d _ => [.upd d]
  | .addU _ d a b => [.dst d, .src a, .src b]
  | .subU _ d a b => [.dst d, .src a, .src b]
  | .mulU _ d a b => [.dst d, .src a, .src b]
  | .andU _ d a b => [.dst d, .src a, .src b]
  | .orU _ d a b => [.dst d, .src a, .src b]
  | .xorU _ d a b => [.dst d, .src a, .src b]
  | .shlU _ d a b => [.dst d, .src a, .src b]
  | .shrU _ d a b => [.dst d, .src a, .src b]
  | .minU _ d a b => [.dst d, .src a, .src b]
  | .maxU _ d a b => [.dst d, .src a, .src b]
  | .seqU _ d a b => [.dst d, .src a, .src b]
  | .sltU _ d a b => [.dst d, .src a, .src b]
  | .movU _ d a => [.dst d, .src a]
  | .add64U _ d a b => [.many 2 (.dst d), .many 2 (.src a), .many 2 (.src b)]
  | .addiU _ d a _ => [.dst d, .src a]
  | .shliU _ d a _ => [.dst d, .src a]
  | .fadd _ d a b => [.dst d, .src a, .src b]
  | .fsub _ d a b => [.dst d, .src a, .src b]
  | .fmul _ d a b => [.dst d, .src a, .src b]
  | .fma _ d a b => [.upd d, .src a, .src b]
  | .fmin _ d a b => [.dst d, .src a, .src b]
  | .fmax _ d a b => [.dst d, .src a, .src b]
  | .fabs _ d a => [.dst d, .src a]
  | .fneg _ d a => [.dst d, .src a]
  | .frcp _ d a => [.dst d, .src a]
  | .frsq _ d a => [.dst d, .src a]
  | .fsqrt _ d a => [.dst d, .src a]
  | .fexp2 _ d a => [.dst d, .src a]
  | .flog2 _ d a => [.dst d, .src a]
  | .fseq _ d a b => [.dst d, .src a, .src b]
  | .fsne _ d a b => [.dst d, .src a, .src b]
  | .fslt _ d a b => [.dst d, .src a, .src b]
  | .fsle _ d a b => [.dst d, .src a, .src b]
  | .dot2 _ d a b => [.upd d, .src a, .src b]
  | .dot4 _ d a b => [.upd d, .src a, .src b]
  | .dot8 _ d a b => [.upd d, .src a, .src b]
  | .hadd _ d a b => [.dst d, .src a, .src b]
  | .hsub _ d a b => [.dst d, .src a, .src b]
  | .hmul _ d a b => [.dst d, .src a, .src b]
  | .hfma _ d a b => [.upd d, .src a, .src b]
  | .hmin _ d a b => [.dst d, .src a, .src b]
  | .hmax _ d a b => [.dst d, .src a, .src b]
  | .cvt _ d a => [.dst d, .src a]
  | .pack _ d a b => [.upd d, .src a, .src b]
  | .unpk _ d a b => [.dst d, .src a, .src b]
  | .tagw d _ => [.dst d]
  | .tagr _ d a => [.dst d, .src a]
  | .setm _ a _ => [.src a]
  | .getm _ d _ => [.dst d]
  | .stat _ d a => [.dst d, .src a]
  | .voteAny _ d a => [.dst d, .src a]
  | .voteAll _ d a => [.dst d, .src a]
  | .voteBal _ d a => [.many 2 (.dst d), .src a]
  | .shflIdx _ d a b => [.upd d, .src a, .src b]
  | .shflUp _ d a b => [.upd d, .src a, .src b]
  | .shflDn _ d a b => [.upd d, .src a, .src b]
  | .shflXor _ d a b => [.upd d, .src a, .src b]
  | .bcast _ d a b => [.upd d, .src a, .src b]
  | .reduAdd _ d a => [.dst d, .src a]
  | .reduMin _ d a => [.dst d, .src a]
  | .reduMax _ d a => [.dst d, .src a]
  | .prefx _ d a => [.dst d, .src a]
  | .wid _ d _ => [.dst d]
  | .lane _ d => [.dst d]
  | .maskr _ d => [.many 2 (.dst d)]
  | .liver _ d => [.many 2 (.dst d)]
  | .br a _ => [.src a]
  | .bru a _ => [.src a]
  | .jmpr _ a => [.many 2 (.src a)]
  | .call a _ => [.many 2 (.dst a)]
  | .ret _ a => [.many 2 (.src a)]
  | .loop a _ => [.src a]
  | .lexit a _ => [.src a]
  | .waitv _ d a b => [.many 2 (.dst d), .many 2 (.src a), .src b]
  | .pgmap _ d a b => [.dst d, .many 2 (.src a), .src b]
  | .pginv _ d a b => [.dst d, .many 2 (.src a), .src b]
  | .ldb _ d a _ => [.dst d, .many 2 (.src a)]
  | .ldbs _ d a _ => [.dst d, .many 2 (.src a)]
  | .ldh _ d a _ => [.dst d, .many 2 (.src a)]
  | .ldhs _ d a _ => [.dst d, .many 2 (.src a)]
  | .ld _ d a _ => [.dst d, .many 2 (.src a)]
  | .ldd _ d a _ => [.many 2 (.dst d), .many 2 (.src a)]
  | .ldq _ d a _ => [.many 4 (.dst d), .many 2 (.src a)]
  | .stb _ d a _ => [.src d, .many 2 (.src a)]
  | .sth _ d a _ => [.src d, .many 2 (.src a)]
  | .st _ d a _ => [.src d, .many 2 (.src a)]
  | .std _ d a _ => [.many 2 (.src d), .many 2 (.src a)]
  | .stq _ d a _ => [.many 4 (.src d), .many 2 (.src a)]
  | .ldAcq _ d a _ => [.dst d, .many 2 (.src a)]
  | .lddAcq _ d a _ => [.many 2 (.dst d), .many 2 (.src a)]
  | .stRel _ d a _ => [.src d, .many 2 (.src a)]
  | .stdRel _ d a _ => [.many 2 (.src d), .many 2 (.src a)]
  | .ldro _ d a _ => [.dst d, .many 2 (.src a)]
  | .ldroQ _ d a _ => [.many 4 (.dst d), .many 2 (.src a)]
  | .pref _ a _ => [.many 2 (.src a)]
  | .lds _ d a _ => [.dst d, .src a]
  | .ldsQ _ d a _ => [.many 4 (.dst d), .src a]
  | .sts _ d a _ => [.src d, .src a]
  | .stsQ _ d a _ => [.many 4 (.src d), .src a]
  | .tagl _ d a => [.dst d, .many 2 (.src a)]
  | .tagi _ d a b => [.dst d, .many 2 (.src a), .src b]
  | .tage _ d a => [.dst d, .src a]
  | .tagp _ d a b => [.dst d, .src a, .src b]
  | .tagt _ d a b => [.dst d, .src a, .src b]
  | .aadd _ d a b => [.dst d, .many 2 (.src a), .src b]
  | .amin _ d a b => [.dst d, .many 2 (.src a), .src b]
  | .amax _ d a b => [.dst d, .many 2 (.src a), .src b]
  | .aand _ d a b => [.dst d, .many 2 (.src a), .src b]
  | .aor _ d a b => [.dst d, .many 2 (.src a), .src b]
  | .axor _ d a b => [.dst d, .many 2 (.src a), .src b]
  | .axch _ d a b => [.dst d, .many 2 (.src a), .src b]
  | .acas _ d a b => [.upd d, .many 2 (.src a), .src b]
  | .aadd64 _ d a b => [.many 2 (.dst d), .many 2 (.src a), .many 2 (.src b)]
  | .acas64 _ d a b => [.many 2 (.upd d), .many 2 (.src a), .many 2 (.src b)]
  | .waitr _ a _ => [.src a]
  | .ctrr _ d _ => [.dst d]
  | .baroArr _ a => [.many 2 (.src a)]
  | .baroWt _ d a b => [.dst d, .many 2 (.src a), .src b]
  | .xld _ d a b => [.dst d, .src a, .many 2 (.src b)]
  | .xldQ _ d a b => [.many 4 (.dst d), .src a, .many 2 (.src b)]
  | .xst _ d a b => [.src d, .src a, .many 2 (.src b)]
  | .xstQ _ d a b => [.many 4 (.src d), .src a, .many 2 (.src b)]
  | .xat _ d a b => [.upd d, .src a, .many 2 (.src b)]
  | .xcas _ d a b => [.many 2 (.upd d), .src a, .many 2 (.src b)]
  | .cwxch _ d a b => [.upd d, .src a, .src b]
  | .wbld _ tile a => [.tile tile, .many 2 (.src a)]
  | .wbz _ tile => [.tile tile]
  | .mma _ tile a slot => [.tile tile, .src a, .tile slot]
  | .accz _ tile => [.tile tile]
  | .accsv _ tile a => [.tile tile, .many 2 (.src a)]
  | .accrs _ tile a => [.tile tile, .many 2 (.src a)]
  | .tdrain _ tile a => [.tile tile, .src a]
  | .tscale _ tile a _ => [.tile tile, .src a]
  | .histrd _ d tile => [.dst d, .tile tile]
  | .histz _ tile => [.tile tile]
  | .cpy _ d a b => [.many 2 (.src d), .many 2 (.src a), .src b]
  | .cpy2d _ d a b => [.many 2 (.src d), .many 2 (.src a), .many 4 (.src b)]
  | .cpfill _ d a b => [.many 2 (.src d), .src a, .src b]
  | .cprt _ a b => [.many 2 (.src a), .many 2 (.src b)]
  | .nmld _ d a => [.src d, .many 2 (.src a)]
  | .nmsw _ d a => [.dst d, .src a]
  | .nmx _ a => [.many 2 (.src a)]
  | .nmst _ d a b => [.dst d, .src a, .src b]
  | .idxreg _ d a b => [.dst d, .many 2 (.src a), .src b]
  | .srch _ d a => [.dst d, .many 2 (.src a)]
  | .scan _ d a => [.dst d, .many 2 (.src a)]
  | .walk _ d a => [.dst d, .many 2 (.src a)]
  | .xred _ a => [.many 2 (.src a)]
  | .tkmerge _ d a b => [.many 2 (.src d), .many 2 (.src a), .many 2 (.src b)]
  | .ivcommit _ d a => [.dst d, .many 2 (.src a)]
  | .qpush _ d a b => [.dst d, .src a, .many 2 (.src b)]
  | .qpop _ d a => [.many 2 (.dst d), .src a]
  | .jcard _ d a => [.dst d, .many 2 (.src a)]
  | .launch _ d a => [.dst d, .many 2 (.src a)]
  | .evset _ a b => [.many 2 (.src a), .src b]
  | .evclr _ a b => [.many 2 (.src a), .src b]
  | .evrd _ d a => [.many 2 (.dst d), .src a]
  | .bsgl _ a => [.src a]
  | .brow _ a => [.src a]
  | .bcolr _ d a => [.dst d, .src a]
  | .bcolw _ d a => [.src d, .src a]
  | .bres _ d a => [.src d, .src a]
  | .ifm _ a => [.src a]
  | .dist _ d a => [.dst d, .src a]
  | .heapi _ d a b => [.dst d, .src a, .src b]
  | .adj _ d a b => [.dst d, .src a, .src b]
  | .ferry _ a => [.src a]
  | .vchk _ d a => [.dst d, .src a]
  | _ => []

/-- The register a hold field keeps, where the instruction reads one in the field the code names (01 R31; 06 R157; 07 R197;
08). In opcode group 4 the field has no effect (05 R130; 10 R294). DESIGN CHOICE (assumption log 90): of a pair or a quad
the latch keeps the first register alone. -/
def heldReg : Instr → Option Reg
  | .add hold _ a b => if hold = 1 then some a else if hold = 2 then some b else none
  | .sub hold _ a b => if hold = 1 then some a else if hold = 2 then some b else none
  | .mul hold _ a b => if hold = 1 then some a else if hold = 2 then some b else none
  | .mulh hold _ a b => if hold = 1 then some a else if hold = 2 then some b else none
  | .mad hold d a b => if hold = 1 then some a else if hold = 2 then some b else if hold = 3 then some d else none
  | .divu hold _ a b => if hold = 1 then some a else if hold = 2 then some b else none
  | .divs hold _ a b => if hold = 1 then some a else if hold = 2 then some b else none
  | .min hold _ a b => if hold = 1 then some a else if hold = 2 then some b else none
  | .max hold _ a b => if hold = 1 then some a else if hold = 2 then some b else none
  | .abs hold _ a => if hold = 1 then some a else none
  | .neg hold _ a => if hold = 1 then some a else none
  | .and hold _ a b => if hold = 1 then some a else if hold = 2 then some b else none
  | .or hold _ a b => if hold = 1 then some a else if hold = 2 then some b else none
  | .xor hold _ a b => if hold = 1 then some a else if hold = 2 then some b else none
  | .not hold _ a => if hold = 1 then some a else none
  | .andn hold _ a b => if hold = 1 then some a else if hold = 2 then some b else none
  | .shl hold _ a b => if hold = 1 then some a else if hold = 2 then some b else none
  | .shr hold _ a b => if hold = 1 then some a else if hold = 2 then some b else none
  | .rotl hold _ a b => if hold = 1 then some a else if hold = 2 then some b else none
  | .rotr hold _ a b => if hold = 1 then some a else if hold = 2 then some b else none
  | .popc hold _ a => if hold = 1 then some a else none
  | .clz hold _ a => if hold = 1 then some a else none
  | .brev hold _ a => if hold = 1 then some a else none
  | .bfe hold _ a b => if hold = 1 then some a else if hold = 2 then some b else none
  | .bfi hold d a b => if hold = 1 then some a else if hold = 2 then some b else if hold = 3 then some d else none
  | .add64 hold _ a b => if hold = 1 then some a else if hold = 2 then some b else none
  | .sub64 hold _ a b => if hold = 1 then some a else if hold = 2 then some b else none
  | .shl64 hold _ a b => if hold = 1 then some a else if hold = 2 then some b else none
  | .shr64 hold _ a b => if hold = 1 then some a else if hold = 2 then some b else none
  | .seq hold _ a b => if hold = 1 then some a else if hold = 2 then some b else none
  | .sne hold _ a b => if hold = 1 then some a else if hold = 2 then some b else none
  | .slt hold _ a b => if hold = 1 then some a else if hold = 2 then some b else none
  | .sle hold _ a b => if hold = 1 then some a else if hold = 2 then some b else none
  | .sel hold _ a b => if hold = 1 then some a else if hold = 2 then some b else none
  | .mov hold _ a => if hold = 1 then some a else none
  | .addx hold _ a b => if hold = 1 then some a else if hold = 2 then some b else none
  | .addi hold _ a _ => if hold = 1 then some a else none
  | .muli hold _ a _ => if hold = 1 then some a else none
  | .andi hold _ a _ => if hold = 1 then some a else none
  | .ori hold _ a _ => if hold = 1 then some a else none
  | .xori hold _ a _ => if hold = 1 then some a else none
  | .shli hold _ a _ => if hold = 1 then some a else none
  | .shri hold _ a _ => if hold = 1 then some a else none
  | .rotli hold _ a _ => if hold = 1 then some a else none
  | .seqi hold _ a _ => if hold = 1 then some a else none
  | .snei hold _ a _ => if hold = 1 then some a else none
  | .slti hold _ a _ => if hold = 1 then some a else none
  | .slei hold _ a _ => if hold = 1 then some a else none
  | .mini hold _ a _ => if hold = 1 then some a else none
  | .maxi hold _ a _ => if hold = 1 then some a else none
  | .addi64 hold _ a _ => if hold = 1 then some a else none
  | .addU hold _ a b => if hold = 1 then some a else if hold = 2 then some b else none
  | .subU hold _ a b => if hold = 1 then some a else if hold = 2 then some b else none
  | .mulU hold _ a b => if hold = 1 then some a else if hold = 2 then some b else none
  | .andU hold _ a b => if hold = 1 then some a else if hold = 2 then some b else none
  | .orU hold _ a b => if hold = 1 then some a else if hold = 2 then some b else none
  | .xorU hold _ a b => if hold = 1 then some a else if hold = 2 then some b else none
  | .shlU hold _ a b => if hold = 1 then some a else if hold = 2 then some b else none
  | .shrU hold _ a b => if hold = 1 then some a else if hold = 2 then some b else none
  | .minU hold _ a b => if hold = 1 then some a else if hold = 2 then some b else none
  | .maxU hold _ a b => if hold = 1 then some a else if hold = 2 then some b else none
  | .seqU hold _ a b => if hold = 1 then some a else if hold = 2 then some b else none
  | .sltU hold _ a b => if hold = 1 then some a else if hold = 2 then some b else none
  | .movU hold _ a => if hold = 1 then some a else none
  | .add64U hold _ a b => if hold = 1 then some a else if hold = 2 then some b else none
  | .addiU hold _ a _ => if hold = 1 then some a else none
  | .shliU hold _ a _ => if hold = 1 then some a else none
  | .fadd hold _ a b => if hold = 1 then some a else if hold = 2 then some b else none
  | .fsub hold _ a b => if hold = 1 then some a else if hold = 2 then some b else none
  | .fmul hold _ a b => if hold = 1 then some a else if hold = 2 then some b else none
  | .fma hold d a b => if hold = 1 then some a else if hold = 2 then some b else if hold = 3 then some d else none
  | .fmin hold _ a b => if hold = 1 then some a else if hold = 2 then some b else none
  | .fmax hold _ a b => if hold = 1 then some a else if hold = 2 then some b else none
  | .fabs hold _ a => if hold = 1 then some a else none
  | .fneg hold _ a => if hold = 1 then some a else none
  | .frcp hold _ a => if hold = 1 then some a else none
  | .frsq hold _ a => if hold = 1 then some a else none
  | .fsqrt hold _ a => if hold = 1 then some a else none
  | .fexp2 hold _ a => if hold = 1 then some a else none
  | .flog2 hold _ a => if hold = 1 then some a else none
  | .fseq hold _ a b => if hold = 1 then some a else if hold = 2 then some b else none
  | .fsne hold _ a b => if hold = 1 then some a else if hold = 2 then some b else none
  | .fslt hold _ a b => if hold = 1 then some a else if hold = 2 then some b else none
  | .fsle hold _ a b => if hold = 1 then some a else if hold = 2 then some b else none
  | .dot2 hold d a b => if hold = 1 then some a else if hold = 2 then some b else if hold = 3 then some d else none
  | .dot4 hold d a b => if hold = 1 then some a else if hold = 2 then some b else if hold = 3 then some d else none
  | .dot8 hold d a b => if hold = 1 then some a else if hold = 2 then some b else if hold = 3 then some d else none
  | .hadd hold _ a b => if hold = 1 then some a else if hold = 2 then some b else none
  | .hsub hold _ a b => if hold = 1 then some a else if hold = 2 then some b else none
  | .hmul hold _ a b => if hold = 1 then some a else if hold = 2 then some b else none
  | .hfma hold d a b => if hold = 1 then some a else if hold = 2 then some b else if hold = 3 then some d else none
  | .hmin hold _ a b => if hold = 1 then some a else if hold = 2 then some b else none
  | .hmax hold _ a b => if hold = 1 then some a else if hold = 2 then some b else none
  | .cvt hold _ a => if hold = 1 then some a else none
  | .pack hold d a b => if hold = 1 then some a else if hold = 2 then some b else if hold = 3 then some d else none
  | .unpk hold _ a b => if hold = 1 then some a else if hold = 2 then some b else none
  | .tagr hold _ a => if hold = 1 then some a else none
  | .setm hold a _ => if hold = 1 then some a else none
  | .stat hold _ a => if hold = 1 then some a else none
  | .voteAny hold _ a => if hold = 1 then some a else none
  | .voteAll hold _ a => if hold = 1 then some a else none
  | .voteBal hold _ a => if hold = 1 then some a else none
  | .shflIdx hold d a b => if hold = 1 then some a else if hold = 2 then some b else if hold = 3 then some d else none
  | .shflUp hold d a b => if hold = 1 then some a else if hold = 2 then some b else if hold = 3 then some d else none
  | .shflDn hold d a b => if hold = 1 then some a else if hold = 2 then some b else if hold = 3 then some d else none
  | .shflXor hold d a b => if hold = 1 then some a else if hold = 2 then some b else if hold = 3 then some d else none
  | .bcast hold d a b => if hold = 1 then some a else if hold = 2 then some b else if hold = 3 then some d else none
  | .reduAdd hold _ a => if hold = 1 then some a else none
  | .reduMin hold _ a => if hold = 1 then some a else none
  | .reduMax hold _ a => if hold = 1 then some a else none
  | .prefx hold _ a => if hold = 1 then some a else none
  | .ldb hold _ a _ => if hold = 1 then some a else none
  | .ldbs hold _ a _ => if hold = 1 then some a else none
  | .ldh hold _ a _ => if hold = 1 then some a else none
  | .ldhs hold _ a _ => if hold = 1 then some a else none
  | .ld hold _ a _ => if hold = 1 then some a else none
  | .ldd hold _ a _ => if hold = 1 then some a else none
  | .ldq hold _ a _ => if hold = 1 then some a else none
  | .stb hold d a _ => if hold = 1 then some a else if hold = 3 then some d else none
  | .sth hold d a _ => if hold = 1 then some a else if hold = 3 then some d else none
  | .st hold d a _ => if hold = 1 then some a else if hold = 3 then some d else none
  | .std hold d a _ => if hold = 1 then some a else if hold = 3 then some d else none
  | .stq hold d a _ => if hold = 1 then some a else if hold = 3 then some d else none
  | .ldAcq hold _ a _ => if hold = 1 then some a else none
  | .lddAcq hold _ a _ => if hold = 1 then some a else none
  | .stRel hold d a _ => if hold = 1 then some a else if hold = 3 then some d else none
  | .stdRel hold d a _ => if hold = 1 then some a else if hold = 3 then some d else none
  | .ldro hold _ a _ => if hold = 1 then some a else none
  | .ldroQ hold _ a _ => if hold = 1 then some a else none
  | .pref hold a _ => if hold = 1 then some a else none
  | .lds hold _ a _ => if hold = 1 then some a else none
  | .ldsQ hold _ a _ => if hold = 1 then some a else none
  | .sts hold d a _ => if hold = 1 then some a else if hold = 3 then some d else none
  | .stsQ hold d a _ => if hold = 1 then some a else if hold = 3 then some d else none
  | .tagl hold _ a => if hold = 1 then some a else none
  | .tagi hold _ a b => if hold = 1 then some a else if hold = 2 then some b else none
  | .tage hold _ a => if hold = 1 then some a else none
  | .tagp hold _ a b => if hold = 1 then some a else if hold = 2 then some b else none
  | .tagt hold _ a b => if hold = 1 then some a else if hold = 2 then some b else none
  | .aadd hold _ a b => if hold = 1 then some a else if hold = 2 then some b else none
  | .amin hold _ a b => if hold = 1 then some a else if hold = 2 then some b else none
  | .amax hold _ a b => if hold = 1 then some a else if hold = 2 then some b else none
  | .aand hold _ a b => if hold = 1 then some a else if hold = 2 then some b else none
  | .aor hold _ a b => if hold = 1 then some a else if hold = 2 then some b else none
  | .axor hold _ a b => if hold = 1 then some a else if hold = 2 then some b else none
  | .axch hold _ a b => if hold = 1 then some a else if hold = 2 then some b else none
  | .acas hold d a b => if hold = 1 then some a else if hold = 2 then some b else if hold = 3 then some d else none
  | .aadd64 hold _ a b => if hold = 1 then some a else if hold = 2 then some b else none
  | .acas64 hold d a b => if hold = 1 then some a else if hold = 2 then some b else if hold = 3 then some d else none
  | .waitr hold a _ => if hold = 1 then some a else none
  | .baroArr hold a => if hold = 1 then some a else none
  | .baroWt hold _ a b => if hold = 1 then some a else if hold = 2 then some b else none
  | .xld hold _ a b => if hold = 1 then some a else if hold = 2 then some b else none
  | .xldQ hold _ a b => if hold = 1 then some a else if hold = 2 then some b else none
  | .xst hold d a b => if hold = 1 then some a else if hold = 2 then some b else if hold = 3 then some d else none
  | .xstQ hold d a b => if hold = 1 then some a else if hold = 2 then some b else if hold = 3 then some d else none
  | .xat hold d a b => if hold = 1 then some a else if hold = 2 then some b else if hold = 3 then some d else none
  | .xcas hold d a b => if hold = 1 then some a else if hold = 2 then some b else if hold = 3 then some d else none
  | .cwxch hold d a b => if hold = 1 then some a else if hold = 2 then some b else if hold = 3 then some d else none
  | .wbld hold _ a => if hold = 1 then some a else none
  | .mma hold _ a _ => if hold = 1 then some a else none
  | .accsv hold _ a => if hold = 1 then some a else none
  | .accrs hold _ a => if hold = 1 then some a else none
  | .tdrain hold _ a => if hold = 1 then some a else none
  | .tscale hold _ a _ => if hold = 1 then some a else none
  | .cpy hold d a b => if hold = 1 then some a else if hold = 2 then some b else if hold = 3 then some d else none
  | .cpy2d hold d a b => if hold = 1 then some a else if hold = 2 then some b else if hold = 3 then some d else none
  | .cpfill hold d a b => if hold = 1 then some a else if hold = 2 then some b else if hold = 3 then some d else none
  | .cprt hold a b => if hold = 1 then some a else if hold = 2 then some b else none
  | .nmld hold d a => if hold = 1 then some a else if hold = 3 then some d else none
  | .nmsw hold _ a => if hold = 1 then some a else none
  | .nmx hold a => if hold = 1 then some a else none
  | .nmst hold _ a b => if hold = 1 then some a else if hold = 2 then some b else none
  | .idxreg hold _ a b => if hold = 1 then some a else if hold = 2 then some b else none
  | .srch hold _ a => if hold = 1 then some a else none
  | .scan hold _ a => if hold = 1 then some a else none
  | .walk hold _ a => if hold = 1 then some a else none
  | .xred hold a => if hold = 1 then some a else none
  | .tkmerge hold d a b => if hold = 1 then some a else if hold = 2 then some b else if hold = 3 then some d else none
  | .ivcommit hold _ a => if hold = 1 then some a else none
  | .qpush hold _ a b => if hold = 1 then some a else if hold = 2 then some b else none
  | .qpop hold _ a => if hold = 1 then some a else none
  | .jcard hold _ a => if hold = 1 then some a else none
  | .launch hold _ a => if hold = 1 then some a else none
  | .evset hold a b => if hold = 1 then some a else if hold = 2 then some b else none
  | .evclr hold a b => if hold = 1 then some a else if hold = 2 then some b else none
  | .evrd hold _ a => if hold = 1 then some a else none
  | .bsgl hold a => if hold = 1 then some a else none
  | .brow hold a => if hold = 1 then some a else none
  | .bcolr hold _ a => if hold = 1 then some a else none
  | .bcolw hold d a => if hold = 1 then some a else if hold = 3 then some d else none
  | .bres hold d a => if hold = 1 then some a else if hold = 3 then some d else none
  | .ifm hold a => if hold = 1 then some a else none
  | .dist hold _ a => if hold = 1 then some a else none
  | .heapi hold _ a b => if hold = 1 then some a else if hold = 2 then some b else none
  | .adj hold _ a b => if hold = 1 then some a else if hold = 2 then some b else none
  | .ferry hold a => if hold = 1 then some a else none
  | .vchk hold _ a => if hold = 1 then some a else none
  | _ => none

/-- The tag codes of 02 R68 a vector register may hold (every assigned code but 0x70). -/
def assignedTag (t : Byte) : Bool :=
  let n := t.toNat
  n = 0x00 || (0x10 ≤ n && n ≤ 0x12) || (0x20 ≤ n && n ≤ 0x22) || (0x30 ≤ n && n ≤ 0x33) ||
    (0x42 ≤ n && n ≤ 0x4F) || (0x52 ≤ n && n ≤ 0x5F)

/-- The selectors of 01 R43. -/
def assignedSelector (sel : Reg) : Bool :=
  sel.toNat = 0 || sel.toNat = 1 || (8 ≤ sel.toNat && sel.toNat ≤ 15)

/-- The causes a trap instruction may name: the codes of 01 R40 other than 0x10 (05 R148). -/
def trapCauseOk (c : Byte) : Bool := 1 ≤ c.toNat && c.toNat ≤ 0x11 && c.toNat != 0x10

/-- The number fields hold numbers their entries allow (03 R83; 01 R43; 04 R118; 05 R148; 07 R197). -/
def numbersOk : Instr → Bool
  | .tagw _ code => assignedTag code
  | .setm _ _ sel => assignedSelector sel
  | .getm _ _ sel => assignedSelector sel
  | .wid _ _ fld => fld.toNat < 6
  | .waitr _ _ cls => cls.toNat < 6
  | .ctrr _ _ cls => cls.toNat < 6
  | .trap svc cause => trapCauseOk cause && svc = svc
  | .tscale _ _ _ sel => sel.toNat < 3
  | _ => true

/-- The primary opcode of an instruction (03 R82); an event has none. -/
def opcode : Instr → Option Nat
  | .add _ _ _ _ => some 0x001
  | .sub _ _ _ _ => some 0x002
  | .mul _ _ _ _ => some 0x003
  | .mulh _ _ _ _ => some 0x004
  | .mad _ _ _ _ => some 0x005
  | .divu _ _ _ _ => some 0x006
  | .divs _ _ _ _ => some 0x007
  | .min _ _ _ _ => some 0x008
  | .max _ _ _ _ => some 0x009
  | .abs _ _ _ => some 0x00a
  | .neg _ _ _ => some 0x00b
  | .and _ _ _ _ => some 0x00c
  | .or _ _ _ _ => some 0x00d
  | .xor _ _ _ _ => some 0x00e
  | .not _ _ _ => some 0x00f
  | .andn _ _ _ _ => some 0x010
  | .shl _ _ _ _ => some 0x011
  | .shr _ _ _ _ => some 0x012
  | .rotl _ _ _ _ => some 0x013
  | .rotr _ _ _ _ => some 0x014
  | .popc _ _ _ => some 0x015
  | .clz _ _ _ => some 0x016
  | .brev _ _ _ => some 0x017
  | .bfe _ _ _ _ => some 0x018
  | .bfi _ _ _ _ => some 0x019
  | .add64 _ _ _ _ => some 0x01a
  | .sub64 _ _ _ _ => some 0x01b
  | .shl64 _ _ _ _ => some 0x01c
  | .shr64 _ _ _ _ => some 0x01d
  | .seq _ _ _ _ => some 0x01e
  | .sne _ _ _ _ => some 0x01f
  | .slt _ _ _ _ => some 0x020
  | .sle _ _ _ _ => some 0x021
  | .sel _ _ _ _ => some 0x022
  | .mov _ _ _ => some 0x023
  | .addx _ _ _ _ => some 0x024
  | .addi _ _ _ _ => some 0x040
  | .muli _ _ _ _ => some 0x041
  | .andi _ _ _ _ => some 0x042
  | .ori _ _ _ _ => some 0x043
  | .xori _ _ _ _ => some 0x044
  | .shli _ _ _ _ => some 0x045
  | .shri _ _ _ _ => some 0x046
  | .rotli _ _ _ _ => some 0x047
  | .seqi _ _ _ _ => some 0x048
  | .snei _ _ _ _ => some 0x049
  | .slti _ _ _ _ => some 0x04a
  | .slei _ _ _ _ => some 0x04b
  | .mini _ _ _ _ => some 0x04c
  | .maxi _ _ _ _ => some 0x04d
  | .addi64 _ _ _ _ => some 0x04e
  | .movk _ _ => some 0x050
  | .movh _ _ => some 0x051
  | .lit _ _ => some 0x052
  | .addl _ _ => some 0x053
  | .andl _ _ => some 0x054
  | .orl _ _ => some 0x055
  | .addU _ _ _ _ => some 0x060
  | .subU _ _ _ _ => some 0x061
  | .mulU _ _ _ _ => some 0x062
  | .andU _ _ _ _ => some 0x063
  | .orU _ _ _ _ => some 0x064
  | .xorU _ _ _ _ => some 0x065
  | .shlU _ _ _ _ => some 0x066
  | .shrU _ _ _ _ => some 0x067
  | .minU _ _ _ _ => some 0x068
  | .maxU _ _ _ _ => some 0x069
  | .seqU _ _ _ _ => some 0x06a
  | .sltU _ _ _ _ => some 0x06b
  | .movU _ _ _ => some 0x06c
  | .add64U _ _ _ _ => some 0x06d
  | .addiU _ _ _ _ => some 0x06e
  | .shliU _ _ _ _ => some 0x06f
  | .fadd _ _ _ _ => some 0x080
  | .fsub _ _ _ _ => some 0x081
  | .fmul _ _ _ _ => some 0x082
  | .fma _ _ _ _ => some 0x083
  | .fmin _ _ _ _ => some 0x084
  | .fmax _ _ _ _ => some 0x085
  | .fabs _ _ _ => some 0x086
  | .fneg _ _ _ => some 0x087
  | .frcp _ _ _ => some 0x088
  | .frsq _ _ _ => some 0x089
  | .fsqrt _ _ _ => some 0x08a
  | .fexp2 _ _ _ => some 0x08b
  | .flog2 _ _ _ => some 0x08c
  | .fseq _ _ _ _ => some 0x090
  | .fsne _ _ _ _ => some 0x091
  | .fslt _ _ _ _ => some 0x092
  | .fsle _ _ _ _ => some 0x093
  | .dot2 _ _ _ _ => some 0x098
  | .dot4 _ _ _ _ => some 0x099
  | .dot8 _ _ _ _ => some 0x09a
  | .hadd _ _ _ _ => some 0x0a0
  | .hsub _ _ _ _ => some 0x0a1
  | .hmul _ _ _ _ => some 0x0a2
  | .hfma _ _ _ _ => some 0x0a3
  | .hmin _ _ _ _ => some 0x0a4
  | .hmax _ _ _ _ => some 0x0a5
  | .cvt _ _ _ => some 0x0c0
  | .pack _ _ _ _ => some 0x0c1
  | .unpk _ _ _ _ => some 0x0c2
  | .tagw _ _ => some 0x0c3
  | .tagr _ _ _ => some 0x0c4
  | .setm _ _ _ => some 0x0c5
  | .setmi _ => some 0x0c6
  | .getm _ _ _ => some 0x0c7
  | .stat _ _ _ => some 0x0c8
  | .voteAny _ _ _ => some 0x0d0
  | .voteAll _ _ _ => some 0x0d1
  | .voteBal _ _ _ => some 0x0d2
  | .shflIdx _ _ _ _ => some 0x0d3
  | .shflUp _ _ _ _ => some 0x0d4
  | .shflDn _ _ _ _ => some 0x0d5
  | .shflXor _ _ _ _ => some 0x0d6
  | .bcast _ _ _ _ => some 0x0d7
  | .reduAdd _ _ _ => some 0x0d8
  | .reduMin _ _ _ => some 0x0d9
  | .reduMax _ _ _ => some 0x0da
  | .prefx _ _ _ => some 0x0db
  | .wid _ _ _ => some 0x0dc
  | .lane _ _ => some 0x0dd
  | .maskr _ _ => some 0x0de
  | .liver _ _ => some 0x0df
  | .nop _ => some 0x100
  | .br _ _ => some 0x101
  | .bru _ _ => some 0x102
  | .jmp _ => some 0x103
  | .jmpr _ _ => some 0x104
  | .call _ _ => some 0x105
  | .ret _ _ => some 0x106
  | .joinat _ => some 0x107
  | .join _ => some 0x108
  | .brk _ => some 0x109
  | .loop _ _ => some 0x10a
  | .lexit _ _ => some 0x10b
  | .exit _ => some 0x10c
  | .trap _ _ => some 0x10d
  | .tret _ => some 0x10e
  | .waitv _ _ _ _ => some 0x10f
  | .yield _ => some 0x110
  | .sleep _ => some 0x111
  | .pgmap _ _ _ _ => some 0x120
  | .pginv _ _ _ _ => some 0x121
  | .ldb _ _ _ _ => some 0x140
  | .ldbs _ _ _ _ => some 0x141
  | .ldh _ _ _ _ => some 0x142
  | .ldhs _ _ _ _ => some 0x143
  | .ld _ _ _ _ => some 0x144
  | .ldd _ _ _ _ => some 0x145
  | .ldq _ _ _ _ => some 0x146
  | .stb _ _ _ _ => some 0x148
  | .sth _ _ _ _ => some 0x149
  | .st _ _ _ _ => some 0x14a
  | .std _ _ _ _ => some 0x14b
  | .stq _ _ _ _ => some 0x14c
  | .ldAcq _ _ _ _ => some 0x150
  | .lddAcq _ _ _ _ => some 0x151
  | .stRel _ _ _ _ => some 0x152
  | .stdRel _ _ _ _ => some 0x153
  | .ldro _ _ _ _ => some 0x154
  | .ldroQ _ _ _ _ => some 0x155
  | .pref _ _ _ => some 0x156
  | .lds _ _ _ _ => some 0x160
  | .ldsQ _ _ _ _ => some 0x161
  | .sts _ _ _ _ => some 0x162
  | .stsQ _ _ _ _ => some 0x163
  | .tagl _ _ _ => some 0x168
  | .tagi _ _ _ _ => some 0x169
  | .tage _ _ _ => some 0x16a
  | .tagp _ _ _ _ => some 0x16b
  | .tagt _ _ _ _ => some 0x16c
  | .aadd _ _ _ _ => some 0x180
  | .amin _ _ _ _ => some 0x181
  | .amax _ _ _ _ => some 0x182
  | .aand _ _ _ _ => some 0x183
  | .aor _ _ _ _ => some 0x184
  | .axor _ _ _ _ => some 0x185
  | .axch _ _ _ _ => some 0x186
  | .acas _ _ _ _ => some 0x187
  | .aadd64 _ _ _ _ => some 0x188
  | .acas64 _ _ _ _ => some 0x189
  | .fence _ => some 0x18c
  | .fenceRo _ => some 0x18d
  | .waitc _ _ _ _ => some 0x190
  | .waitr _ _ _ => some 0x191
  | .ctrr _ _ _ => some 0x192
  | .bar _ => some 0x198
  | .baroArr _ _ => some 0x199
  | .baroWt _ _ _ _ => some 0x19a
  | .xld _ _ _ _ => some 0x1a0
  | .xldQ _ _ _ _ => some 0x1a1
  | .xst _ _ _ _ => some 0x1a2
  | .xstQ _ _ _ _ => some 0x1a3
  | .xat _ _ _ _ => some 0x1a4
  | .xcas _ _ _ _ => some 0x1a5
  | .cwdet _ => some 0x1a8
  | .cwleave _ => some 0x1a9
  | .cwxch _ _ _ _ => some 0x1aa
  | .wbld _ _ _ => some 0x1c0
  | .wbz _ _ => some 0x1c1
  | .mma _ _ _ _ => some 0x1c2
  | .accz _ _ => some 0x1c3
  | .accsv _ _ _ => some 0x1c4
  | .accrs _ _ _ => some 0x1c5
  | .tdrain _ _ _ => some 0x1c6
  | .tscale _ _ _ _ => some 0x1c7
  | .histrd _ _ _ => some 0x1c8
  | .histz _ _ => some 0x1c9
  | .cpy _ _ _ _ => some 0x1cc
  | .cpy2d _ _ _ _ => some 0x1cd
  | .cpfill _ _ _ _ => some 0x1ce
  | .cprt _ _ _ => some 0x1cf
  | .nmld _ _ _ => some 0x1d0
  | .nmsw _ _ _ => some 0x1d1
  | .nmx _ _ => some 0x1d2
  | .nmst _ _ _ _ => some 0x1d3
  | .idxreg _ _ _ _ => some 0x1d4
  | .srch _ _ _ => some 0x1d5
  | .scan _ _ _ => some 0x1d6
  | .walk _ _ _ => some 0x1d7
  | .xred _ _ => some 0x1d8
  | .tkmerge _ _ _ _ => some 0x1d9
  | .ivcommit _ _ _ => some 0x1da
  | .qpush _ _ _ _ => some 0x1dc
  | .qpop _ _ _ => some 0x1dd
  | .jcard _ _ _ => some 0x1de
  | .launch _ _ _ => some 0x1df
  | .evset _ _ _ => some 0x1e0
  | .evclr _ _ _ => some 0x1e1
  | .evrd _ _ _ => some 0x1e2
  | .ball => some 0x1e8
  | .bsgl _ _ => some 0x1e9
  | .brow _ _ => some 0x1ea
  | .bcolr _ _ _ => some 0x1eb
  | .bcolw _ _ _ => some 0x1ec
  | .bres _ _ _ => some 0x1ed
  | .ifm _ _ => some 0x1ee
  | .elm => some 0x1ef
  | .enm => some 0x1f0
  | .dist _ _ _ => some 0x1f4
  | .heapi _ _ _ _ => some 0x1f5
  | .adj _ _ _ _ => some 0x1f6
  | .ferry _ _ => some 0x1f7
  | .vchk _ _ _ => some 0x1f8
  | _ => none

/-- The opcodes marked C or Cs (03 R82), as ranges. -/
def coreRanges : List (Nat × Nat) := [(0x001, 0x024), (0x040, 0x04e), (0x050, 0x055), (0x060, 0x06f), (0x080, 0x08c), (0x090, 0x093), (0x098, 0x09a), (0x0a0, 0x0a5), (0x0c0, 0x0c8), (0x0d0, 0x0df), (0x100, 0x111), (0x120, 0x121), (0x140, 0x146), (0x148, 0x14c), (0x150, 0x156), (0x160, 0x163), (0x168, 0x16c), (0x180, 0x189), (0x18c, 0x18d), (0x190, 0x192), (0x198, 0x19a), (0x1a0, 0x1a5), (0x1a8, 0x1aa), (0x1c0, 0x1c9), (0x1cc, 0x1da), (0x1dc, 0x1e2)]

/-- The opcodes marked N. -/
def bankRanges : List (Nat × Nat) := [(0x001, 0x005), (0x008, 0x019), (0x01e, 0x023), (0x040, 0x04d), (0x050, 0x055), (0x080, 0x087), (0x090, 0x093), (0x098, 0x09a), (0x0a0, 0x0a5), (0x0c0, 0x0c3), (0x100, 0x100), (0x103, 0x103), (0x10a, 0x10a), (0x10c, 0x10c), (0x1e8, 0x1f0)]

/-- The opcodes marked W. -/
def walkerRanges : List (Nat × Nat) := [(0x001, 0x024), (0x040, 0x04e), (0x050, 0x055), (0x080, 0x087), (0x090, 0x093), (0x0c0, 0x0c0), (0x100, 0x101), (0x103, 0x106), (0x10c, 0x10c), (0x1f4, 0x1f8)]

/-- The opcode carries the unit's mark (03 R81). -/
def marked (u : UnitKind) (op : Nat) : Bool :=
  (match u with
    | .core => coreRanges
    | .bank => bankRanges
    | .walker => walkerRanges).any fun r => r.1 ≤ op && op ≤ r.2

/-- The instruction runs on the unit (03 R81). -/
def runsOn (u : UnitKind) (i : Instr) : Bool :=
  match opcode i with
  | some op => marked u op
  | none => false

/-- Marked Cs (03 R81). -/
def supervisorOnly : Instr → Bool
  | .tret _ => true
  | .pgmap _ _ _ _ => true
  | .pginv _ _ _ _ => true
  | _ => false

/-- Raises PRIV in user mode: marked Cs, or a selector of the trap registers (01 R43; 04 R120). -/
def needsPrivilege : Instr → Bool
  | .setm _ _ sel => 8 ≤ sel.toNat
  | .getm _ _ sel => 8 ≤ sel.toNat
  | i => supervisorOnly i

/-- The instructions that place the slots of their fragment themselves (05 R130, R132 to R146). -/
def placesSlots : Instr → Bool
  | .br _ _ => true
  | .bru _ _ => true
  | .jmp _ => true
  | .jmpr _ _ => true
  | .call _ _ => true
  | .ret _ _ => true
  | .joinat _ => true
  | .join _ => true
  | .brk _ => true
  | .loop _ _ => true
  | .lexit _ _ => true
  | .exit _ => true
  | .trap _ _ => true
  | .tret _ => true
  | _ => false

/-- The opcode group, op[8:6] (03 R82). -/
def opGroup (i : Instr) : Nat := (opcode i).getD 0x1FF / 64

/-- The uniform forms are the opcodes 0x060 to 0x06F (03 R82; 04 R108). -/
def isUniform (i : Instr) : Bool :=
  match opcode i with
  | some op => 0x060 ≤ op && op ≤ 0x06F
  | none => false

/-- The literal set (03 R78). -/
def isLong : Instr → Bool
  | .lit _ _ => true
  | .addl _ _ => true
  | .andl _ _ => true
  | .orl _ _ => true
  | .setmi _ => true
  | _ => false

/-- Bytes an instruction occupies (03 R78). -/
def sizeOf4 (i : Instr) : Nat := if isLong i then 8 else 4

/-- The first operand whose form fails (in the order d, a, b), if any. -/
def misformed (i : Instr) : Option Reg :=
  ((operands i).find? fun o => !o.formed).map (·.reg)

/-- The first operand that is misformed or reaches the register count of the unit (01 R25, R26; 03 R80). -/
def badOperand (limit : Nat) (i : Instr) : Option Reg :=
  ((operands i).find? fun o => !(o.formed && o.below limit)).map (·.reg)

end Sys2Proof
end

