-- ==== Sys2Proof/WellFormed.lean ====
section
/-! DEFINITION. Well-formed instructions: pairs are even, quads multiples of four, tiles below four, and number
fields hold numbers their entries allow (01 R26; 03 R76, R83). An event is well formed. -/

namespace Sys2Proof

/-- The static checks of 03 R80 that do not depend on the wave: the register count is checked at issue. -/
def Instr.wellFormed (i : Instr) : Bool := (operands i).all Opnd.formed && numbersOk i

/-- An operation with an encoding, as against an event. -/
def Instr.encodable (i : Instr) : Bool := (opcode i).isSome

end Sys2Proof
end

