-- ==== Sys2Proof/Decode.lean ====
section
/-! DEFINITION. Decoding instruction words (03 R72, R75 to R80, R82), total on any bytes and rejecting by name, and
the encoder, both written from the encoding tables. -/

namespace Sys2Proof

/-- Why a word is not an instruction (03 R80); every case raises ILL. -/
inductive Reject where
  /-- The opcode is unassigned or not marked for the unit; cr.TCAUSE[14:8] is 0. -/
  | unassigned
  /-- A field that the instruction does not use is nonzero; cr.TCAUSE[14:8] is 0. -/
  | reserved
  /-- A register or tile field breaks its form; cr.TCAUSE[14:8] names it. -/
  | operand (reg : Reg)
  /-- A number field holds a number its entry does not allow; cr.TCAUSE[14:8] is 0. -/
  | number
  deriving DecidableEq, Repr

/-- What a word decodes to. -/
inductive Decoded where
  | instr (i : Instr)
  | reject (r : Reject)
  deriving DecidableEq, Repr

/-- The primary opcode, bits [31:23] (03 R75). -/
def fOp (w : Word) : BitVec 9 := w.extractLsb' 23 9
/-- The hold field, bits [22:21] of R and I words. -/
def fHold (w : Word) : BitVec 2 := w.extractLsb' 21 2
/-- d of R and I words, bits [20:14]. -/
def fD (w : Word) : Reg := w.extractLsb' 14 7
/-- a of R and I words, bits [13:7]. -/
def fA (w : Word) : Reg := w.extractLsb' 7 7
/-- b of R words and imm7 of I words, bits [6:0]. -/
def fB (w : Word) : Reg := w.extractLsb' 0 7
/-- d of K words and a of B words, bits [22:16]. -/
def fK (w : Word) : Reg := w.extractLsb' 16 7
/-- imm16 of K words and off16 of B words, bits [15:0]. -/
def fImm16 (w : Word) : BitVec 16 := w.extractLsb' 0 16

/-- An instruction word of R or I format. -/
def wordR (op : BitVec 9) (hold : BitVec 2) (d a b : Reg) : Word := op ++ hold ++ d ++ a ++ b
/-- An instruction word of K or B format. -/
def wordK (op : BitVec 9) (k : Reg) (imm : BitVec 16) : Word := op ++ k ++ imm

/-- An instruction when its reserved fields are zero (00 R8; 03 R76). -/
def ifZero (zero : Bool) (i : Instr) : Decoded := if zero then .instr i else .reject .reserved

/-- The instruction of an opcode with the fields of a word and the literal that follows it; a literal is used only
by the literal set (03 R78). -/
def decodeOp (op : Nat) (w lit : Word) : Decoded :=
  match op with
  | 0x001 => .instr (.add (fHold w) (fD w) (fA w) (fB w))
  | 0x002 => .instr (.sub (fHold w) (fD w) (fA w) (fB w))
  | 0x003 => .instr (.mul (fHold w) (fD w) (fA w) (fB w))
  | 0x004 => .instr (.mulh (fHold w) (fD w) (fA w) (fB w))
  | 0x005 => .instr (.mad (fHold w) (fD w) (fA w) (fB w))
  | 0x006 => .instr (.divu (fHold w) (fD w) (fA w) (fB w))
  | 0x007 => .instr (.divs (fHold w) (fD w) (fA w) (fB w))
  | 0x008 => .instr (.min (fHold w) (fD w) (fA w) (fB w))
  | 0x009 => .instr (.max (fHold w) (fD w) (fA w) (fB w))
  | 0x00a => ifZero (fB w = 0) (.abs (fHold w) (fD w) (fA w))
  | 0x00b => ifZero (fB w = 0) (.neg (fHold w) (fD w) (fA w))
  | 0x00c => .instr (.and (fHold w) (fD w) (fA w) (fB w))
  | 0x00d => .instr (.or (fHold w) (fD w) (fA w) (fB w))
  | 0x00e => .instr (.xor (fHold w) (fD w) (fA w) (fB w))
  | 0x00f => ifZero (fB w = 0) (.not (fHold w) (fD w) (fA w))
  | 0x010 => .instr (.andn (fHold w) (fD w) (fA w) (fB w))
  | 0x011 => .instr (.shl (fHold w) (fD w) (fA w) (fB w))
  | 0x012 => .instr (.shr (fHold w) (fD w) (fA w) (fB w))
  | 0x013 => .instr (.rotl (fHold w) (fD w) (fA w) (fB w))
  | 0x014 => .instr (.rotr (fHold w) (fD w) (fA w) (fB w))
  | 0x015 => ifZero (fB w = 0) (.popc (fHold w) (fD w) (fA w))
  | 0x016 => ifZero (fB w = 0) (.clz (fHold w) (fD w) (fA w))
  | 0x017 => ifZero (fB w = 0) (.brev (fHold w) (fD w) (fA w))
  | 0x018 => .instr (.bfe (fHold w) (fD w) (fA w) (fB w))
  | 0x019 => .instr (.bfi (fHold w) (fD w) (fA w) (fB w))
  | 0x01a => .instr (.add64 (fHold w) (fD w) (fA w) (fB w))
  | 0x01b => .instr (.sub64 (fHold w) (fD w) (fA w) (fB w))
  | 0x01c => .instr (.shl64 (fHold w) (fD w) (fA w) (fB w))
  | 0x01d => .instr (.shr64 (fHold w) (fD w) (fA w) (fB w))
  | 0x01e => .instr (.seq (fHold w) (fD w) (fA w) (fB w))
  | 0x01f => .instr (.sne (fHold w) (fD w) (fA w) (fB w))
  | 0x020 => .instr (.slt (fHold w) (fD w) (fA w) (fB w))
  | 0x021 => .instr (.sle (fHold w) (fD w) (fA w) (fB w))
  | 0x022 => .instr (.sel (fHold w) (fD w) (fA w) (fB w))
  | 0x023 => ifZero (fB w = 0) (.mov (fHold w) (fD w) (fA w))
  | 0x024 => .instr (.addx (fHold w) (fD w) (fA w) (fB w))
  | 0x040 => .instr (.addi (fHold w) (fD w) (fA w) (fB w))
  | 0x041 => .instr (.muli (fHold w) (fD w) (fA w) (fB w))
  | 0x042 => .instr (.andi (fHold w) (fD w) (fA w) (fB w))
  | 0x043 => .instr (.ori (fHold w) (fD w) (fA w) (fB w))
  | 0x044 => .instr (.xori (fHold w) (fD w) (fA w) (fB w))
  | 0x045 => .instr (.shli (fHold w) (fD w) (fA w) (fB w))
  | 0x046 => .instr (.shri (fHold w) (fD w) (fA w) (fB w))
  | 0x047 => .instr (.rotli (fHold w) (fD w) (fA w) (fB w))
  | 0x048 => .instr (.seqi (fHold w) (fD w) (fA w) (fB w))
  | 0x049 => .instr (.snei (fHold w) (fD w) (fA w) (fB w))
  | 0x04a => .instr (.slti (fHold w) (fD w) (fA w) (fB w))
  | 0x04b => .instr (.slei (fHold w) (fD w) (fA w) (fB w))
  | 0x04c => .instr (.mini (fHold w) (fD w) (fA w) (fB w))
  | 0x04d => .instr (.maxi (fHold w) (fD w) (fA w) (fB w))
  | 0x04e => .instr (.addi64 (fHold w) (fD w) (fA w) (fB w))
  | 0x050 => .instr (.movk (fK w) (fImm16 w))
  | 0x051 => .instr (.movh (fK w) (fImm16 w))
  | 0x052 => ifZero (fImm16 w = 0) (.lit (fK w) lit)
  | 0x053 => ifZero (fImm16 w = 0) (.addl (fK w) lit)
  | 0x054 => ifZero (fImm16 w = 0) (.andl (fK w) lit)
  | 0x055 => ifZero (fImm16 w = 0) (.orl (fK w) lit)
  | 0x060 => .instr (.addU (fHold w) (fD w) (fA w) (fB w))
  | 0x061 => .instr (.subU (fHold w) (fD w) (fA w) (fB w))
  | 0x062 => .instr (.mulU (fHold w) (fD w) (fA w) (fB w))
  | 0x063 => .instr (.andU (fHold w) (fD w) (fA w) (fB w))
  | 0x064 => .instr (.orU (fHold w) (fD w) (fA w) (fB w))
  | 0x065 => .instr (.xorU (fHold w) (fD w) (fA w) (fB w))
  | 0x066 => .instr (.shlU (fHold w) (fD w) (fA w) (fB w))
  | 0x067 => .instr (.shrU (fHold w) (fD w) (fA w) (fB w))
  | 0x068 => .instr (.minU (fHold w) (fD w) (fA w) (fB w))
  | 0x069 => .instr (.maxU (fHold w) (fD w) (fA w) (fB w))
  | 0x06a => .instr (.seqU (fHold w) (fD w) (fA w) (fB w))
  | 0x06b => .instr (.sltU (fHold w) (fD w) (fA w) (fB w))
  | 0x06c => ifZero (fB w = 0) (.movU (fHold w) (fD w) (fA w))
  | 0x06d => .instr (.add64U (fHold w) (fD w) (fA w) (fB w))
  | 0x06e => .instr (.addiU (fHold w) (fD w) (fA w) (fB w))
  | 0x06f => .instr (.shliU (fHold w) (fD w) (fA w) (fB w))
  | 0x080 => .instr (.fadd (fHold w) (fD w) (fA w) (fB w))
  | 0x081 => .instr (.fsub (fHold w) (fD w) (fA w) (fB w))
  | 0x082 => .instr (.fmul (fHold w) (fD w) (fA w) (fB w))
  | 0x083 => .instr (.fma (fHold w) (fD w) (fA w) (fB w))
  | 0x084 => .instr (.fmin (fHold w) (fD w) (fA w) (fB w))
  | 0x085 => .instr (.fmax (fHold w) (fD w) (fA w) (fB w))
  | 0x086 => ifZero (fB w = 0) (.fabs (fHold w) (fD w) (fA w))
  | 0x087 => ifZero (fB w = 0) (.fneg (fHold w) (fD w) (fA w))
  | 0x088 => ifZero (fB w = 0) (.frcp (fHold w) (fD w) (fA w))
  | 0x089 => ifZero (fB w = 0) (.frsq (fHold w) (fD w) (fA w))
  | 0x08a => ifZero (fB w = 0) (.fsqrt (fHold w) (fD w) (fA w))
  | 0x08b => ifZero (fB w = 0) (.fexp2 (fHold w) (fD w) (fA w))
  | 0x08c => ifZero (fB w = 0) (.flog2 (fHold w) (fD w) (fA w))
  | 0x090 => .instr (.fseq (fHold w) (fD w) (fA w) (fB w))
  | 0x091 => .instr (.fsne (fHold w) (fD w) (fA w) (fB w))
  | 0x092 => .instr (.fslt (fHold w) (fD w) (fA w) (fB w))
  | 0x093 => .instr (.fsle (fHold w) (fD w) (fA w) (fB w))
  | 0x098 => .instr (.dot2 (fHold w) (fD w) (fA w) (fB w))
  | 0x099 => .instr (.dot4 (fHold w) (fD w) (fA w) (fB w))
  | 0x09a => .instr (.dot8 (fHold w) (fD w) (fA w) (fB w))
  | 0x0a0 => .instr (.hadd (fHold w) (fD w) (fA w) (fB w))
  | 0x0a1 => .instr (.hsub (fHold w) (fD w) (fA w) (fB w))
  | 0x0a2 => .instr (.hmul (fHold w) (fD w) (fA w) (fB w))
  | 0x0a3 => .instr (.hfma (fHold w) (fD w) (fA w) (fB w))
  | 0x0a4 => .instr (.hmin (fHold w) (fD w) (fA w) (fB w))
  | 0x0a5 => .instr (.hmax (fHold w) (fD w) (fA w) (fB w))
  | 0x0c0 => ifZero (fB w = 0) (.cvt (fHold w) (fD w) (fA w))
  | 0x0c1 => .instr (.pack (fHold w) (fD w) (fA w) (fB w))
  | 0x0c2 => .instr (.unpk (fHold w) (fD w) (fA w) (fB w))
  | 0x0c3 => ifZero (w.extractLsb' 8 8 = 0) (.tagw (fK w) (w.extractLsb' 0 8))
  | 0x0c4 => ifZero (fB w = 0) (.tagr (fHold w) (fD w) (fA w))
  | 0x0c5 => ifZero (fD w = 0) (.setm (fHold w) (fA w) (fB w))
  | 0x0c6 => ifZero (fK w = 0 && fImm16 w = 0) (.setmi lit)
  | 0x0c7 => ifZero (fA w = 0) (.getm (fHold w) (fD w) (fB w))
  | 0x0c8 => ifZero (fB w = 0) (.stat (fHold w) (fD w) (fA w))
  | 0x0d0 => ifZero (fB w = 0) (.voteAny (fHold w) (fD w) (fA w))
  | 0x0d1 => ifZero (fB w = 0) (.voteAll (fHold w) (fD w) (fA w))
  | 0x0d2 => ifZero (fB w = 0) (.voteBal (fHold w) (fD w) (fA w))
  | 0x0d3 => .instr (.shflIdx (fHold w) (fD w) (fA w) (fB w))
  | 0x0d4 => .instr (.shflUp (fHold w) (fD w) (fA w) (fB w))
  | 0x0d5 => .instr (.shflDn (fHold w) (fD w) (fA w) (fB w))
  | 0x0d6 => .instr (.shflXor (fHold w) (fD w) (fA w) (fB w))
  | 0x0d7 => .instr (.bcast (fHold w) (fD w) (fA w) (fB w))
  | 0x0d8 => ifZero (fB w = 0) (.reduAdd (fHold w) (fD w) (fA w))
  | 0x0d9 => ifZero (fB w = 0) (.reduMin (fHold w) (fD w) (fA w))
  | 0x0da => ifZero (fB w = 0) (.reduMax (fHold w) (fD w) (fA w))
  | 0x0db => ifZero (fB w = 0) (.prefx (fHold w) (fD w) (fA w))
  | 0x0dc => ifZero (fA w = 0) (.wid (fHold w) (fD w) (fB w))
  | 0x0dd => ifZero (fA w = 0 && fB w = 0) (.lane (fHold w) (fD w))
  | 0x0de => ifZero (fA w = 0 && fB w = 0) (.maskr (fHold w) (fD w))
  | 0x0df => ifZero (fA w = 0 && fB w = 0) (.liver (fHold w) (fD w))
  | 0x100 => ifZero (fD w = 0 && fA w = 0 && fB w = 0) (.nop (fHold w))
  | 0x101 => .instr (.br (fK w) (fImm16 w))
  | 0x102 => .instr (.bru (fK w) (fImm16 w))
  | 0x103 => ifZero (fK w = 0) (.jmp (fImm16 w))
  | 0x104 => ifZero (fD w = 0 && fB w = 0) (.jmpr (fHold w) (fA w))
  | 0x105 => .instr (.call (fK w) (fImm16 w))
  | 0x106 => ifZero (fD w = 0 && fB w = 0) (.ret (fHold w) (fA w))
  | 0x107 => ifZero (fK w = 0) (.joinat (fImm16 w))
  | 0x108 => ifZero (fD w = 0 && fA w = 0 && fB w = 0) (.join (fHold w))
  | 0x109 => ifZero (fK w = 0 && w.extractLsb' 4 12 = 0) (.brk (w.extractLsb' 0 4))
  | 0x10a => .instr (.loop (fK w) (fImm16 w))
  | 0x10b => .instr (.lexit (fK w) (fImm16 w))
  | 0x10c => ifZero (fD w = 0 && fA w = 0 && fB w = 0) (.exit (fHold w))
  | 0x10d => ifZero (fK w = 0) (.trap (w.extractLsb' 8 8) (w.extractLsb' 0 8))
  | 0x10e => ifZero (fD w = 0 && fA w = 0 && fB w = 0) (.tret (fHold w))
  | 0x10f => .instr (.waitv (fHold w) (fD w) (fA w) (fB w))
  | 0x110 => ifZero (fD w = 0 && fA w = 0 && fB w = 0) (.yield (fHold w))
  | 0x111 => ifZero (fK w = 0) (.sleep (fImm16 w))
  | 0x120 => .instr (.pgmap (fHold w) (fD w) (fA w) (fB w))
  | 0x121 => .instr (.pginv (fHold w) (fD w) (fA w) (fB w))
  | 0x140 => .instr (.ldb (fHold w) (fD w) (fA w) (fB w))
  | 0x141 => .instr (.ldbs (fHold w) (fD w) (fA w) (fB w))
  | 0x142 => .instr (.ldh (fHold w) (fD w) (fA w) (fB w))
  | 0x143 => .instr (.ldhs (fHold w) (fD w) (fA w) (fB w))
  | 0x144 => .instr (.ld (fHold w) (fD w) (fA w) (fB w))
  | 0x145 => .instr (.ldd (fHold w) (fD w) (fA w) (fB w))
  | 0x146 => .instr (.ldq (fHold w) (fD w) (fA w) (fB w))
  | 0x148 => .instr (.stb (fHold w) (fD w) (fA w) (fB w))
  | 0x149 => .instr (.sth (fHold w) (fD w) (fA w) (fB w))
  | 0x14a => .instr (.st (fHold w) (fD w) (fA w) (fB w))
  | 0x14b => .instr (.std (fHold w) (fD w) (fA w) (fB w))
  | 0x14c => .instr (.stq (fHold w) (fD w) (fA w) (fB w))
  | 0x150 => .instr (.ldAcq (fHold w) (fD w) (fA w) (fB w))
  | 0x151 => .instr (.lddAcq (fHold w) (fD w) (fA w) (fB w))
  | 0x152 => .instr (.stRel (fHold w) (fD w) (fA w) (fB w))
  | 0x153 => .instr (.stdRel (fHold w) (fD w) (fA w) (fB w))
  | 0x154 => .instr (.ldro (fHold w) (fD w) (fA w) (fB w))
  | 0x155 => .instr (.ldroQ (fHold w) (fD w) (fA w) (fB w))
  | 0x156 => ifZero (fD w = 0) (.pref (fHold w) (fA w) (fB w))
  | 0x160 => .instr (.lds (fHold w) (fD w) (fA w) (fB w))
  | 0x161 => .instr (.ldsQ (fHold w) (fD w) (fA w) (fB w))
  | 0x162 => .instr (.sts (fHold w) (fD w) (fA w) (fB w))
  | 0x163 => .instr (.stsQ (fHold w) (fD w) (fA w) (fB w))
  | 0x168 => ifZero (fB w = 0) (.tagl (fHold w) (fD w) (fA w))
  | 0x169 => .instr (.tagi (fHold w) (fD w) (fA w) (fB w))
  | 0x16a => ifZero (fB w = 0) (.tage (fHold w) (fD w) (fA w))
  | 0x16b => .instr (.tagp (fHold w) (fD w) (fA w) (fB w))
  | 0x16c => .instr (.tagt (fHold w) (fD w) (fA w) (fB w))
  | 0x180 => .instr (.aadd (fHold w) (fD w) (fA w) (fB w))
  | 0x181 => .instr (.amin (fHold w) (fD w) (fA w) (fB w))
  | 0x182 => .instr (.amax (fHold w) (fD w) (fA w) (fB w))
  | 0x183 => .instr (.aand (fHold w) (fD w) (fA w) (fB w))
  | 0x184 => .instr (.aor (fHold w) (fD w) (fA w) (fB w))
  | 0x185 => .instr (.axor (fHold w) (fD w) (fA w) (fB w))
  | 0x186 => .instr (.axch (fHold w) (fD w) (fA w) (fB w))
  | 0x187 => .instr (.acas (fHold w) (fD w) (fA w) (fB w))
  | 0x188 => .instr (.aadd64 (fHold w) (fD w) (fA w) (fB w))
  | 0x189 => .instr (.acas64 (fHold w) (fD w) (fA w) (fB w))
  | 0x18c => ifZero (fD w = 0 && fA w = 0 && fB w = 0) (.fence (fHold w))
  | 0x18d => ifZero (fD w = 0 && fA w = 0 && fB w = 0) (.fenceRo (fHold w))
  | 0x190 => ifZero (fK w = 0) (.waitc (w.extractLsb' 12 4) (w.extractLsb' 8 4) (w.extractLsb' 4 4) (w.extractLsb' 0 4))
  | 0x191 => ifZero (fD w = 0) (.waitr (fHold w) (fA w) (fB w))
  | 0x192 => ifZero (fA w = 0) (.ctrr (fHold w) (fD w) (fB w))
  | 0x198 => ifZero (fD w = 0 && fA w = 0 && fB w = 0) (.bar (fHold w))
  | 0x199 => ifZero (fD w = 0 && fB w = 0) (.baroArr (fHold w) (fA w))
  | 0x19a => .instr (.baroWt (fHold w) (fD w) (fA w) (fB w))
  | 0x1a0 => .instr (.xld (fHold w) (fD w) (fA w) (fB w))
  | 0x1a1 => .instr (.xldQ (fHold w) (fD w) (fA w) (fB w))
  | 0x1a2 => .instr (.xst (fHold w) (fD w) (fA w) (fB w))
  | 0x1a3 => .instr (.xstQ (fHold w) (fD w) (fA w) (fB w))
  | 0x1a4 => .instr (.xat (fHold w) (fD w) (fA w) (fB w))
  | 0x1a5 => .instr (.xcas (fHold w) (fD w) (fA w) (fB w))
  | 0x1a8 => ifZero (fD w = 0 && fA w = 0 && fB w = 0) (.cwdet (fHold w))
  | 0x1a9 => ifZero (fD w = 0 && fA w = 0 && fB w = 0) (.cwleave (fHold w))
  | 0x1aa => .instr (.cwxch (fHold w) (fD w) (fA w) (fB w))
  | 0x1c0 => ifZero (fB w = 0) (.wbld (fHold w) (fD w) (fA w))
  | 0x1c1 => ifZero (fA w = 0 && fB w = 0) (.wbz (fHold w) (fD w))
  | 0x1c2 => .instr (.mma (fHold w) (fD w) (fA w) (fB w))
  | 0x1c3 => ifZero (fA w = 0 && fB w = 0) (.accz (fHold w) (fD w))
  | 0x1c4 => ifZero (fB w = 0) (.accsv (fHold w) (fD w) (fA w))
  | 0x1c5 => ifZero (fB w = 0) (.accrs (fHold w) (fD w) (fA w))
  | 0x1c6 => ifZero (fB w = 0) (.tdrain (fHold w) (fD w) (fA w))
  | 0x1c7 => .instr (.tscale (fHold w) (fD w) (fA w) (fB w))
  | 0x1c8 => ifZero (fB w = 0) (.histrd (fHold w) (fD w) (fA w))
  | 0x1c9 => ifZero (fA w = 0 && fB w = 0) (.histz (fHold w) (fD w))
  | 0x1cc => .instr (.cpy (fHold w) (fD w) (fA w) (fB w))
  | 0x1cd => .instr (.cpy2d (fHold w) (fD w) (fA w) (fB w))
  | 0x1ce => .instr (.cpfill (fHold w) (fD w) (fA w) (fB w))
  | 0x1cf => ifZero (fD w = 0) (.cprt (fHold w) (fA w) (fB w))
  | 0x1d0 => ifZero (fB w = 0) (.nmld (fHold w) (fD w) (fA w))
  | 0x1d1 => ifZero (fB w = 0) (.nmsw (fHold w) (fD w) (fA w))
  | 0x1d2 => ifZero (fD w = 0 && fB w = 0) (.nmx (fHold w) (fA w))
  | 0x1d3 => .instr (.nmst (fHold w) (fD w) (fA w) (fB w))
  | 0x1d4 => .instr (.idxreg (fHold w) (fD w) (fA w) (fB w))
  | 0x1d5 => ifZero (fB w = 0) (.srch (fHold w) (fD w) (fA w))
  | 0x1d6 => ifZero (fB w = 0) (.scan (fHold w) (fD w) (fA w))
  | 0x1d7 => ifZero (fB w = 0) (.walk (fHold w) (fD w) (fA w))
  | 0x1d8 => ifZero (fD w = 0 && fB w = 0) (.xred (fHold w) (fA w))
  | 0x1d9 => .instr (.tkmerge (fHold w) (fD w) (fA w) (fB w))
  | 0x1da => ifZero (fB w = 0) (.ivcommit (fHold w) (fD w) (fA w))
  | 0x1dc => .instr (.qpush (fHold w) (fD w) (fA w) (fB w))
  | 0x1dd => ifZero (fB w = 0) (.qpop (fHold w) (fD w) (fA w))
  | 0x1de => ifZero (fB w = 0) (.jcard (fHold w) (fD w) (fA w))
  | 0x1df => ifZero (fB w = 0) (.launch (fHold w) (fD w) (fA w))
  | 0x1e0 => ifZero (fD w = 0) (.evset (fHold w) (fA w) (fB w))
  | 0x1e1 => ifZero (fD w = 0) (.evclr (fHold w) (fA w) (fB w))
  | 0x1e2 => ifZero (fB w = 0) (.evrd (fHold w) (fD w) (fA w))
  | 0x1e8 => ifZero (fD w = 0 && fA w = 0 && fB w = 0) (.ball)
  | 0x1e9 => ifZero (fD w = 0 && fB w = 0) (.bsgl (fHold w) (fA w))
  | 0x1ea => ifZero (fD w = 0 && fB w = 0) (.brow (fHold w) (fA w))
  | 0x1eb => ifZero (fB w = 0) (.bcolr (fHold w) (fD w) (fA w))
  | 0x1ec => ifZero (fB w = 0) (.bcolw (fHold w) (fD w) (fA w))
  | 0x1ed => ifZero (fB w = 0) (.bres (fHold w) (fD w) (fA w))
  | 0x1ee => ifZero (fD w = 0 && fB w = 0) (.ifm (fHold w) (fA w))
  | 0x1ef => ifZero (fD w = 0 && fA w = 0 && fB w = 0) (.elm)
  | 0x1f0 => ifZero (fD w = 0 && fA w = 0 && fB w = 0) (.enm)
  | 0x1f4 => ifZero (fB w = 0) (.dist (fHold w) (fD w) (fA w))
  | 0x1f5 => .instr (.heapi (fHold w) (fD w) (fA w) (fB w))
  | 0x1f6 => .instr (.adj (fHold w) (fD w) (fA w) (fB w))
  | 0x1f7 => ifZero (fD w = 0 && fB w = 0) (.ferry (fHold w) (fA w))
  | 0x1f8 => ifZero (fB w = 0) (.vchk (fHold w) (fD w) (fA w))
  | _ => .reject .unassigned

/-- The form and number checks of 03 R80 that do not depend on the unit. DESIGN CHOICE (assumption log 57): a misformed pair,
quad or tile is found first, in the order d, a, b, then a bad number field, which names no register; a register at or above
the count of the unit comes after both. -/
def Decoded.checked : Decoded → Decoded
  | .instr i =>
    match misformed i with
    | some r => .reject (.operand r)
    | none => if numbersOk i then .instr i else .reject .number
  | .reject r => .reject r

/-- The instruction a word stands for, with the literal word that follows it in memory (03 R80). -/
def decode (w lit : Word) : Decoded := (decodeOp (fOp w).toNat w lit).checked

/-- The opcode of a word is in the literal set (03 R78). -/
def wordIsLong (w : Word) : Bool :=
  let op := (fOp w).toNat
  (0x052 ≤ op && op ≤ 0x055) || op = 0x0C6

/-- The words of an instruction (03 R75 to R78, R82; 04; 05 R130; 06 R157; 07 R197; 08 R223). An event has none. -/
def encode : Instr → List Word
  | .add hold d a b => [wordR 0x001 hold d a b]
  | .sub hold d a b => [wordR 0x002 hold d a b]
  | .mul hold d a b => [wordR 0x003 hold d a b]
  | .mulh hold d a b => [wordR 0x004 hold d a b]
  | .mad hold d a b => [wordR 0x005 hold d a b]
  | .divu hold d a b => [wordR 0x006 hold d a b]
  | .divs hold d a b => [wordR 0x007 hold d a b]
  | .min hold d a b => [wordR 0x008 hold d a b]
  | .max hold d a b => [wordR 0x009 hold d a b]
  | .abs hold d a => [wordR 0x00a hold d a 0]
  | .neg hold d a => [wordR 0x00b hold d a 0]
  | .and hold d a b => [wordR 0x00c hold d a b]
  | .or hold d a b => [wordR 0x00d hold d a b]
  | .xor hold d a b => [wordR 0x00e hold d a b]
  | .not hold d a => [wordR 0x00f hold d a 0]
  | .andn hold d a b => [wordR 0x010 hold d a b]
  | .shl hold d a b => [wordR 0x011 hold d a b]
  | .shr hold d a b => [wordR 0x012 hold d a b]
  | .rotl hold d a b => [wordR 0x013 hold d a b]
  | .rotr hold d a b => [wordR 0x014 hold d a b]
  | .popc hold d a => [wordR 0x015 hold d a 0]
  | .clz hold d a => [wordR 0x016 hold d a 0]
  | .brev hold d a => [wordR 0x017 hold d a 0]
  | .bfe hold d a b => [wordR 0x018 hold d a b]
  | .bfi hold d a b => [wordR 0x019 hold d a b]
  | .add64 hold d a b => [wordR 0x01a hold d a b]
  | .sub64 hold d a b => [wordR 0x01b hold d a b]
  | .shl64 hold d a b => [wordR 0x01c hold d a b]
  | .shr64 hold d a b => [wordR 0x01d hold d a b]
  | .seq hold d a b => [wordR 0x01e hold d a b]
  | .sne hold d a b => [wordR 0x01f hold d a b]
  | .slt hold d a b => [wordR 0x020 hold d a b]
  | .sle hold d a b => [wordR 0x021 hold d a b]
  | .sel hold d a b => [wordR 0x022 hold d a b]
  | .mov hold d a => [wordR 0x023 hold d a 0]
  | .addx hold d a b => [wordR 0x024 hold d a b]
  | .addi hold d a imm => [wordR 0x040 hold d a imm]
  | .muli hold d a imm => [wordR 0x041 hold d a imm]
  | .andi hold d a imm => [wordR 0x042 hold d a imm]
  | .ori hold d a imm => [wordR 0x043 hold d a imm]
  | .xori hold d a imm => [wordR 0x044 hold d a imm]
  | .shli hold d a imm => [wordR 0x045 hold d a imm]
  | .shri hold d a imm => [wordR 0x046 hold d a imm]
  | .rotli hold d a imm => [wordR 0x047 hold d a imm]
  | .seqi hold d a imm => [wordR 0x048 hold d a imm]
  | .snei hold d a imm => [wordR 0x049 hold d a imm]
  | .slti hold d a imm => [wordR 0x04a hold d a imm]
  | .slei hold d a imm => [wordR 0x04b hold d a imm]
  | .mini hold d a imm => [wordR 0x04c hold d a imm]
  | .maxi hold d a imm => [wordR 0x04d hold d a imm]
  | .addi64 hold d a imm => [wordR 0x04e hold d a imm]
  | .movk d imm => [wordK 0x050 d imm]
  | .movh d imm => [wordK 0x051 d imm]
  | .lit d lit => [wordK 0x052 d 0, lit]
  | .addl d lit => [wordK 0x053 d 0, lit]
  | .andl d lit => [wordK 0x054 d 0, lit]
  | .orl d lit => [wordK 0x055 d 0, lit]
  | .addU hold d a b => [wordR 0x060 hold d a b]
  | .subU hold d a b => [wordR 0x061 hold d a b]
  | .mulU hold d a b => [wordR 0x062 hold d a b]
  | .andU hold d a b => [wordR 0x063 hold d a b]
  | .orU hold d a b => [wordR 0x064 hold d a b]
  | .xorU hold d a b => [wordR 0x065 hold d a b]
  | .shlU hold d a b => [wordR 0x066 hold d a b]
  | .shrU hold d a b => [wordR 0x067 hold d a b]
  | .minU hold d a b => [wordR 0x068 hold d a b]
  | .maxU hold d a b => [wordR 0x069 hold d a b]
  | .seqU hold d a b => [wordR 0x06a hold d a b]
  | .sltU hold d a b => [wordR 0x06b hold d a b]
  | .movU hold d a => [wordR 0x06c hold d a 0]
  | .add64U hold d a b => [wordR 0x06d hold d a b]
  | .addiU hold d a imm => [wordR 0x06e hold d a imm]
  | .shliU hold d a imm => [wordR 0x06f hold d a imm]
  | .fadd hold d a b => [wordR 0x080 hold d a b]
  | .fsub hold d a b => [wordR 0x081 hold d a b]
  | .fmul hold d a b => [wordR 0x082 hold d a b]
  | .fma hold d a b => [wordR 0x083 hold d a b]
  | .fmin hold d a b => [wordR 0x084 hold d a b]
  | .fmax hold d a b => [wordR 0x085 hold d a b]
  | .fabs hold d a => [wordR 0x086 hold d a 0]
  | .fneg hold d a => [wordR 0x087 hold d a 0]
  | .frcp hold d a => [wordR 0x088 hold d a 0]
  | .frsq hold d a => [wordR 0x089 hold d a 0]
  | .fsqrt hold d a => [wordR 0x08a hold d a 0]
  | .fexp2 hold d a => [wordR 0x08b hold d a 0]
  | .flog2 hold d a => [wordR 0x08c hold d a 0]
  | .fseq hold d a b => [wordR 0x090 hold d a b]
  | .fsne hold d a b => [wordR 0x091 hold d a b]
  | .fslt hold d a b => [wordR 0x092 hold d a b]
  | .fsle hold d a b => [wordR 0x093 hold d a b]
  | .dot2 hold d a b => [wordR 0x098 hold d a b]
  | .dot4 hold d a b => [wordR 0x099 hold d a b]
  | .dot8 hold d a b => [wordR 0x09a hold d a b]
  | .hadd hold d a b => [wordR 0x0a0 hold d a b]
  | .hsub hold d a b => [wordR 0x0a1 hold d a b]
  | .hmul hold d a b => [wordR 0x0a2 hold d a b]
  | .hfma hold d a b => [wordR 0x0a3 hold d a b]
  | .hmin hold d a b => [wordR 0x0a4 hold d a b]
  | .hmax hold d a b => [wordR 0x0a5 hold d a b]
  | .cvt hold d a => [wordR 0x0c0 hold d a 0]
  | .pack hold d a b => [wordR 0x0c1 hold d a b]
  | .unpk hold d a b => [wordR 0x0c2 hold d a b]
  | .tagw d code => [wordK 0x0c3 d ((0 : BitVec 8) ++ code)]
  | .tagr hold d a => [wordR 0x0c4 hold d a 0]
  | .setm hold a sel => [wordR 0x0c5 hold 0 a sel]
  | .setmi lit => [wordK 0x0c6 0 0, lit]
  | .getm hold d sel => [wordR 0x0c7 hold d 0 sel]
  | .stat hold d a => [wordR 0x0c8 hold d a 0]
  | .voteAny hold d a => [wordR 0x0d0 hold d a 0]
  | .voteAll hold d a => [wordR 0x0d1 hold d a 0]
  | .voteBal hold d a => [wordR 0x0d2 hold d a 0]
  | .shflIdx hold d a b => [wordR 0x0d3 hold d a b]
  | .shflUp hold d a b => [wordR 0x0d4 hold d a b]
  | .shflDn hold d a b => [wordR 0x0d5 hold d a b]
  | .shflXor hold d a b => [wordR 0x0d6 hold d a b]
  | .bcast hold d a b => [wordR 0x0d7 hold d a b]
  | .reduAdd hold d a => [wordR 0x0d8 hold d a 0]
  | .reduMin hold d a => [wordR 0x0d9 hold d a 0]
  | .reduMax hold d a => [wordR 0x0da hold d a 0]
  | .prefx hold d a => [wordR 0x0db hold d a 0]
  | .wid hold d fld => [wordR 0x0dc hold d 0 fld]
  | .lane hold d => [wordR 0x0dd hold d 0 0]
  | .maskr hold d => [wordR 0x0de hold d 0 0]
  | .liver hold d => [wordR 0x0df hold d 0 0]
  | .nop hold => [wordR 0x100 hold 0 0 0]
  | .br a off => [wordK 0x101 a off]
  | .bru a off => [wordK 0x102 a off]
  | .jmp off => [wordK 0x103 0 off]
  | .jmpr hold a => [wordR 0x104 hold 0 a 0]
  | .call a off => [wordK 0x105 a off]
  | .ret hold a => [wordR 0x106 hold 0 a 0]
  | .joinat off => [wordK 0x107 0 off]
  | .join hold => [wordR 0x108 hold 0 0 0]
  | .brk n => [wordK 0x109 0 ((0 : BitVec 12) ++ n)]
  | .loop a off => [wordK 0x10a a off]
  | .lexit a off => [wordK 0x10b a off]
  | .exit hold => [wordR 0x10c hold 0 0 0]
  | .trap svc cause => [wordK 0x10d 0 (svc ++ cause)]
  | .tret hold => [wordR 0x10e hold 0 0 0]
  | .waitv hold d a b => [wordR 0x10f hold d a b]
  | .yield hold => [wordR 0x110 hold 0 0 0]
  | .sleep imm => [wordK 0x111 0 imm]
  | .pgmap hold d a b => [wordR 0x120 hold d a b]
  | .pginv hold d a b => [wordR 0x121 hold d a b]
  | .ldb hold d a imm => [wordR 0x140 hold d a imm]
  | .ldbs hold d a imm => [wordR 0x141 hold d a imm]
  | .ldh hold d a imm => [wordR 0x142 hold d a imm]
  | .ldhs hold d a imm => [wordR 0x143 hold d a imm]
  | .ld hold d a imm => [wordR 0x144 hold d a imm]
  | .ldd hold d a imm => [wordR 0x145 hold d a imm]
  | .ldq hold d a imm => [wordR 0x146 hold d a imm]
  | .stb hold d a imm => [wordR 0x148 hold d a imm]
  | .sth hold d a imm => [wordR 0x149 hold d a imm]
  | .st hold d a imm => [wordR 0x14a hold d a imm]
  | .std hold d a imm => [wordR 0x14b hold d a imm]
  | .stq hold d a imm => [wordR 0x14c hold d a imm]
  | .ldAcq hold d a imm => [wordR 0x150 hold d a imm]
  | .lddAcq hold d a imm => [wordR 0x151 hold d a imm]
  | .stRel hold d a imm => [wordR 0x152 hold d a imm]
  | .stdRel hold d a imm => [wordR 0x153 hold d a imm]
  | .ldro hold d a imm => [wordR 0x154 hold d a imm]
  | .ldroQ hold d a imm => [wordR 0x155 hold d a imm]
  | .pref hold a imm => [wordR 0x156 hold 0 a imm]
  | .lds hold d a imm => [wordR 0x160 hold d a imm]
  | .ldsQ hold d a imm => [wordR 0x161 hold d a imm]
  | .sts hold d a imm => [wordR 0x162 hold d a imm]
  | .stsQ hold d a imm => [wordR 0x163 hold d a imm]
  | .tagl hold d a => [wordR 0x168 hold d a 0]
  | .tagi hold d a b => [wordR 0x169 hold d a b]
  | .tage hold d a => [wordR 0x16a hold d a 0]
  | .tagp hold d a b => [wordR 0x16b hold d a b]
  | .tagt hold d a b => [wordR 0x16c hold d a b]
  | .aadd hold d a b => [wordR 0x180 hold d a b]
  | .amin hold d a b => [wordR 0x181 hold d a b]
  | .amax hold d a b => [wordR 0x182 hold d a b]
  | .aand hold d a b => [wordR 0x183 hold d a b]
  | .aor hold d a b => [wordR 0x184 hold d a b]
  | .axor hold d a b => [wordR 0x185 hold d a b]
  | .axch hold d a b => [wordR 0x186 hold d a b]
  | .acas hold d a b => [wordR 0x187 hold d a b]
  | .aadd64 hold d a b => [wordR 0x188 hold d a b]
  | .acas64 hold d a b => [wordR 0x189 hold d a b]
  | .fence hold => [wordR 0x18c hold 0 0 0]
  | .fenceRo hold => [wordR 0x18d hold 0 0 0]
  | .waitc tl cp st ld => [wordK 0x190 0 (tl ++ cp ++ st ++ ld)]
  | .waitr hold a cls => [wordR 0x191 hold 0 a cls]
  | .ctrr hold d cls => [wordR 0x192 hold d 0 cls]
  | .bar hold => [wordR 0x198 hold 0 0 0]
  | .baroArr hold a => [wordR 0x199 hold 0 a 0]
  | .baroWt hold d a b => [wordR 0x19a hold d a b]
  | .xld hold d a b => [wordR 0x1a0 hold d a b]
  | .xldQ hold d a b => [wordR 0x1a1 hold d a b]
  | .xst hold d a b => [wordR 0x1a2 hold d a b]
  | .xstQ hold d a b => [wordR 0x1a3 hold d a b]
  | .xat hold d a b => [wordR 0x1a4 hold d a b]
  | .xcas hold d a b => [wordR 0x1a5 hold d a b]
  | .cwdet hold => [wordR 0x1a8 hold 0 0 0]
  | .cwleave hold => [wordR 0x1a9 hold 0 0 0]
  | .cwxch hold d a b => [wordR 0x1aa hold d a b]
  | .wbld hold tile a => [wordR 0x1c0 hold tile a 0]
  | .wbz hold tile => [wordR 0x1c1 hold tile 0 0]
  | .mma hold tile a slot => [wordR 0x1c2 hold tile a slot]
  | .accz hold tile => [wordR 0x1c3 hold tile 0 0]
  | .accsv hold tile a => [wordR 0x1c4 hold tile a 0]
  | .accrs hold tile a => [wordR 0x1c5 hold tile a 0]
  | .tdrain hold tile a => [wordR 0x1c6 hold tile a 0]
  | .tscale hold tile a sel => [wordR 0x1c7 hold tile a sel]
  | .histrd hold d tile => [wordR 0x1c8 hold d tile 0]
  | .histz hold tile => [wordR 0x1c9 hold tile 0 0]
  | .cpy hold d a b => [wordR 0x1cc hold d a b]
  | .cpy2d hold d a b => [wordR 0x1cd hold d a b]
  | .cpfill hold d a b => [wordR 0x1ce hold d a b]
  | .cprt hold a b => [wordR 0x1cf hold 0 a b]
  | .nmld hold d a => [wordR 0x1d0 hold d a 0]
  | .nmsw hold d a => [wordR 0x1d1 hold d a 0]
  | .nmx hold a => [wordR 0x1d2 hold 0 a 0]
  | .nmst hold d a b => [wordR 0x1d3 hold d a b]
  | .idxreg hold d a b => [wordR 0x1d4 hold d a b]
  | .srch hold d a => [wordR 0x1d5 hold d a 0]
  | .scan hold d a => [wordR 0x1d6 hold d a 0]
  | .walk hold d a => [wordR 0x1d7 hold d a 0]
  | .xred hold a => [wordR 0x1d8 hold 0 a 0]
  | .tkmerge hold d a b => [wordR 0x1d9 hold d a b]
  | .ivcommit hold d a => [wordR 0x1da hold d a 0]
  | .qpush hold d a b => [wordR 0x1dc hold d a b]
  | .qpop hold d a => [wordR 0x1dd hold d a 0]
  | .jcard hold d a => [wordR 0x1de hold d a 0]
  | .launch hold d a => [wordR 0x1df hold d a 0]
  | .evset hold a b => [wordR 0x1e0 hold 0 a b]
  | .evclr hold a b => [wordR 0x1e1 hold 0 a b]
  | .evrd hold d a => [wordR 0x1e2 hold d a 0]
  | .ball => [wordR 0x1e8 0 0 0 0]
  | .bsgl hold a => [wordR 0x1e9 hold 0 a 0]
  | .brow hold a => [wordR 0x1ea hold 0 a 0]
  | .bcolr hold d a => [wordR 0x1eb hold d a 0]
  | .bcolw hold d a => [wordR 0x1ec hold d a 0]
  | .bres hold d a => [wordR 0x1ed hold d a 0]
  | .ifm hold a => [wordR 0x1ee hold 0 a 0]
  | .elm => [wordR 0x1ef 0 0 0 0]
  | .enm => [wordR 0x1f0 0 0 0 0]
  | .dist hold d a => [wordR 0x1f4 hold d a 0]
  | .heapi hold d a b => [wordR 0x1f5 hold d a b]
  | .adj hold d a b => [wordR 0x1f6 hold d a b]
  | .ferry hold a => [wordR 0x1f7 hold 0 a 0]
  | .vchk hold d a => [wordR 0x1f8 hold d a 0]
  | _ => []

/-- Four bytes as a little-endian word (00 R6). -/
def wordOfBytes : List Byte → Word
  | [b0, b1, b2, b3] => b3 ++ b2 ++ b1 ++ b0
  | _ => 0

/-- The bytes of a word, lowest address first (00 R6). -/
def bytesOfWord (w : Word) : List Byte :=
  [w.extractLsb' 0 8, w.extractLsb' 8 8, w.extractLsb' 16 8, w.extractLsb' 24 8]

/-- The instruction at the head of a list of bytes, with the bytes after it; none where the bytes are too few. -/
def decodeBytes : List Byte → Option (Decoded × List Byte)
  | b0 :: b1 :: b2 :: b3 :: rest =>
    let w := wordOfBytes [b0, b1, b2, b3]
    if wordIsLong w then
      match rest with
      | c0 :: c1 :: c2 :: c3 :: rest' => some (decode w (wordOfBytes [c0, c1, c2, c3]), rest')
      | _ => none
    else some (decode w 0, rest)
  | _ => none

/-- The bytes of an instruction whose first `nbits` bits are `w`, numbered as the operation table numbers them; the
bits above are zero, up to two words. -/
def tableBytes (nbits w : Nat) : List Byte :=
  let v : BitVec 64 := BitVec.ofNat 64 (w % 2 ^ nbits)
  bytesOfWord (v.extractLsb' 0 32) ++ bytesOfWord (v.extractLsb' 32 32)

/-- The instruction the decoder reads from the bits of a row of the operation table. -/
def decodeTableWord (nbits w : Nat) : Option Instr :=
  match decodeBytes (tableBytes nbits w) with
  | some (.instr i, _) => some i
  | _ => none

end Sys2Proof
end

