-- ==== Sys2Proof/Machine/Table.lean ====
section
/-! DEFINITION. The sparse table: keys strictly rising. Every store of the model that is larger than a few registers
is one; what an unlisted key reads as is the default the reader names. -/

namespace Sys2Proof

/-- The entry of a key. -/
def Tab.look {α : Type} : Tab α → Nat → Option α
  | [], _ => none
  | (k, v) :: r, q => if q = k then some v else Tab.look r q

/-- The entry of a key, or the default. -/
def Tab.lookD {α : Type} (t : Tab α) (q : Nat) (d : α) : α := (Tab.look t q).getD d

/-- Set the entry of a key, keeping the keys rising. -/
def Tab.put {α : Type} : Tab α → Nat → α → Tab α
  | [], q, x => [(q, x)]
  | (k, v) :: r, q, x =>
    if q < k then (q, x) :: (k, v) :: r
    else if q = k then (q, x) :: r
    else (k, v) :: Tab.put r q x

/-- Remove every entry of a key. -/
def Tab.del {α : Type} : Tab α → Nat → Tab α
  | [], _ => []
  | (k, v) :: r, q => if q = k then Tab.del r q else (k, v) :: Tab.del r q

/-- Set the value of a key where an unlisted key reads as `d`: writing `d` removes the entry. -/
def Tab.write {α : Type} [DecidableEq α] (d : α) (t : Tab α) (q : Nat) (x : α) : Tab α :=
  if x = d then Tab.del t q else Tab.put t q x

/-- Change the entry of a key, from the default where there is none. -/
def Tab.modify {α : Type} (t : Tab α) (q : Nat) (d : α) (f : α → α) : Tab α := Tab.put t q (f (Tab.lookD t q d))

/-- Change the entry of a key where there is one. -/
def Tab.change {α : Type} (t : Tab α) (q : Nat) (f : α → α) : Tab α :=
  match Tab.look t q with
  | some x => Tab.put t q (f x)
  | none => t

/-- The keys strictly rise from above a bound. -/
def Tab.risesFrom {α : Type} : Option Nat → Tab α → Bool
  | _, [] => true
  | lo, (k, _) :: r => (match lo with
      | none => true
      | some b => b < k) && Tab.risesFrom (some k) r

/-- The canonical form of a table in which an unlisted key reads as `d`: keys strictly rising, no entry equal to `d`. -/
def Tab.canon {α : Type} [DecidableEq α] (d : α) (t : Tab α) : Bool :=
  Tab.risesFrom none t && t.all fun e => !decide (e.2 = d)

/-- The lowest key below `n` that holds nothing. -/
def Tab.freeBelow {α : Type} (t : Tab α) (n : Nat) : Option Nat :=
  (List.range n).find? fun k => (Tab.look t k).isNone

/-- How many keys below `n` hold nothing. -/
def Tab.freeCount {α : Type} (t : Tab α) (n : Nat) : Nat :=
  ((List.range n).filter fun k => (Tab.look t k).isNone).length

end Sys2Proof
end

