-- ==== Sys2Proof/Machine/Num.lean ====
section
/-! DEFINITION. Exact numbers and the formats that encode them (02 R49 to R55, R62, R68). -/

namespace Sys2Proof.Machine

/-- What an encoding stands for. `fin neg m e` is m × 2^e with a sign, zero included; a NaN is signalling or not. -/
inductive Val where
  | nan (signalling : Bool)
  | inf (neg : Bool)
  | fin (neg : Bool) (m : Nat) (e : Int)
  deriving DecidableEq, Repr

/-- A sign-magnitude format: the magnitude code is exponent then fraction. `top` is the largest finite magnitude code,
`infc` the code of infinity, `nan` the canonical NaN. `ieee`: negative zero exists and every code above `infc` is a
NaN, quiet when its top fraction bit is 1; otherwise `nan` is the only NaN and is never signalling (02 R51 to R54). -/
structure Fmt where
  width : Nat
  mbits : Nat
  bias : Nat
  signed : Bool
  top : Nat
  infc : Option Nat
  nan : Nat
  ieee : Bool
  deriving DecidableEq, Repr

/-- FP32 (02 R51). -/
def Fmt.f32 : Fmt :=
  { width := 32, mbits := 23, bias := 127, signed := true, top := 0x7F7FFFFF, infc := some 0x7F800000,
    nan := 0x7FC00000, ieee := true }
/-- FP16 (02 R51). -/
def Fmt.f16 : Fmt :=
  { width := 16, mbits := 10, bias := 15, signed := true, top := 0x7BFF, infc := some 0x7C00, nan := 0x7E00,
    ieee := true }
/-- BF16 (02 R51). -/
def Fmt.b16 : Fmt :=
  { width := 16, mbits := 7, bias := 127, signed := true, top := 0x7F7F, infc := some 0x7F80, nan := 0x7FC0,
    ieee := true }
/-- ACC80 (02 R62). -/
def Fmt.acc80 : Fmt :=
  { width := 80, mbits := 63, bias := 32767, signed := true, top := 0x7FFF7FFFFFFFFFFFFFFF,
    infc := some 0x7FFF8000000000000000, nan := 0x7FFFC000000000000000, ieee := true }
/-- A binary8 variant (02 R53, R54): precision 1 to 7, signed or not, with infinities or not. -/
def Fmt.b8 (p : Nat) (signed infs : Bool) : Fmt :=
  { width := 8, mbits := p - 1, bias := 2 ^ (if signed then 7 - p else 8 - p), signed := signed,
    top := (if signed then 0x7F else 0xFE) - (if infs then 1 else 0),
    infc := if infs then some (if signed then 0x7F else 0xFE) else none,
    nan := if signed then 0x80 else 0xFF, ieee := false }

/-- The weight of the sign bit. -/
def Fmt.signBit (f : Fmt) : Nat := if f.signed then 2 ^ (f.width - 1) else 2 ^ f.width

/-- The value of a finite magnitude code (02 R51, R53, R62). -/
def Fmt.magVal (f : Fmt) (neg : Bool) (c : Nat) : Val :=
  let e := c / 2 ^ f.mbits
  let fr := c % 2 ^ f.mbits
  if e = 0 then .fin neg fr (1 - (f.bias : Int) - f.mbits)
  else .fin neg (2 ^ f.mbits + fr) ((e : Int) - f.bias - f.mbits)

/-- What an encoding stands for. -/
def Fmt.read (f : Fmt) (bits : Nat) : Val :=
  let x := bits % 2 ^ f.width
  let neg := f.signed && 2 ^ (f.width - 1) ≤ x
  let c := x % f.signBit
  if !f.ieee && x = f.nan then .nan false
  else match f.infc with
    | some ic =>
      if c = ic then .inf neg
      else if f.ieee && ic < c then .nan (c - ic < 2 ^ (f.mbits - 1))
      else f.magVal neg c
    | none => f.magVal neg c

/-- An element type of a register or a memory image: an integer or a float of some width (02 R49, R68). -/
inductive Elem where
  | int (width : Nat) (signed : Bool)
  | flt (f : Fmt)
  deriving DecidableEq, Repr

/-- Bits of an element. -/
def Elem.bits : Elem → Nat
  | .int w _ => w
  | .flt f => f.width

/-- The element type a tag names (02 R68); none for RAW, the halves of a pair, ACC80 and unassigned codes. -/
def elemOf (tag : Byte) : Option Elem :=
  let n := tag.toNat
  if n = 0x10 then some (.int 32 true)
  else if n = 0x11 then some (.int 32 false)
  else if n = 0x20 then some (.flt .f32)
  else if n = 0x21 then some (.flt .f16)
  else if n = 0x22 then some (.flt .b16)
  else if n = 0x30 then some (.int 8 true)
  else if n = 0x31 then some (.int 8 false)
  else if n = 0x32 then some (.int 4 true)
  else if n = 0x33 then some (.int 4 false)
  else if (0x42 ≤ n && n ≤ 0x4F) || (0x52 ≤ n && n ≤ 0x5F) then
    some (.flt (.b8 (n % 16 / 2) (n % 2 = 1) (0x50 ≤ n)))
  else none

/-- Element k of a packed register or image (02 R49). -/
def packedElem (bits w k : Nat) : Nat := bits / 2 ^ (w * k) % 2 ^ w

/-- A packed register with element k replaced. -/
def setPacked (bits w k x : Nat) : Nat :=
  bits - packedElem bits w k * 2 ^ (w * k) + x % 2 ^ w * 2 ^ (w * k)

/-- The integer a bit pattern stands for. -/
def intOf (w : Nat) (signed : Bool) (x : Nat) : Int :=
  let y := x % 2 ^ w
  if signed && 2 ^ (w - 1) ≤ y then (y : Int) - 2 ^ w else y

/-- The bit pattern of an integer modulo 2^w. -/
def wrapTo (w : Nat) (x : Int) : Nat := (x % (2 ^ w : Nat)).toNat

/-- The ends of an integer type's range (02 R49). -/
def intMin (w : Nat) (signed : Bool) : Int := if signed then -(2 ^ (w - 1) : Nat) else 0
/-- The upper end. -/
def intMax (w : Nat) (signed : Bool) : Int := if signed then (2 ^ (w - 1) : Nat) - 1 else (2 ^ w : Nat) - 1

/-- Clamping to a range. -/
def clampTo (w : Nat) (signed : Bool) (x : Int) : Int :=
  if x < intMin w signed then intMin w signed else if intMax w signed < x then intMax w signed else x

/-- An integer result fitted to its type: wrapped, or clamped under MODE.sat (02 R50). -/
def fitInt (w : Nat) (signed sat : Bool) (x : Int) : Nat :=
  wrapTo w (if sat then clampTo w signed x else x)

/-- The exact value of an element. -/
def Elem.read (t : Elem) (bits : Nat) : Val :=
  match t with
  | .int w s =>
    let x := intOf w s bits
    .fin (x < 0) x.natAbs 0
  | .flt f => f.read bits

/-! ## Exact arithmetic -/

/-- The sign of a value. -/
def Val.neg : Val → Bool
  | .nan _ => false
  | .inf n => n
  | .fin n _ _ => n

/-- Negation. -/
def Val.negate : Val → Val
  | .nan s => .nan s
  | .inf n => .inf (!n)
  | .fin n m e => .fin (!n) m e

/-- A NaN of either kind. -/
def Val.isNan : Val → Bool
  | .nan _ => true
  | _ => false

/-- A signalling NaN. -/
def Val.isSig : Val → Bool
  | .nan s => s
  | _ => false

/-- A zero of either sign. -/
def Val.isZero : Val → Bool
  | .fin _ m _ => m = 0
  | _ => false

/-- Multiplication by a power of two. -/
def Val.scale (v : Val) (k : Int) : Val :=
  match v with
  | .fin n m e => .fin n m (e + k)
  | v => v

/-- A result with its invalid-operation condition. -/
structure Exact where
  val : Val
  iv : Bool
  deriving DecidableEq, Repr

/-- The exact product; 0 × ∞ is invalid (02 R60). -/
def Val.mul (x y : Val) : Exact :=
  match x, y with
  | .nan s, y => { val := .nan false, iv := s || y.isSig }
  | x, .nan s => { val := .nan false, iv := s || x.isSig }
  | .inf a, .inf b => { val := .inf (a != b), iv := false }
  | .inf a, .fin b m _ => if m = 0 then { val := .nan false, iv := true } else { val := .inf (a != b), iv := false }
  | .fin a m _, .inf b => if m = 0 then { val := .nan false, iv := true } else { val := .inf (a != b), iv := false }
  | .fin a m e, .fin b n g => { val := .fin (a != b) (m * n) (e + g), iv := false }

/-- The least exponent of the finite terms. -/
def minExp : List Val → Option Int
  | [] => none
  | .fin _ _ e :: r =>
    match minExp r with
    | some g => some (if e < g then e else g)
    | none => some e
  | _ :: r => minExp r

/-- The sum of the finite terms in units of 2^e. -/
def sumAt (e : Int) : List Val → Int
  | [] => 0
  | .fin n m g :: r =>
    let x : Int := (m * 2 ^ (g - e).toNat : Nat)
    (if n then -x else x) + sumAt e r
  | _ :: r => sumAt e r

/-- The exact sum of a list of terms (02 R56, R64, R65; 04 R126). Opposite infinities and signalling NaNs are invalid, beside
a quiet NaN too (assumption log 85). A zero sum is +0, or −0 when `down` (rounding toward −∞), unless every term is a zero of
one sign. -/
def exactSum (down : Bool) (xs : List Val) : Exact :=
  let pos := xs.any fun v => v = .inf false
  let neg := xs.any fun v => v = .inf true
  if xs.any Val.isNan then { val := .nan false, iv := xs.any Val.isSig || (pos && neg) }
  else
    if pos && neg then { val := .nan false, iv := true }
    else if pos then { val := .inf false, iv := false }
    else if neg then { val := .inf true, iv := false }
    else
      let e := (minExp xs).getD 0
      let t := sumAt e xs
      if t = 0 then
        let allNeg := xs.all fun v => v.isZero && v.neg
        let allPos := xs.all fun v => v.isZero && !v.neg
        { val := .fin (if allNeg then true else if allPos then false else down) 0 0, iv := false }
      else { val := .fin (t < 0) t.natAbs e, iv := false }

/-- The exact sum of the products of pairs of elements and an addend, with one invalid-operation condition (02 R65). -/
def exactDot (down : Bool) (c : Val) (xs : List (Val × Val)) : Exact :=
  let ps := xs.map fun p => p.1.mul p.2
  let s := exactSum down (c :: ps.map (·.val))
  { s with iv := s.iv || ps.any (·.iv) || c.isSig }

/-- Values compared: less, equal, or none for NaNs (04 R112). -/
def Val.cmp (x y : Val) : Option Ordering :=
  match x, y with
  | .nan _, _ => none
  | _, .nan _ => none
  | .inf a, .inf b => some (if a = b then .eq else if a then .lt else .gt)
  | .inf a, .fin _ _ _ => some (if a then .lt else .gt)
  | .fin _ _ _, .inf b => some (if b then .gt else .lt)
  | .fin a m e, .fin b n g =>
    let t := sumAt (if e < g then e else g) [.fin a m e, .fin (!b) n g]
    some (if t < 0 then .lt else if t = 0 then .eq else .gt)

/-- floor(log2 of a positive m × 2^e). -/
def expOf (m : Nat) (e : Int) : Int := (m.log2 : Int) + e

/-! ## Elementary functions: a lower bound of the exact magnitude with a sticky mark (04 R111) -/

/-- m × 2^e, exceeded by the exact magnitude by less than 2^e where `sticky`. -/
structure Approx where
  m : Nat
  e : Int
  sticky : Bool
  deriving DecidableEq, Repr

/-- The integer square root, by bits from 2^k down. -/
def isqrtFrom : Nat → Nat → Nat → Nat
  | 0, n, r => if (r + 1) * (r + 1) ≤ n then r + 1 else r
  | k + 1, n, r =>
    let c := r + 2 ^ (k + 1)
    isqrtFrom k n (if c * c ≤ n then c else r)

/-- floor(√n). -/
def isqrt (n : Nat) : Nat := isqrtFrom (n.log2 / 2 + 1) n 0

/-- 1 ÷ (m × 2^e) for m ≠ 0. -/
def recip (m : Nat) (e : Int) : Approx :=
  let k := m.log2 + 96
  { m := 2 ^ k / m, e := -e - k, sticky := 2 ^ k % m != 0 }

/-- √(m × 2^e). -/
def rootOf (m : Nat) (e : Int) : Approx :=
  let t : Nat := if e % 2 = 0 then 128 else 129
  let n := m * 2 ^ t
  let r := isqrt n
  { m := r, e := (e - t) / 2, sticky := r * r != n }

/-- 1 ÷ √(m × 2^e) for m ≠ 0. -/
def recipRoot (m : Nat) (e : Int) : Approx :=
  let n := if e % 2 = 0 then m else m * 2
  let g := if e % 2 = 0 then e else e - 1
  let k := n.log2 + 96
  let r := isqrt (2 ^ (2 * k) / n)
  { m := r, e := -k - g / 2, sticky := r * r * n != 2 ^ (2 * k) }

/-- ln 2 × 2^256, rounded down. -/
def ln2 : Nat := 0xb17217f7d1cf79abc9e3b39803f2f6af40f343267298b62d8a0d175b8baafa2b

/-- The exponential series at x ÷ 2^256, terms rounded down. -/
def expSeries : Nat → Nat → Nat → Nat → Nat
  | 0, _, _, _ => 0
  | n + 1, k, x, term => term + expSeries n (k + 1) x (term * x / 2 ^ 256 / k)

/-- 2^(±m × 2^e), the exponent of at most a few hundred in magnitude. -/
def exp2Of (neg : Bool) (m : Nat) (e : Int) : Approx :=
  if 0 ≤ e then { m := 1, e := (if neg then -1 else 1) * (m * 2 ^ e.toNat : Nat), sticky := false }
  else
    let d : Nat := 2 ^ (-e).toNat
    let x : Int := if neg then -(m : Int) else m
    let n : Int := x / (d : Int)
    let f := (x % (d : Int)).toNat
    if f = 0 then { m := 1, e := n, sticky := false }
    else
      let s := expSeries 70 1 (f * ln2 / d) (2 ^ 256)
      { m := s / 2 ^ 128, e := n - 128, sticky := true }

/-- Binary digits of log2 of y ÷ 2^256 for y in [1, 2), by squaring. -/
def log2Digits : Nat → Nat → Nat → Nat
  | 0, _, acc => acc
  | n + 1, y, acc =>
    let z := y * y / 2 ^ 256
    if 2 ^ 257 ≤ z then log2Digits n (z / 2) (2 * acc + 1) else log2Digits n z (2 * acc)

/-- log2(m × 2^e) for m ≠ 0, with its sign. -/
def log2Of (m : Nat) (e : Int) : Bool × Approx :=
  let l := expOf m e
  if m = 2 ^ m.log2 then (l < 0, { m := l.natAbs, e := 0, sticky := false })
  else
    let y := m * 2 ^ 256 / 2 ^ m.log2
    let t := l * (2 ^ 160 : Nat) + log2Digits 160 y 0
    if 0 ≤ t then (false, { m := t.toNat, e := -160, sticky := true })
    else (true, { m := t.natAbs - 1, e := -160, sticky := true })

/-! ## Ranking -/

/-- The order key of an FP32 distance (02 R67): zeros equal, NaN above +∞. -/
def distKey (w : Word) : Int :=
  match Fmt.f32.read w.toNat with
  | .nan _ => 0x80000000
  | _ => if w.toNat < 0x80000000 then w.toNat else -((w.toNat : Int) - 0x80000000)

/-- Ranked before (02 R67). -/
def Item.before (x y : Item) : Bool :=
  distKey x.dist < distKey y.dist || (distKey x.dist = distKey y.dist && x.id.toNat < y.id.toNat)

/-- The same entry (02 R67). -/
def Item.same (x y : Item) : Bool := distKey x.dist = distKey y.dist && x.id = y.id

/-- Insertion into a ranked list that holds no entry twice (12 R334). -/
def rankInsert (x : Item) : List Item → List Item
  | [] => [x]
  | y :: r => if Item.same x y then y :: r else if Item.before x y then x :: y :: r else y :: rankInsert x r

/-- Insertion into a heap of at most k entries (08 R236, 12 R334). -/
def heapInsert (k : Nat) (h : List Item) (x : Item) : List Item := (rankInsert x h).take k

/-- The k smallest distinct entries of a list (08 R250, 13 R362). -/
def smallest (k : Nat) (xs : List Item) : List Item := (xs.foldl (fun h x => rankInsert x h) []).take k

end Sys2Proof.Machine
end

