-- ==== Sys2Proof/Machine/Flags.lean ====
section
/-! DEFINITION. Rounding results into formats, the STAT flags they raise, and conversions (01 R32, R35; 02 R50, R52,
R56 to R61). -/

namespace Sys2Proof.Machine

/-- The flags of STAT[4:0]: NX, UF, OF, DZ, IV from bit 0 (01 R35). -/
abbrev FlagSet := BitVec 5

/-- Inexact. -/
def flagNX : FlagSet := 0b00001
/-- Underflow. -/
def flagUF : FlagSet := 0b00010
/-- Overflow. -/
def flagOF : FlagSet := 0b00100
/-- Division by zero. -/
def flagDZ : FlagSet := 0b01000
/-- Invalid operation. -/
def flagIV : FlagSet := 0b10000

/-- A flag when a condition holds. -/
def flagIf (c : Bool) (f : FlagSet) : FlagSet := if c then f else 0

/-- The IV flag is in a set. -/
def hasIV (f : FlagSet) : Bool := f &&& flagIV != 0

/-- The rounding controls of MODE (01 R32): rnd, sat, ftz. -/
structure Round where
  rnd : Nat
  sat : Bool
  ftz : Bool
  deriving DecidableEq, Repr

/-- Nearest-even with subnormals kept, as the engines round (02 R63, R66). -/
def Round.nearest : Round := { rnd := 0, sat := false, ftz := false }

/-- Rounding toward −∞. -/
def Round.down (r : Round) : Bool := r.rnd = 2

/-- A result of a floating-point operation or a conversion: its bits and flags. -/
structure Res where
  bits : Nat
  flags : FlagSet
  deriving DecidableEq, Repr

/-- Where a remainder lies in its interval. -/
inductive Rem where
  | exact | low | half | high
  deriving DecidableEq, Repr

/-- floor(m × 2^sh) and where the rest lies; `sticky` tells that the exact value exceeds m × 2^sh. -/
def splitAt (m : Nat) (sh : Int) (sticky : Bool) : Nat × Rem :=
  if 0 ≤ sh then (m * 2 ^ sh.toNat, if sticky then .low else .exact)
  else
    let k := (-sh).toNat
    let r := m % 2 ^ k
    let h := 2 ^ (k - 1)
    (m / 2 ^ k,
      if r = 0 then (if sticky then .low else .exact)
      else if r < h then .low
      else if r = h then (if sticky then .high else .half)
      else .high)

/-- Whether the magnitude goes up to the next code (02 R56). -/
def roundUp (rnd : Nat) (neg odd : Bool) (r : Rem) : Bool :=
  match r with
  | .exact => false
  | .low => (rnd = 2 && neg) || (rnd = 3 && !neg)
  | .half => (rnd = 0 && odd) || rnd = 4 || (rnd = 2 && neg) || (rnd = 3 && !neg)
  | .high => rnd = 0 || rnd = 4 || (rnd = 2 && neg) || (rnd = 3 && !neg)

/-- The bits of a magnitude code with a sign. -/
def Fmt.pack (f : Fmt) (neg : Bool) (c : Nat) : Nat := (if neg && f.signed then f.signBit else 0) + c

/-- The value delivered on overflow (02 R57). -/
def Fmt.overflow (f : Fmt) (r : Round) (neg : Bool) : Nat :=
  if r.sat then f.pack neg f.top
  else match f.infc with
    | none => f.nan
    | some ic =>
      if r.rnd = 0 || r.rnd = 4 || (r.rnd = 2 && neg) || (r.rnd = 3 && !neg) then f.pack neg ic else f.pack neg f.top

/-- A negative nonzero result for an unsigned format (02 R59). -/
def Fmt.negIntoUnsigned (r : Round) (f : Fmt) : Res :=
  if r.sat then { bits := 0, flags := flagNX } else { bits := f.nan, flags := flagIV }

/-- A nonzero magnitude m × 2^e rounded into a format (02 R56 to R60). DESIGN CHOICE (assumption log 97): with MODE.ftz = 1
the flush of R58 comes first, before R59, and for the binary8 value 2^-127 that becomes FP32 too (R61). -/
def Fmt.round (f : Fmt) (r : Round) (neg : Bool) (m : Nat) (e : Int) (sticky : Bool) : Res :=
  let l := expOf m e
  let emin : Int := 1 - f.bias
  -- the code below and the rest
  let u : Int := if emin ≤ l then l - f.mbits else emin - f.mbits
  let (q, rest) := splitAt m (e - u) sticky
  let base : Nat := if emin ≤ l then ((l + f.bias - 1).toNat) * 2 ^ f.mbits else 0
  let c0 := base + q
  let c := if roundUp r.rnd neg (c0 % 2 = 1) rest then c0 + 1 else c0
  let inexact := rest != .exact
  -- tininess, after rounding to full precision with an unbounded exponent (02 R58)
  let tiny :=
    if emin ≤ l then false
    else if l < emin - 1 then true
    else
      let (q', rest') := splitAt m (e - (l - f.mbits)) sticky
      !(roundUp r.rnd neg ((q' - 2 ^ f.mbits) % 2 = 1) rest' && q' + 1 = 2 ^ (f.mbits + 1))
  if tiny && r.ftz then
    { bits := if f.ieee then f.pack neg 0 else 0, flags := flagUF ||| flagNX }
  else if c = 0 then
    { bits := if f.ieee then f.pack neg 0 else 0, flags := flagIf inexact flagNX ||| flagIf (tiny && inexact) flagUF }
  else if neg && !f.signed then Fmt.negIntoUnsigned r f
  else if f.top < c then { bits := f.overflow r neg, flags := flagOF ||| flagNX }
  else { bits := f.pack neg c, flags := flagIf inexact flagNX ||| flagIf (tiny && inexact) flagUF }

/-- An exact value delivered in a format (02 R52, R56 to R61). `iv` tells that the operation was invalid. -/
def Fmt.deliver (f : Fmt) (r : Round) (x : Exact) : Res :=
  let g := flagIf x.iv flagIV
  match x.val with
  | .nan _ => { bits := f.nan, flags := g }
  | .inf neg =>
    if neg && !f.signed then let y := Fmt.negIntoUnsigned r f; { y with flags := y.flags ||| g }
    else match f.infc with
      | some ic => { bits := f.pack neg ic, flags := g }
      | none => { bits := if r.sat then f.pack neg f.top else f.nan, flags := g }
  | .fin neg m e =>
    if m = 0 then { bits := if f.ieee then f.pack neg 0 else 0, flags := g }
    else let y := f.round r neg m e false; { y with flags := y.flags ||| g }

/-- An approximation delivered in a format (04 R111). -/
def Fmt.deliverApprox (f : Fmt) (r : Round) (neg : Bool) (a : Approx) : Res := f.round r neg a.m a.e a.sticky

/-- A float rounded to an integer of a type (02 R61): the nearest end and IV outside the range, 0 and IV for a NaN. -/
def toInt (w : Nat) (signed : Bool) (r : Round) (v : Val) : Res :=
  match v with
  | .nan _ => { bits := 0, flags := flagIV }
  | .inf neg => { bits := wrapTo w (if neg then intMin w signed else intMax w signed), flags := flagIV }
  | .fin neg m e =>
    let (q, rest) := splitAt m e false
    let n := if roundUp r.rnd neg (q % 2 = 1) rest then q + 1 else q
    let x : Int := if neg then -(n : Int) else n
    if x < intMin w signed then { bits := wrapTo w (intMin w signed), flags := flagIV }
    else if intMax w signed < x then { bits := wrapTo w (intMax w signed), flags := flagIV }
    else { bits := wrapTo w x, flags := flagIf (rest != .exact) flagNX }

/-- One element converted (02 R61; 04 R115): integer to integer wraps or clamps under 02 R50. -/
def convert (r : Round) (src dst : Elem) (bits : Nat) : Res :=
  match src, dst with
  | .int ws ss, .int wd sd => { bits := fitInt wd sd r.sat (intOf ws ss bits), flags := 0 }
  | .int _ _, .flt f => f.deliver r { val := src.read bits, iv := false }
  | .flt g, .int wd sd => toInt wd sd r (g.read bits)
  | .flt g, .flt f => f.deliver r { val := g.read bits, iv := (g.read bits).isSig }

/-! ## Floating-point operations in a format (04 R109 to R113) -/

/-- a + b, or a − b. -/
def Fmt.add (f : Fmt) (r : Round) (sub : Bool) (a b : Nat) : Res :=
  let y := f.read b
  f.deliver r (exactSum r.down [f.read a, if sub then y.negate else y])

/-- a × b. -/
def Fmt.mulR (f : Fmt) (r : Round) (a b : Nat) : Res := f.deliver r ((f.read a).mul (f.read b))

/-- c + a × b, fused. -/
def Fmt.fmaR (f : Fmt) (r : Round) (c a b : Nat) : Res :=
  f.deliver r (exactDot r.down (f.read c) [(f.read a, f.read b)])

/-- The lesser or the greater of two values, −0 below +0 (04 R110). -/
def Fmt.pick (f : Fmt) (wantMax : Bool) (a b : Nat) : Res :=
  let x := f.read a
  let y := f.read b
  if x.isSig || y.isSig then { bits := f.nan, flags := flagIV }
  else if x.isNan && y.isNan then { bits := f.nan, flags := 0 }
  else if x.isNan then { bits := b, flags := 0 }
  else if y.isNan then { bits := a, flags := 0 }
  else
    let less := match x.cmp y with
      | some .lt => true
      | some .eq => x.neg && !y.neg
      | _ => false
    { bits := if less != wantMax then a else b, flags := 0 }

/-- The float compares (04 R112). -/
inductive FCmp where
  | eq | ne | lt | le
  deriving DecidableEq, Repr

/-- A compare and its flags. -/
def Fmt.compare (f : Fmt) (c : FCmp) (a b : Nat) : Res :=
  let x := f.read a
  let y := f.read b
  let o := x.cmp y
  let t : Bool := match c with
    | .eq => decide (o = some .eq)
    | .ne => decide (o ≠ some .eq)
    | .lt => decide (o = some .lt)
    | .le => decide (o = some .lt) || decide (o = some .eq)
  { bits := if t then 1 else 0, flags := flagIf (x.isSig || y.isSig) flagIV }

/-- The elementary functions (04 R111). -/
inductive FFun where
  | rcp | rsq | sqrt | exp2 | log2
  deriving DecidableEq, Repr

/-- 1/a, 1/√a, √a, 2^a, log2 a in FP32, with the special operands of 04 R111. -/
def elementary (r : Round) (g : FFun) (a : Nat) : Res :=
  let f := Fmt.f32
  let inv : Res := { bits := f.nan, flags := flagIV }
  match f.read a with
  | .nan s => { bits := f.nan, flags := flagIf s flagIV }
  | .inf neg =>
    match g with
    | .rcp => { bits := f.pack neg 0, flags := 0 }
    | .rsq => if neg then inv else { bits := 0, flags := 0 }
    | .sqrt => if neg then inv else { bits := a, flags := 0 }
    | .exp2 => { bits := if neg then 0 else a, flags := 0 }
    | .log2 => if neg then inv else { bits := a, flags := 0 }
  | .fin neg m e =>
    if m = 0 then
      match g with
      | .rcp => { bits := f.pack neg 0x7F800000, flags := flagDZ }
      | .rsq => { bits := f.pack neg 0x7F800000, flags := flagDZ }
      | .sqrt => { bits := a, flags := 0 }
      | .exp2 => { bits := 0x3F800000, flags := 0 }
      | .log2 => { bits := 0xFF800000, flags := flagDZ }
    else
      match g with
      | .rcp => f.deliverApprox r neg (recip m e)
      | .rsq => if neg then inv else f.deliverApprox r false (recipRoot m e)
      | .sqrt => if neg then inv else f.deliverApprox r false (rootOf m e)
      | .exp2 =>
        if 8 ≤ expOf m e then f.deliverApprox r false { m := 1, e := if neg then -1000 else 1000, sticky := true }
        else f.deliverApprox r false (exp2Of neg m e)
      | .log2 =>
        if neg then inv
        else
          let (n, x) := log2Of m e
          if x.m = 0 && !x.sticky then { bits := 0, flags := 0 } else f.deliverApprox r n x

/-! ## Accumulators and distances -/

/-- One block of an accumulation into ACC80 (02 R63, R64): c + s × 2^k, rounded once. DESIGN CHOICE (assumption log 85): the
sum s of a block whose products are all minus zero is plus zero. -/
def accBlock (c : Nat) (k : Int) (ps : List (Val × Val)) : Nat :=
  let s := exactDot false (.fin false 0 0) ps
  (Fmt.acc80.deliver .nearest (exactSum false [Fmt.acc80.read c, s.val.scale k])).bits

/-- One block of a distance (02 R66): D + s in FP32. DESIGN CHOICE (assumption log 109): a sum beyond the format rounds to the
infinity of its sign, as the listing has it; the prose says +∞ alone. -/
def distBlock (d : Nat) (terms : List Val) : Nat :=
  let s := exactSum false terms
  (Fmt.f32.deliver .nearest (exactSum false [Fmt.f32.read d, s.val])).bits

end Sys2Proof.Machine
end

