-- ==== Sys2Proof/Config.lean ====
section
/-! DEFINITION. What an implementation fixes and the spec leaves open, as constants without a body: nothing in Lean can
evaluate them or prove a value of them (assumption logs 8, 9, 24, 27, 30 and 92). -/

namespace Sys2Proof.Config

/-- The set of its slice that a line lies in, modulo 1,536: die, line key (10 R290). -/
opaque setOf : Nat → Nat → BitVec 16
/-- The way a slice's replacement order chooses first for a line: die, line key, the moment (10 R290). -/
opaque wayOf : Nat → Nat → Nat → BitVec 4
/-- The public identity key (14 R382). -/
opaque idPub : List Byte
/-- The vendor certificate (14 R382). -/
opaque idCert : List Byte
/-- The device's serial number (14 R382). -/
opaque serial : BitVec 128
/-- The Ed25519 signature of a message under the device's private key (14 R382). -/
opaque sign : List Byte → List Byte
/-- The submitted image's signature verifies against the fused vendor key (14 R383). -/
opaque signatureOk : List Byte → Bool
/-- The submitted image's version is at least the fused minimum (14 R383). -/
opaque versionOk : List Byte → Bool
/-- The stepping field of DEVID (14 R384). -/
opaque stepping : Byte

/-- The die of the current core of a gang member on another device, by the moment and the member (06 R188; 13 R349). -/
opaque memberDie : Nat → Nat → BitVec 2
/-- The phase of the barrier object of a root on another device, as a crucible reads it, by the moment; none where the root's
owner die refuses the read (13 R362). -/
opaque remotePhase : Nat → Option (BitVec 32)
/-- The root's owner die on another device takes the write of a merged list, by the moment (13 R362). -/
opaque remoteWrite : Nat → Bool
/-- The word a microprogram load writes for a poisoned word of its image, by cell key (08 R240). -/
opaque poisonedWord : Nat → BitVec 32
/-- The word a bank program reports as its end when it ends at an address outside the store, by the number of the word
counted from the start of the store (08 R226, R228, R243). -/
opaque outsideWord : Nat → BitVec 9

end Sys2Proof.Config
end

