-- ==== Sys2Proof/Machine/State.lean ====
section
/-! DEFINITION. The state of a Cehal device: everything the spec gives the machine, as plain data, and the state after
reset. Tables that are empty at reset read as the reset values their readers name. -/

namespace Sys2Proof.Machine

/-! ## Faults and refusals -/

/-- A program counter, a join PC or a loop address without its two zero bits (01 R15, R37). -/
abbrev Pc := BitVec 62

/-- Why the machine stops. -/
inductive Fault where
  /-- Raised by the step when the schedule names an agent that has nothing to do: no fragment of that lane block may
  issue, no program runs on that engine, no walker of that number is at work. Safe: the schedule is the model's own. -/
  | badTurn
  deriving DecidableEq, Repr

/-- Why there is no meaning. -/
inductive Refusal where
  /-- Raised by an arm of exec whose instruction has no meaning yet. Safe. -/
  | notModelled (mnemonic : String)
  /-- Raised by an instruction when no unit that executes it is issuing: the state names no issuing fragment, bank
  engine or walker. No step reaches it. Safe. -/
  | noUnit
  /-- Raised by an event when what the event is about is not in the state (a load that is not outstanding, a timer
  that has not run out): the event cannot occur. Safe. -/
  | notEnabled
  deriving DecidableEq, Repr

/-! ## Waves -/

/-- The trap causes (01 R40). -/
inductive Cause where
  | ill | tag | mode | align | page | prot | priv | cwDeparted | cwDetached | pairTimeout | emptyTimeout | layout
  | nmstore | xpeer | stack | double | fpinv
  deriving DecidableEq, Repr

/-- What a waiting fragment waits for (01 R15). -/
inductive Wait where
  /-- It tests its condition again at its instruction once something has happened since `seen`. -/
  | again (seen : Nat)
  /-- The same for an instruction of 08, which a save of its group lets finish first (08 R238); `scope` is MODE.scope as it
  was when the instruction was first tried (09 R258). -/
  | held (seen scope : Nat)
  /-- waitc or waitr (06 R178, R179): it has issued, and looks at its counters again once something has happened since
  `seen`. -/
  | counters (seen : Nat)
  /-- waitv (05 R152): destination pair, mask, quarter, all-of, deadline in reference ticks. -/
  | event (d : Reg) (mask : DWord) (quarter : Nat) (all : Bool) (deadline : Nat)
  /-- baro.wt (06 R186): destination, object, kind 1, deadline. -/
  | object (d : Reg) (va : DWord) (settled : Bool) (deadline : Nat)
  /-- fence (06 R168): the accesses of its wave before operation number `before` are not all performed at `scope`, the
  scope it was issued with; the wave issues no other access. -/
  | fence (scope before : Nat)
  /-- bar (06 R181) before its arrival: the same for the accesses of its own slots. -/
  | arriving (scope before : Nat)
  /-- bar (06 R181): its slots have arrived. -/
  | barrier
  /-- baro.arr held for room in the tracking list of its core (06 R184): the object, and the scope it was issued with. -/
  | room (va : DWord) (scope : Nat)
  /-- A waitv, or a baro.wt unless `pair`, that came true while its fragment was suspended: its result is written after
  TRET (05 R147). -/
  | due (d : Reg) (pair : Bool) (x : DWord)
  /-- cwxch (06 R196): its half is outstanding operation `op`. -/
  | exchange (op : Nat)
  /-- cwxch whose partner was withdrawn while a trap suspended its fragment, before its deadline: the cause is raised after
  TRET (05 R147). -/
  | departed (op : Nat)
  /-- An X instruction (06 R190): packets of outstanding operation `op` have no request slot yet. -/
  | slots (op : Nat)
  /-- cwdet, or cwleave with `leave` (06 R194, R195): causeway accesses issued before operation number `before`. -/
  | detach (before : Nat) (leave : Bool)
  /-- pginv (10 R296): operations issued before number `before` whose addresses lie in [lo, hi). -/
  | drain (d : Reg) (lo hi before : Nat)
  /-- nmsw (08 R241): microprogram loads of the engine that reached it before operation number `before`. -/
  | switch (d : Reg) (engine bank before : Nat)
  /-- srch, scan or walk (08 R247): the answer to the command of operation `op`. -/
  | command (d : Reg) (op : Nat)
  /-- A loop step that waits for an empty split-table entry (05 R143); the loop's identity. -/
  | loopStep (loop : Nat)
  deriving DecidableEq, Repr

/-- What a sleeping fragment sleeps until (05 R153, R154). -/
inductive Sleep where
  /-- A reference tick. -/
  | tick (t : Nat)
  /-- No watched fragment (group, wave, entry) is left, each having issued or stopped being ready since, or `left` issue
  opportunities of the lane block have passed. -/
  | turns (watched : List (Nat × Nat × Nat)) (left : Nat)
  deriving DecidableEq, Repr

/-- The states of a fragment (01 R15); whether it is suspended by a trap stands beside its earlier state (05 R147). -/
inductive FragState where
  | ready | joined
  | waiting (w : Wait)
  | sleeping (z : Sleep)
  deriving DecidableEq, Repr

/-- A fragment (01 R15). `notBefore` is the core cycle before which it does not issue (05 R131). -/
structure Fragment where
  pc : Pc
  mask : DWord
  st : FragState
  link : Option Nat
  suspended : Bool
  notBefore : Nat
  deriving DecidableEq, Repr

/-- A join record (01 R15). `loop` is the loop whose record it is (05 R142); `inTrap` tells that it was created since
trap entry (05 R150). -/
structure JoinRec where
  pc : Pc
  wait : DWord
  arrived : DWord
  parent : Option Nat
  loop : Option Nat
  inTrap : Bool
  deriving DecidableEq, Repr

/-- An entry of the split table that is not empty. -/
inductive Entry where
  | frag (f : Fragment)
  | join (j : JoinRec)
  deriving DecidableEq, Repr

/-- A loop-stack entry (01 R37) with the identity that ties it to its loop record. -/
structure LoopEnt where
  id : Nat
  start : Pc
  stop : Pc
  count : Word
  mask : DWord
  deriving DecidableEq, Repr

/-- The six outstanding-operation counters (01 R36). -/
structure Counters where
  ld : BitVec 6
  st : BitVec 6
  cp : BitVec 6
  tl : BitVec 6
  xr : BitVec 6
  nm : BitVec 6
  deriving DecidableEq, Repr

/-- A deferred load fault (06 R427). -/
structure LoadFault where
  slots : DWord
  addr : DWord
  reg : Nat
  count : Nat
  deriving DecidableEq, Repr

/-- A deferred remote fault (06 R192). -/
structure RemoteFault where
  cause : Cause
  slots : DWord
  target : DWord
  deriving DecidableEq, Repr

/-- A wave (01). `slot` is its wave slot on the core; `workId` is the work identifier of its slot 0. A register that
is not listed, or a slot of one, is zero; a tag that is not listed is 0x00. `fresh` gives the cycle from which a
dependent instruction may issue (04 R94). `heard` gives, for a slot that has acquired stores of its group that were not yet
in L2, the progress at which it last did (09 R261, R262). `adopted` tells that the handler at work serves a deferred fault
none of whose slots lie in the fragment that took it (assumption log 23). -/
structure Wave where
  slot : Nat
  workId : DWord
  live : DWord
  exited : DWord
  regs : Tab (Tab Word)
  tags : Tab Byte
  mode : Word
  stat : Word
  ctr : Counters
  split : Tab Entry
  loops : List LoopEnt
  nextLoop : Nat
  priv : Bool
  tpc : DWord
  tmask : DWord
  tcause : Word
  taddr : DWord
  tstat : Word
  efr : Option LoadFault
  dfr : Option RemoteFault
  heldSince : Option Nat
  lastEntry : Nat
  fresh : Tab Nat
  heard : Tab Nat := []
  adopted : Bool := false
  deriving DecidableEq, Repr

/-! ## Cores -/

/-- A tag-table entry (06 R174). -/
structure TagEnt where
  valid : Bool
  pinned : Bool
  dirty : Bool
  owner : Nat
  va : DWord
  deriving DecidableEq, Repr

/-- The translation of a 64 KiB page (10 R282, R287): the page's PA, tier, placement and permissions. -/
structure Xlat where
  frame : Nat
  tier : Nat
  bl : Bool
  w : Bool
  x : Bool
  sup : Bool
  deriving DecidableEq, Repr

/-- A line of the read-only partition (06 R169): its bytes as loads find them, each 16-byte unit of one moment (06 R164), its
bytes as fetches find them, each word of one moment (03 R74), and which units were poisoned at the fill. -/
structure RoLine where
  bytes : List Byte
  code : List Byte
  poison : List Bool
  deriving DecidableEq, Repr

/-- A floor under the values the read-only partition may return: addresses [lo, hi) of a context read as they were at
place `since` of the device's past, or later (06 R170; 10 R297). -/
structure RoFloor where
  ctx : Nat
  lo : Nat
  hi : Nat
  since : Nat
  deriving DecidableEq, Repr

/-- An entry of a tracking list (06 R184). -/
structure Track where
  ctx : Nat
  object : DWord
  phase : Word
  count : Nat
  deriving DecidableEq, Repr

/-- A weight slot (07 R199, R203): the payload in its held encoding. -/
structure WSlot where
  tag : Byte
  scale : Byte
  poison : Bool
  enc : Nat
  k : Nat
  payload : List Byte
  deriving DecidableEq, Repr

/-- An accumulator (07 R199); an element that is not listed is zero. Element (i, n) has key 64 i + n. -/
structure Accum where
  elems : Tab (BitVec 80)
  scale : Byte
  act : Byte
  poison : Bool
  deriving DecidableEq, Repr

/-- A row operand of the matrix side: the thread slot and the scratchpad byte address of the row (07 R208). -/
structure RowAt where
  slot : Nat
  key : Nat
  deriving DecidableEq, Repr

/-- What an entry of the matrix queue does (07 R200). Memory operands are resolved at issue, one cell key for each
16-byte unit; a weight image's header is read at issue. -/
inductive MWork where
  | wbld (tile : Nat) (header : List Byte) (bad : Bool) (keys : List Nat)
  | wbz (tile : Nat)
  | mma (acc : Nat) (tile : Nat) (fmt : Byte) (rows : List RowAt)
  | accz (acc : Nat) (rows : DWord)
  | accsv (acc : Nat) (keys : List Nat)
  | accrs (acc : Nat) (keys : List Nat)
  | tdrain (acc : Nat) (fmt : Byte) (mode : Word) (rows : List RowAt)
  | tscale (sel : Nat) (tile : Nat) (value : Byte)
  deriving DecidableEq, Repr

/-- An entry of the matrix queue, counted by outstanding operation `op`. -/
structure MEntry where
  gid : Nat
  wave : Nat
  ctx : Nat
  op : Nat
  work : MWork
  deriving DecidableEq, Repr

/-- A matrix side (07 R198, R199). `discard` tells that the holder has been terminated and results are discarded. -/
structure Matrix where
  holder : Option Nat
  slots : Tab WSlot
  accs : Tab Accum
  hists : Tab (Tab Word)
  queue : List MEntry
  discard : Bool
  deriving DecidableEq, Repr

/-- A tile slot noted for a group, as saved (11 R324): its VA, whether it was dirty, and then its bytes that are not zero
by offset. -/
structure SavedTile where
  va : DWord
  dirty : Bool
  cells : Tab Byte
  deriving DecidableEq, Repr

/-- What a save takes from the core of a group (11 R321): the bytes of its region that are not zero by offset, its noted
tile slots, and the matrix side if it holds it. -/
structure Image where
  cells : Tab Byte
  tiles : List SavedTile
  mat : Option Matrix
  deriving DecidableEq, Repr

/-- A group on a core, or saved (11 R318, R320). `base` and `size` are its region in slots of 4 KiB; `notes` the
scratchpad slots whose pins the ladle set for it (11 R316); `written` the region units written since launch; `gone`
the gang members it knows to be withdrawn; `left` the members that have detached or ended; `image` what a save took from
its core; `bound` the core a restored group waits on for slots of its tiles, `image` then holding those still to be placed
(11 R324). -/
structure Group where
  ctx : Nat
  serial : Nat
  unit : Nat
  member : Nat
  core : Nat
  base : Nat
  size : Nat
  regs : Nat
  waves : Tab Wave
  notes : List Nat
  written : List Nat
  attached : Bool
  present : Bool
  held : Bool
  gone : List Nat
  left : List Nat
  saving : Bool
  image : Option Image
  bound : Option Nat
  deriving DecidableEq, Repr

/-- A kept operand of the hold latch (01 R31): whose register it is, and how many instructions of that wave it still
serves. -/
structure Latch where
  gid : Nat
  wave : Nat
  reg : Nat
  left : Nat
  deriving DecidableEq, Repr

/-- A lane block: the cycle its occupancy ends (01 R14), the wave slot that issued last (01 R18), the hold latch. -/
structure Block where
  busy : Nat
  last : Nat
  latch : List Latch
  deriving DecidableEq, Repr

/-- A request slot in use (06 R190): target device, slot number, the outstanding operation and its packet, the
strait it travelled on. -/
structure ReqSlot where
  dev : Nat
  slot : Nat
  op : Nat
  pkt : Nat
  strait : Nat
  deriving DecidableEq, Repr

/-- A core. `waitQ` lists the packets (operation, packet) still to be sent; `pairs` is its pairing table of exchange
halves (13 R355). `sreg` and `sscr` are its split in units of 64 KiB (10 R288). `drained` tells that it is draining or under
assay and takes no group (11 R325); `seen` lists the contexts that had a group on it since its last pass (14 R376);
`user` is the launch that used it last (01 R45); `freeFor` the launch it was pre-empted for (11 R319). `decodeAt` and `decodes` are the last cycle in which its decoders issued and
how many instructions they issued in it (01 R14). The read-only partition returns no value older than place `roSince` of
the device's past, or than a floor of `roFloors`; `roFence` is the number the next operation had at the last fence.ro
(03 R74; 06 R170; 09 R273). -/
structure Core where
  sreg : Nat
  sscr : Nat
  tags : Tab TagEnt
  ro : Tab RoLine
  tlb : Tab Xlat
  track : List Track
  reqs : List ReqSlot
  waitQ : List (Nat × Nat)
  pairs : List Packet
  mat : Matrix
  blocks : Tab Block
  drained : Bool
  assay : Option Nat
  early : Bool
  seen : List Nat
  user : Option Nat
  freeFor : Option Nat
  decodeAt : Nat
  decodes : Nat
  roSince : Nat
  roFloors : List RoFloor
  roFence : Nat
  deriving DecidableEq, Repr

/-! ## Launches and contexts -/

/-- A launch header (11 R303). `reserved` tells that some reserved field was nonzero. -/
structure Header where
  entry : DWord
  args : DWord
  regs : Nat
  sreg : Nat
  sscr : Nat
  scr : Nat
  tiles : Bool
  prio : Nat
  w : List Nat
  gm : Nat
  gdev : Nat
  gstr : Nat
  count : Nat
  gid : Nat
  tmo : Nat
  isles : Nat
  cores : Nat
  wait : BitVec 256
  set : BitVec 256
  reserved : Bool
  deriving DecidableEq, Repr

/-- A job card (11 R313) without its header. -/
structure Card where
  recs : DWord
  count : Nat
  stride : Nat
  deriving DecidableEq, Repr

/-- Records of a card bound to a core, the record whose tiles are being placed first (11 R315, R316), each with its tile
VAs as read when the chunk was formed. `tile` counts the tiles in place for it, `filled` and `noted` the slots the ladle
filled and pinned for it so far. -/
structure Chunk where
  core : Nat
  recs : List (Nat × List DWord)
  tile : Nat
  filled : List Nat
  noted : List Nat
  deriving DecidableEq, Repr

/-- A launch in a queue (11 R307 to R309, R315, R317). `va` is the address named at enqueue; `next` the lowest unit not
yet started; `ready` the member devices whose ready message for a unit has come; `blocked` the tick since which no
group could be placed (11 R319); `plan` the reservation of a gang that waits for its go: the unit, and the core of each
member this device runs. -/
structure Launch where
  hdr : Header
  va : DWord
  card : Option Card
  eligible : Bool
  next : Nat
  chunks : List Chunk
  first : Option Nat
  ended : Bool
  ready : Tab (List Nat)
  plan : Option (Nat × List (Nat × Nat))
  blocked : Option Nat
  deriving DecidableEq, Repr

/-- A context (11 R306 to R308; 13 R364; 14 R369). -/
structure Context where
  en : Bool
  stop : Bool
  sup : DWord
  saveBase : DWord
  saveSize : Word
  lqres : Word
  frbase : DWord
  harra : DWord
  events : BitVec 256
  launches : Tab Launch
  lastPlaced : Option Nat
  saved : Nat
  deriving DecidableEq, Repr

/-! ## Dies and hbm -/

/-- A registered region (10 R299; 07 R221). `frames` resolves each 64 KiB page: the PA of its tier-0 frame, plus 1 when it
is placed bank-local. -/
structure Region where
  ctx : Nat
  va : DWord
  bytes : Nat
  kind : Nat
  layout : Word
  stack : Nat
  pch : Nat
  sid : Nat
  rowBase : Nat
  frames : List Nat
  deriving DecidableEq, Repr

/-- A registered index (12 R335, R336), its pages resolved as those of a region. -/
structure Index where
  ctx : Nat
  va : DWord
  descKey : Nat
  etype : Byte
  kind : Nat
  dim : Nat
  degree : Nat
  home : Nat
  slots : Nat
  vectors : DWord
  vecFrames : List Nat
  metaVa : DWord
  metaFrames : List Nat
  adj : DWord
  adjFrames : List Nat
  published : Word
  floor : Word
  deriving DecidableEq, Repr

/-- The hotness sampler of a die (10 R301, R302). -/
structure Sampler where
  ctl : Word
  base : DWord
  lgsize : Word
  wr : Word
  rd : Word
  drop : Word
  count : Nat
  deriving DecidableEq, Repr

/-- A line that is dirty in its L2 slice, with its owner tag (10 R291) and the way of its set that holds it (10 R290). A
clean line has no state of its own: it holds what memory holds, and its owner tag has no meaning. -/
structure Line where
  owner : Nat
  way : Nat
  deriving DecidableEq, Repr

/-- What a write past L2 replaced: the bytes from a key upward, as they were (09 R273). -/
structure PastWrite where
  key : Nat
  bytes : List Byte
  deriving DecidableEq, Repr

/-- A release at wave or group scope whose store is in L2 (09 R265, R266): the operation, the core, group and wave that
made it, and the progress at which its group came to see it. -/
structure NarrowRel where
  op : Nat
  core : Nat
  gid : Nat
  wave : Nat
  scope : Nat
  seen : Nat
  deriving DecidableEq, Repr

/-- The quarantine register of a slice (14 R372). `held` tells that a quarantine's write-back is under way. -/
structure QWay where
  ways : BitVec 16
  corr : BitVec 16
  held : Bool
  deriving DecidableEq, Repr

/-- A window of tier-0 memory the host may reach (14 R385). -/
structure HostWin where
  base : Word
  limit : Word
  r : Bool
  w : Bool
  deriving DecidableEq, Repr

/-- The power registers of a die (14 R379, R380). -/
structure Power where
  req : Nat
  cur : Nat
  mduty : Nat
  cap : Nat
  blPwr : Nat
  blTemp : Nat
  blEn : Bool
  dstep : Nat
  bstep : Nat
  dmin : Nat
  dwell : Nat
  above : Bool
  hot : Bool
  stepped : Bool
  steps : Nat
  temp : Word
  run : Nat
  deriving DecidableEq, Repr

/-- A compute die. `retired` lists retired frames with the placement they were named under (14 R371). -/
structure Die where
  troot : Tab DWord
  tpool : Tab DWord
  rdev : Tab (BitVec 512)
  hostWin : Tab HostWin
  tlb : Tab Xlat
  smp : Sampler
  retired : List (Nat × Bool)
  lines : Tab Line
  qway : Tab QWay
  wayErrs : Tab (List Nat)
  regions : List Region
  indexes : List Index
  asyfail : BitVec 288
  cxlDown : List Nat
  power : Power
  deriving DecidableEq, Repr

/-- A task queue (12 R345). -/
structure Queue where
  en : Bool
  ctx : Nat
  lgsize : Nat
  base : DWord
  head : Word
  tail : Word
  deriving DecidableEq, Repr

/-- A corrected error in a fault map (14 R373). -/
structure MapErr where
  cell : HbmCell
  time : Nat
  deriving DecidableEq, Repr

/-- The repair register of a stack (14 R374). `busy` is the class of a repair under way. -/
structure Repair where
  pend : Option (Nat × HbmCell)
  last : Nat
  busy : Option (Nat × HbmCell)
  deriving DecidableEq, Repr

/-- A stack with its base die. `spares` counts the spare banks used in each stack ID; `moved` the retired banks. -/
structure Stack where
  bact : Nat
  stopped : Bool
  queues : Tab Queue
  faultMap : List MapErr
  repair : Repair
  spares : Tab Nat
  moved : List (Nat × Nat × Nat)
  deriving DecidableEq, Repr

/-! ## Bank engines, commands and walkers -/

/-- A bank launch accepted by nmx (08 R243 to R245). `argKeys` and `rowKeys` are resolved at acceptance: one cell key for
each word of the argument block, one for each 128-byte line of the result rows. -/
structure BankLaunch where
  ctx : Nat
  op : Nat
  recKey : Nat
  start : Nat
  mode : Word
  regVa : DWord
  rowBase : Nat
  sid : Nat
  args : DWord
  argKeys : List Nat
  rowKeys : List Nat
  object : Option (Nat × Word)
  budget : Nat
  deriving DecidableEq, Repr

/-- A loop of a bank program (08 R226). -/
structure BankLoop where
  start : Nat
  stop : Nat
  count : Word
  deriving DecidableEq, Repr

/-- A running bank program (08 R225 to R233). Lanes and registers that are not listed are zero. `code` is the microprogram
bank that was active when it started, which it fetches from (08 R241). -/
structure BankProg where
  launch : BankLaunch
  code : Nat
  regs : Tab (Tab Word)
  tags : Tab Byte
  mask : BitVec 128
  masks : List (BitVec 128 × BitVec 128)
  loops : List BankLoop
  allBank : Bool
  bank : Nat
  row : Option Nat
  flags : BitVec 5
  pc : Nat
  count : Nat
  deriving DecidableEq, Repr

/-- A bank engine (08 R239 to R242). `store` holds word w of bank k at key 512 k + w. -/
structure Engine where
  store : Tab Word
  active : Nat
  queue : List BankLaunch
  prog : Option BankProg
  busywr : Bool
  code : Byte
  endPc : Nat
  deriving DecidableEq, Repr

/-- A search command (12 R340, R341), as copied at acceptance, with its buffers resolved; before acceptance only its
place is meant. `want` is the kind of the instruction that submitted it, `answer` what its fragment will be told. `queryBad`
is the first poisoned address of the query, `imageBad` lists the poisoned words of the image; `poisonMet` tells that a
poisoned word or vector has been read, which one record has named (08 R228; 12 R341). -/
structure Command where
  ctx : Nat
  priv : Bool
  want : Nat
  answer : Option Word
  kind : Nat
  topk : Bool
  pop : Nat
  k : Nat
  index : Option DWord
  region : Option DWord
  die : Nat
  stack : Nat
  query : List Byte
  queryBad : Option DWord
  out : DWord
  outKeys : List Nat
  cmdKey : Nat
  object : Option (Nat × Word)
  first : Nat
  limit : Nat
  recsz : Nat
  foff : Nat
  ftag : Byte
  opA : Word
  opB : Word
  cap : Nat
  budget : Nat
  image : List Word
  imageVa : DWord
  imageBad : List Nat
  mode : Word
  snapshot : Word
  walkers : Nat
  accepted : Bool
  heap : List Item
  code : Byte
  ended : Nat
  ran : Nat
  poisonMet : Bool
  deriving DecidableEq, Repr

/-- Where a walker is: at work on a stack, or in a ferry message to one (12 R343, R344). -/
inductive WalkerAt where
  | running (stack : Nat)
  | ferried (stack : Nat)
  deriving DecidableEq, Repr

/-- A walker (08 R227). -/
structure Walker where
  cmd : Nat
  place : WalkerAt
  regs : Tab Word
  tags : Tab Byte
  flags : BitVec 5
  pc : Nat
  deriving DecidableEq, Repr

/-! ## Outstanding operations -/

/-- The access of one thread slot: its address, its cell key, the data it stores or compares, whether it is performed
(`done`), and whether it is performed inside its group alone (`grp`, 09 R265). `seen` is the progress at which its group
came to see it; the stores its group had seen by progress `heed` happen before it (09 R261, R262); `arrived` is the
reference tick at which a load found its row empty at the memory controller (06 R166). -/
structure SlotAcc where
  slot : Nat
  va : DWord
  key : Nat
  data : BitVec 128
  cmp : BitVec 128
  done : Bool
  grp : Bool
  seen : Nat := 0
  heed : Nat := 0
  arrived : Option Nat := none
  deriving DecidableEq, Repr

/-- The operation of an atomic (06 R176, R191). -/
inductive AtomOp where
  | add | min (signed : Bool) | max (signed : Bool) | and | or | xor | xch | cas
  deriving DecidableEq, Repr

/-- A packet of an X instruction: its content and the thread slot of each entry; whether its request slot is freed
again because its response has come, or, for half of an exchange, whether it is to be sent again (13 R355). -/
structure XPart where
  pkt : Packet
  slots : List Nat
  answered : Bool
  deriving DecidableEq, Repr

/-- One side of a copy: in a scratchpad or not, and its 16-byte units, each with its address and its cell key. -/
structure CopyEnd where
  scratch : Bool
  units : List (Nat × Nat)
  deriving DecidableEq, Repr

/-- What an outstanding operation does (01 R36; 06 R161). -/
inductive OpKind where
  /-- A generic or acquire load of `width` bytes into `d`, sign-extended or not. -/
  | load (d : Reg) (width : Nat) (signed : Bool) (acq : Bool)
  /-- A read-only load (06 R169). -/
  | readOnly (d : Reg) (width : Nat)
  /-- A scratchpad load (06 R173). -/
  | scratchLoad (d : Reg) (width : Nat)
  /-- A generic or release store. -/
  | store (width : Nat) (rel : Bool)
  /-- A scratchpad store. -/
  | scratchStore (width : Nat)
  /-- An atomic; d = 0 returns nothing. -/
  | atomic (d : Reg) (width : Nat) (f : AtomOp)
  /-- A baro.arr on its way to its object (06 R184). -/
  | arrive (object : DWord) (key : Nat)
  /-- An X instruction (06 R189 to R191): destination and width in words, and its packets. -/
  | remote (d : Reg) (words : Nat) (parts : List XPart)
  /-- Half of an exchange (06 R196): partner member, key, deadline in reference ticks, participating slots. -/
  | exchange (d : Reg) (part : XPart) (partner : Nat) (key : BitVec 16) (deadline : Nat)
  /-- An entry of the matrix queue (07 R200). -/
  | tile
  /-- A copy of rows of `row` units (07 R217). -/
  | copy (row : Nat) (src dst : CopyEnd)
  /-- A fill (07 R217). -/
  | fill (pattern : Word) (dst : CopyEnd)
  /-- cprt (07 R221): the shape record's bytes and its cell key, the source address, and the cell key of each 128-byte
  line of the source by line number. -/
  | layout (shape : List Byte) (key : Nat) (from' : DWord) (src : List (Nat × Nat))
  /-- nmld (08 R240): engine, bank, first word, the cell keys of the words. -/
  | program (engine bank first : Nat) (keys : List Nat)
  /-- A bank launch on an engine (08 R243). -/
  | bank (engine : Nat)
  /-- A search command (08 R247). -/
  | search
  /-- tkmerge (08 R250): cell keys of the 16-byte units of the two inputs and of the output, with D's k. -/
  | merge (a b d : List Nat) (k : Nat)
  /-- xred (08 R251). -/
  | reduce (list : MergeList)
  deriving DecidableEq, Repr

/-- The counter an operation is counted on (01 R36). -/
inductive CtrKind where
  | ld | st | cp | tl | xr | nm
  deriving DecidableEq, Repr

/-- An outstanding operation of wave `wave` of group `gid`. The accesses of an engine operation are the pages it was
translated for at issue, in the name of slot u. `ctr` is the counter that still counts it; `scope`,
`promote` and `tmo` are MODE's when it issued, `issued` the reference tick. `void` tells that its group has been terminated:
it completes, and its results are discarded (11 R326). -/
structure Op where
  gid : Nat
  wave : Nat
  ctx : Nat
  serial : Nat
  core : Nat
  ctr : Option CtrKind
  kind : OpKind
  accs : List SlotAcc
  scope : Nat
  promote : Bool
  issued : Nat
  tmo : Nat
  void : Bool := false
  deriving DecidableEq, Repr

/-! ## Fabric and platform -/

/-- A link report (14 R386). -/
structure Report where
  width : Nat
  height : Nat
  lane : Nat
  fecc : Nat
  fecu : Nat
  replays : Nat
  retrains : Nat
  down : Bool
  alert : Bool
  slope : Int
  thr : Nat
  hor : Nat
  period : Nat
  deriving DecidableEq, Repr

/-- A strait port of the device (13 R350 to R352): the next sequence number sent and expected, the replay buffer, the
payloads that wait for room in it, the consecutive replays of its first flit, the consecutive replays it has asked for of the
flit it expects, since when it retrains, whether it is down, whether a replay it asked for is due, and the flits it put on
the wire last. -/
structure Port where
  txSeq : Nat
  rxSeq : Nat
  replay : List (List Byte)
  queued : List (List Byte)
  tries : Nat
  asked : Nat
  retraining : Option Nat
  down : Bool
  nak : Bool
  wire : List (List Byte)
  deriving DecidableEq, Repr

/-- A merge of a crucible (13 R362). -/
structure Merge where
  mergeId : Word
  root : DWord
  object : DWord
  ctx : Nat
  k : Nat
  parts : Nat
  arrived : Nat
  disagree : Bool
  invalid : Bool
  phase : Option Word
  items : List Item
  deadline : Nat
  deriving DecidableEq, Repr

/-- A strait switch with its crucible (13 R358, R359, R361). `markers0` and `markers1` are the input ports whose drain
marker of that generation has come. -/
structure Switch where
  rt0 : Tab Word
  rt1 : Tab Word
  retired : BitVec 2
  busywr : Bool
  markers0 : List Nat
  markers1 : List Nat
  downPorts : List Nat
  merges : List Merge
  done : List (Word × DWord × Nat)
  deriving DecidableEq, Repr

/-- The telemetry of a rail (14 R378), with the power of its last samples, newest first. -/
structure Rail where
  mv : Nat
  ma : Nat
  mw : Nat
  uj : Nat
  last : List Nat
  deriving DecidableEq, Repr

/-- What a CXL.mem access of the host was answered with (13 R363; 14 R368, R381, R385): whether it completed with an error,
the bytes read, and for each 16-byte unit of them whether it is poisoned. -/
structure HostAnswer where
  error : Bool
  bytes : List Byte
  poison : List Bool
  deriving DecidableEq, Repr

/-- The device registers (14 R381 to R384; 13 R358). `enabledOnce` tells that some context has been enabled, which
locks DEVNUM; `fwBytes` is the firmware window; `images` the images accepted so far, in load order; `nextSample` is the tick
of the next telemetry sample; `answer` is the answer to the host's last CXL.mem access. -/
structure Device where
  stage : Nat
  err : Nat
  hostvio : Bool
  pkgover : Bool
  frlost : Nat
  nextSample : Nat
  devnum : Nat
  enabledOnce : Bool
  asyper : Nat
  pkgcap : Nat
  idBusy : Bool
  idChal : BitVec 256
  idResp : List Byte
  fwBytes : Tab Byte
  images : List (List Byte)
  fabGen : Bool
  fabPend : Bool
  fabBusy : Bool
  egt0 : Tab Word
  egt1 : Tab Word
  answer : Option HostAnswer
  deriving DecidableEq, Repr

/-- The assay rotation of an isle (11 R325): the core it drains next, and the tick it drained the last. -/
structure Rotation where
  next : Nat
  last : Nat
  deriving DecidableEq, Repr

/-- The unit exec runs an instruction for. -/
inductive Issuer where
  | none
  | wave (gid wave ent : Nat)
  | bank (engine : Nat)
  | walker (id : Nat)
  deriving DecidableEq, Repr

/-- An uncorrectable error in a structure of a core or a base die (14 R367): a register word of a slot; a word of a
scratchpad slot or of its tag-table entry; the split table, loop stack, MODE, STAT or counters of a wave; an accumulator
element; a weight slot; the copy, heap or walkers of a command; or a unit that an expander or the host die reports as
poisoned when it is read (13 R365; 14 R368). -/
inductive Upset where
  | register (gid wave slot : Nat)
  | scratch (core slot word : Nat)
  | control (gid wave : Nat)
  | accumulator (core acc : Nat)
  | weights (core tile : Nat)
  | command (op : Nat)
  | outside (key : Nat)
  deriving DecidableEq, Repr

/-- What a message about a gang says: a device is ready (11 R317); the home's go, or with `bad` that the copies differ; the
members of the unit are saved (11 R319); a member has detached or ended, or with `withdrawn` its window is gone (06 R193). -/
inductive GangWord where
  | ready (r : GangReady)
  | go (bad : Bool)
  | save
  | left (member : Nat) (withdrawn : Bool)
  deriving DecidableEq, Repr

/-- A message about a unit of a gang on its way to device `dev`; `gid` is the gang launch's ID (11 R317); `due` is the tick
by which it arrives, which the notice of a withdrawal has (06 R193). -/
structure GangMail where
  dev : Nat
  ctx : Nat
  gid : Nat
  unit : Nat
  what : GangWord
  due : Option Nat
  deriving DecidableEq, Repr

/-- Whose turn it is (the model's own; assumption log 1): the next fragment of a lane block by 01 R18; a second
fragment of that wave, in entry `ent`, in the same beats (01 R20); an event; a bank engine or a walker; the clock moves; a
line of a read-only partition or a translation is dropped, or a dirty line is written back; a line of a read-only partition
is filled, each of its words for fetches, and each of its 16-byte units for loads, as it was at a place of the device's past
(03 R74; 06 R164; 09 R273); an error is met; a packet leaves its
switch for another device; a strait port sends an idle flit; a message about a gang reaches another device. -/
inductive Turn where
  | issue (core block : Nat)
  | coissue (core block ent : Nat)
  | event (i : Instr) (about : Particulars)
  | bank (engine : Nat)
  | walker (id : Nat)
  | clock (cycles : Nat)
  | evictRo (core line : Nat)
  | fillRo (core ctx : Nat) (va : DWord) (words units : List Nat)
  | writeBack (die line : Nat)
  | evictCoreTlb (core key : Nat)
  | evictDieTlb (die key : Nat)
  | upset (u : Upset)
  | forward (p : Packet)
  | idle (port : Nat)
  | deliver (m : GangMail)
  deriving DecidableEq, Repr

/-- The state of a device. `cycle` counts core cycles since reset; a reference tick is seven (00 R3). `mem` holds
every byte that differs from zero: key space × 2^48 + cell, spaces 0 to 3 tier 0 of a die (cells in the bank-local
numbering of 10 R285), 4 to 7 tier 1, 8 host memory, 16 + c the scratchpad of core c. `poison` lists the poisoned 16-byte units by key div 16 (14 R368); `empty` the lines of
the empty result rows by key div 128, with their context (12 R331); `narrow` the bytes whose latest stores in
L2 belong to the release sequence of narrow releases (09 R262, R266); `past` what each write past L2 replaced, newest first
(09 R273); `mail` the messages about gangs on their way to other devices (06 R193; 11 R317, R319). -/
structure State where
  cycle : Nat
  cur : Issuer
  about : Particulars
  view : Option Wave
  schedule : List Turn
  progress : Nat
  nextOp : Nat
  nextGroup : Nat
  nextSerial : Nat
  groups : Tab Group
  saved : Tab Group
  cores : Tab Core
  contexts : Tab Context
  dies : Tab Die
  hbm : Tab Stack
  engines : Tab Engine
  commands : Tab Command
  walkers : Tab Walker
  ops : Tab Op
  mem : Tab Byte
  poison : Tab Unit
  empty : Tab Nat
  narrow : Tab (List NarrowRel)
  past : List PastWrite
  net : List Packet
  mail : List GangMail
  ports : Tab Port
  switches : Tab Switch
  reports : Tab Report
  rails : Tab Rail
  isles : Tab Rotation
  lastServed : Tab Nat
  msix : Tab Nat
  dev : Device
  deriving DecidableEq, Repr

/-! ## Reset -/

/-- No counter counts anything (01 R44). -/
def Counters.zero : Counters := { ld := 0, st := 0, cp := 0, tl := 0, xr := 0, nm := 0 }

/-- An empty matrix side (01 R45; 07 R199). -/
def Matrix.empty : Matrix := { holder := none, slots := [], accs := [], hists := [], queue := [], discard := false }

/-- A core no launch has used: split 128 KiB and 0 (assumption log 6), everything empty. -/
def Core.reset : Core :=
  { sreg := 2, sscr := 0, tags := [], ro := [], tlb := [], track := [], reqs := [], waitQ := [], pairs := [],
    mat := Matrix.empty, blocks := [], drained := false, assay := none, early := false, seen := [], user := none, freeFor := none,
    decodeAt := 0, decodes := 0, roSince := 0, roFloors := [], roFence := 0 }

/-- A lane block that is free; the wave slot before slot 0 is 15 (assumption log 7). -/
def Block.reset : Block := { busy := 0, last := 15, latch := [] }

/-- The reset values of 11 R306; FRBASE and E are zero (assumption log 6). -/
def Context.reset : Context :=
  { en := false, stop := false, sup := 0, saveBase := 0, saveSize := 0, lqres := 0, frbase := 0, harra := 0,
    events := 0, launches := [], lastPlaced := none, saved := 0 }

/-- 10 R301. -/
def Sampler.reset : Sampler :=
  { ctl := 0x10, base := 0, lgsize := 4, wr := 0, rd := 0, drop := 0, count := 0 }

/-- 14 R379. -/
def Power.reset : Power :=
  { req := 0, cur := 0, mduty := 64, cap := 1000, blPwr := 0, blTemp := 0, blEn := false, dstep := 8, bstep := 4,
    dmin := 16, dwell := 5, above := false, hot := false, stepped := false, steps := 0, temp := 0, run := 0 }

/-- A die with every table empty (10 R280, R301; 14 R371, R372, R376, R379, R385). -/
def Die.reset : Die :=
  { troot := [], tpool := [], rdev := [], hostWin := [], tlb := [], smp := Sampler.reset, retired := [], lines := [],
    qway := [], wayErrs := [], regions := [], indexes := [], asyfail := 0, cxlDown := [], power := Power.reset }

/-- 12 R345. -/
def Queue.reset : Queue := { en := false, ctx := 0, lgsize := 4, base := 0, head := 0, tail := 0 }

/-- 12 R329, 14 R373, R374; the control processor runs (assumption log 6). -/
def Stack.reset : Stack :=
  { bact := 16, stopped := false, queues := [], faultMap := [], repair := { pend := none, last := 0, busy := none },
    spares := [], moved := [] }

/-- 12 R327: both microprogram banks all zero; active bank 0 and code 0 (assumption log 6). -/
def Engine.reset : Engine :=
  { store := [], active := 0, queue := [], prog := none, busywr := false, code := 0, endPc := 0 }

/-- A port that has sent and received nothing. -/
def Port.reset : Port :=
  { txSeq := 0, rxSeq := 0, replay := [], queued := [], tries := 0, asked := 0, retraining := none, down := false,
    nak := false, wire := [] }

/-- 13 R358: identity routes, generation 1 retired, as SWSTAT's 0b10 says. -/
def Switch.reset : Switch :=
  { rt0 := [], rt1 := [], retired := 0b10, busywr := false, markers0 := [], markers1 := [], downPorts := [],
    merges := [], done := [] }

/-- 14 R386. -/
def Report.reset : Report :=
  { width := 0, height := 0, lane := 0, fecc := 0, fecu := 0, replays := 0, retrains := 0, down := false,
    alert := false, slope := 0, thr := 150, hor := 16, period := 0 }

/-- 14 R378. -/
def Rail.reset : Rail := { mv := 0, ma := 0, mw := 0, uj := 0, last := [] }

/-- 13 R358; 14 R379, R381, R384. -/
def Device.reset : Device :=
  { stage := 0, err := 0, hostvio := false, pkgover := false, frlost := 0, nextSample := 1000, devnum := 0, enabledOnce := false,
    asyper := 1200000, pkgcap := 4000, idBusy := false, idChal := 0, idResp := [], fwBytes := [], images := [],
    fabGen := false, fabPend := false, fabBusy := false, egt0 := [], egt1 := [], answer := none }

/-- The device right after reset (14 R381): stage 0, nothing placed, nothing outstanding, memory with nothing listed. -/
def State.reset : State :=
  { cycle := 0, cur := .none, about := {}, view := none, schedule := [], progress := 0, nextOp := 0, nextGroup := 0,
    nextSerial := 0, groups := [], saved := [], cores := [], contexts := [], dies := [], hbm := [], engines := [],
    commands := [], walkers := [], ops := [], mem := [], poison := [], empty := [], narrow := [], past := [],
    net := [], mail := [], ports := [], switches := [], reports := [], rails := [], isles := [], lastServed := [], msix := [],
    dev := Device.reset }

end Sys2Proof.Machine
end

