-- ==== Sys2Proof/Machine/Access.lean ====
section
/-! DEFINITION. Reading and replacing the parts of the state, the fields of MODE and of cr.TSTAT, and sets of thread
slots. -/

namespace Sys2Proof.Machine

/-! ## Parts of the state -/

/-- The reference tick (00 R3). -/
def State.tick (s : State) : Nat := s.cycle / 7
/-- A core. -/
def State.core (s : State) (c : Nat) : Core := s.cores.lookD c Core.reset
/-- A core replaced. -/
def State.setCore (s : State) (c : Nat) (x : Core) : State := { s with cores := s.cores.put c x }
/-- A core changed. -/
def State.onCore (s : State) (c : Nat) (f : Core → Core) : State := s.setCore c (f (s.core c))
/-- A context. -/
def State.context (s : State) (c : Nat) : Context := s.contexts.lookD c Context.reset
/-- A context replaced. -/
def State.setContext (s : State) (c : Nat) (x : Context) : State := { s with contexts := s.contexts.put c x }
/-- A context changed. -/
def State.onContext (s : State) (c : Nat) (f : Context → Context) : State := s.setContext c (f (s.context c))
/-- A die. -/
def State.die (s : State) (d : Nat) : Die := s.dies.lookD d Die.reset
/-- A die replaced. -/
def State.setDie (s : State) (d : Nat) (x : Die) : State := { s with dies := s.dies.put d x }
/-- A die changed. -/
def State.onDie (s : State) (d : Nat) (f : Die → Die) : State := s.setDie d (f (s.die d))
/-- A stack. -/
def State.stack (s : State) (k : Nat) : Stack := s.hbm.lookD k Stack.reset
/-- A stack replaced. -/
def State.setStack (s : State) (k : Nat) (x : Stack) : State := { s with hbm := s.hbm.put k x }
/-- A stack changed. -/
def State.onStack (s : State) (k : Nat) (f : Stack → Stack) : State := s.setStack k (f (s.stack k))
/-- A bank engine. -/
def State.engine (s : State) (e : Nat) : Engine := s.engines.lookD e Engine.reset
/-- A bank engine replaced. -/
def State.setEngine (s : State) (e : Nat) (x : Engine) : State := { s with engines := s.engines.put e x }
/-- A strait port. -/
def State.port (s : State) (p : Nat) : Port := s.ports.lookD p Port.reset
/-- A strait port replaced. -/
def State.setPort (s : State) (p : Nat) (x : Port) : State := { s with ports := s.ports.put p x }
/-- A strait switch. -/
def State.switch (s : State) (k : Nat) : Switch := s.switches.lookD k Switch.reset
/-- A strait switch replaced. -/
def State.setSwitch (s : State) (k : Nat) (x : Switch) : State := { s with switches := s.switches.put k x }
/-- A link report, keyed 0 to 31 strait ports, 32 to 39 CXL links, 40 to 43 UCIe modules (14 R386). -/
def State.report (s : State) (k : Nat) : Report := s.reports.lookD k Report.reset
/-- A link report replaced. -/
def State.setReport (s : State) (k : Nat) (x : Report) : State := { s with reports := s.reports.put k x }
/-- A rail. -/
def State.rail (s : State) (r : Nat) : Rail := s.rails.lookD r Rail.reset
/-- A lane block of a core. -/
def Core.block (c : Core) (b : Nat) : Block := c.blocks.lookD b Block.reset
/-- A lane block of a core changed. -/
def Core.onBlock (c : Core) (b : Nat) (f : Block → Block) : Core := { c with blocks := c.blocks.put b (f (c.block b)) }
/-- A group replaced. -/
def State.setGroup (s : State) (g : Nat) (x : Group) : State := { s with groups := s.groups.put g x }
/-- A wave of a resident group. -/
def State.wave? (s : State) (g w : Nat) : Option Wave := (s.groups.look g).bind (·.waves.look w)
/-- A wave of a group replaced. -/
def Group.setWave (g : Group) (w : Nat) (x : Wave) : Group := { g with waves := g.waves.put w x }
/-- A wave replaced. -/
def State.setWave (s : State) (g w : Nat) (x : Wave) : State :=
  { s with groups := s.groups.change g fun y => y.setWave w x }
/-- A wave of a resident or a saved group changed (01 R48). -/
def State.onWave (s : State) (g w : Nat) (f : Wave → Wave) : State :=
  { s with groups := s.groups.change g fun y => { y with waves := y.waves.change w f }
           saved := s.saved.change g fun y => { y with waves := y.waves.change w f } }
/-- The die of a core (00 R5). -/
def dieOfCore (c : Nat) : Nat := c / 288
/-- The isle of a core, numbered over the device (00 R5). -/
def isleOfCore (c : Nat) : Nat := c / 24
/-- Something has happened that a waiting instruction may be waiting for. -/
def State.moved (s : State) : State := { s with progress := s.progress + 1 }

/-! ## MODE and cr.TSTAT (01 R32, R39) -/

/-- MODE.guard. -/
def modeGuard (m : Word) : Nat := (m.extractLsb' 0 7).toNat
/-- MODE.sense. -/
def modeSense (m : Word) : Bool := m.getLsbD 7
/-- MODE.etype. -/
def modeEtype (m : Word) : Byte := m.extractLsb' 8 8
/-- MODE.rnd. -/
def modeRnd (m : Word) : Nat := (m.extractLsb' 16 3).toNat
/-- MODE.sat. -/
def modeSat (m : Word) : Bool := m.getLsbD 19
/-- MODE.strict. -/
def modeStrict (m : Word) : Bool := m.getLsbD 20
/-- MODE.ftz. -/
def modeFtz (m : Word) : Bool := m.getLsbD 21
/-- MODE.inv_trap. -/
def modeInvTrap (m : Word) : Bool := m.getLsbD 22
/-- MODE.scope. -/
def modeScope (m : Word) : Nat := (m.extractLsb' 24 3).toNat
/-- MODE.promote. -/
def modePromote (m : Word) : Bool := m.getLsbD 27
/-- The time-out of MODE.tmo in reference ticks. -/
def modeTmo (m : Word) : Nat := 2 ^ (10 + (m.extractLsb' 28 4).toNat)
/-- MODE at launch (01 R32, R44). -/
def modeAtLaunch : Word := 0x44002000
/-- cr.TSTAT.nest. -/
def tsNest (t : Word) : Bool := t.getLsbD 0
/-- cr.TSTAT.pp. -/
def tsPp (t : Word) : Bool := t.getLsbD 1
/-- cr.TSTAT.apend. -/
def tsApend (t : Word) : Bool := t.getLsbD 6

/-! ## Slots -/

/-- The slot is in the mask. -/
def inMask (m : DWord) (t : Nat) : Bool := m.getLsbD t
/-- The mask of one slot. -/
def slotBit (t : Nat) : DWord := 1#64 <<< t
/-- The slots of a mask, ascending. -/
def slotsOf (m : DWord) : List Nat := (List.range 64).filter (inMask m)
/-- The mask of a list of slots. -/
def maskOf (ts : List Nat) : DWord := ts.foldl (fun m t => m ||| slotBit t) 0
/-- The slots below 64 for which something holds. -/
def maskWhere (p : Nat → Bool) : DWord := maskOf ((List.range 64).filter p)
/-- The lowest slot of a mask. -/
def lowest (m : DWord) : Option Nat := (List.range 64).find? (inMask m)
/-- The slots that are live and have not exited (01 R23). -/
def Wave.alive (w : Wave) : DWord := w.live &&& ~~~w.exited
/-- STAT as read: DT is 1 while a slot is dead (01 R35). -/
def Wave.statWord (w : Wave) : Word := (w.stat &&& 0x1F) ||| (if w.live = BitVec.allOnes 64 then 0 else 0x100)

/-! ## Registers and tags (01 R25 to R28) -/

/-- A register of a slot; v0 reads zero. -/
def Wave.reg (w : Wave) (n t : Nat) : Word := if n = 0 then 0 else (w.regs.lookD n []).lookD t 0
/-- A pair of a slot; the pair named by v0 reads zero. -/
def Wave.pair (w : Wave) (n t : Nat) : DWord := if n = 0 then 0 else w.reg (n + 1) t ++ w.reg n t
/-- A quad of a slot, first register lowest; the quad named by v0 reads zeros (06 R157). -/
def Wave.quad (w : Wave) (n t : Nat) : BitVec 128 :=
  if n = 0 then 0 else w.reg (n + 3) t ++ w.reg (n + 2) t ++ w.reg (n + 1) t ++ w.reg n t
/-- A register of a slot written; a write to v0 is discarded. -/
def Wave.setReg (w : Wave) (n t : Nat) (x : Word) : Wave :=
  if n = 0 then w else { w with regs := w.regs.write [] n ((w.regs.lookD n []).write 0 t x) }
/-- A column of values over the slots, zeros left out. -/
def column (f : Nat → Word) : Tab Word :=
  (List.range 64).filterMap fun t => if f t = 0 then none else some (t, f t)
/-- A register written in the slots of a mask; other slots keep their values. -/
def Wave.writeCol (w : Wave) (n : Nat) (m : DWord) (f : Nat → Word) : Wave :=
  if n = 0 then w
  else { w with regs := w.regs.write [] n (column fun t => if inMask m t then f t else w.reg n t) }
/-- A pair written in the slots of a mask. -/
def Wave.writePair (w : Wave) (n : Nat) (m : DWord) (f : Nat → DWord) : Wave :=
  if n = 0 then w
  else (w.writeCol n m fun t => (f t).extractLsb' 0 32).writeCol (n + 1) m fun t => (f t).extractLsb' 32 32
/-- A pair of a slot written; a write to the pair named by v0 is discarded in both halves. -/
def Wave.setPair (w : Wave) (n t : Nat) (x : DWord) : Wave :=
  if n = 0 then w else (w.setReg n t (x.extractLsb' 0 32)).setReg (n + 1) t (x.extractLsb' 32 32)
/-- A tag; v0 has U32's (04 R92). -/
def Wave.tag (w : Wave) (n : Nat) : Byte := if n = 0 then 0x11 else w.tags.lookD n 0
/-- A tag written; v0's never changes (04 R91). -/
def Wave.setTag (w : Wave) (n : Nat) (t : Byte) : Wave := if n = 0 then w else { w with tags := w.tags.write 0 n t }
/-- Tags of consecutive registers written. -/
def Wave.setTags (w : Wave) (n k : Nat) (t : Byte) : Wave := (List.range k).foldl (fun w j => w.setTag (n + j) t) w
/-- The tags of a pair result; the pair named by v0 is left alone. -/
def Wave.setPairTag (w : Wave) (n : Nat) (t : Byte) : Wave := if n = 0 then w else w.setTags n 2 t
/-- The tag after RAW substitution (01 R28). -/
def Wave.resolved (w : Wave) (n : Nat) : Byte := if w.tag n = 0 then modeEtype w.mode else w.tag n
/-- The slot passes the guard (01 R34). -/
def Wave.passes (w : Wave) (t : Nat) : Bool :=
  let g := modeGuard w.mode
  g = 0 || ((w.reg g t != 0) != modeSense w.mode)

/-! ## Counters (01 R36) -/

/-- A counter. -/
def Counters.get (c : Counters) : CtrKind → BitVec 6
  | .ld => c.ld | .st => c.st | .cp => c.cp | .tl => c.tl | .xr => c.xr | .nm => c.nm
/-- A counter replaced. -/
def Counters.set (c : Counters) (k : CtrKind) (x : BitVec 6) : Counters :=
  match k with
  | .ld => { c with ld := x } | .st => { c with st := x } | .cp => { c with cp := x }
  | .tl => { c with tl := x } | .xr => { c with xr := x } | .nm => { c with nm := x }
/-- One more. -/
def Wave.count (w : Wave) (k : CtrKind) : Wave := { w with ctr := w.ctr.set k (w.ctr.get k + 1) }
/-- One less; a counter never wraps. -/
def Wave.uncount (w : Wave) (k : CtrKind) : Wave :=
  { w with ctr := w.ctr.set k (if w.ctr.get k = 0 then 0 else w.ctr.get k - 1) }
/-- The counter of a class number (03 R83). -/
def ctrOf (n : Nat) : CtrKind :=
  if n = 0 then .ld else if n = 1 then .st else if n = 2 then .cp else if n = 3 then .tl else if n = 4 then .xr else .nm

/-! ## Causes (01 R40) -/

/-- The code of a cause. -/
def Cause.code : Cause → Nat
  | .ill => 0x01 | .tag => 0x02 | .mode => 0x03 | .align => 0x04 | .page => 0x05 | .prot => 0x06 | .priv => 0x07
  | .cwDeparted => 0x08 | .cwDetached => 0x09 | .pairTimeout => 0x0A | .emptyTimeout => 0x0B | .layout => 0x0C
  | .nmstore => 0x0D | .xpeer => 0x0E | .stack => 0x0F | .double => 0x10 | .fpinv => 0x11
/-- The cause of a code. -/
def causeOf (n : Nat) : Cause :=
  match n with
  | 0x02 => .tag | 0x03 => .mode | 0x04 => .align | 0x05 => .page | 0x06 => .prot | 0x07 => .priv
  | 0x08 => .cwDeparted | 0x09 => .cwDetached | 0x0A => .pairTimeout | 0x0B => .emptyTimeout | 0x0C => .layout
  | 0x0D => .nmstore | 0x0E => .xpeer | 0x0F => .stack | 0x10 => .double | 0x11 => .fpinv
  | _ => .ill
/-- The place of the memory and peer causes in the order of 01 R41. -/
def Cause.rank : Cause → Nat
  | .align => 0 | .xpeer => 1 | .page => 2 | .prot => 3 | .cwDetached => 4 | .cwDeparted => 5 | .layout => 6
  | .nmstore => 7
  | _ => 8

end Sys2Proof.Machine
end

