-- ==== Sys2Proof/Machine/Mem.lean ====
section
/-! DEFINITION. Memory: cells and their placement, poison, L2 lines, translation with its TLBs, the hotness sampler,
scratch addresses, fault rings and message-signalled interrupts (06 R159, R172; 10 R278 to R302; 14 R368 to R371). -/

namespace Sys2Proof.Machine

/-! ## Cells (10 R284, R285) -/

/-- The first cell key of a space. -/
def spaceBase (space : Nat) : Nat := space * 2 ^ 48
/-- The space of a cell key. -/
def spaceOf (key : Nat) : Nat := key / 2 ^ 48
/-- The cell within its space. -/
def cellOf (key : Nat) : Nat := key % 2 ^ 48

/-- The interleaved placement (10 R285, BL = 0): the line goes to channel h of the hash; its place there is the
model's choice (assumption log 10). -/
def interleave (pa : Nat) : Nat :=
  let line := pa / 128
  let hi := line / 128
  ((line % 128 ^^^ hi % 128) * 2 ^ 25 + hi) * 128 + pa % 128
/-- The interleaved PA of a tier-0 cell. -/
def deinterleave (cell : Nat) : Nat :=
  let line := cell / 128
  let hi := line % 2 ^ 25
  (hi * 128 + (line / 2 ^ 25 ^^^ hi % 128)) * 128 + cell % 128

/-- The cell key of a PA of a tier on a die (10 R282, R285). -/
def keyOf (die tier : Nat) (bl : Bool) (pa : Nat) : Nat :=
  if tier = 0 then spaceBase die + (if bl then pa else interleave pa)
  else if tier = 1 then spaceBase (4 + die) + pa
  else spaceBase 8 + pa
/-- The key of a tier-0 PA under BL = 0, as system structures name memory. -/
def hbmKey (die pa : Nat) : Nat := keyOf die 0 false pa
/-- The key of a scratchpad byte of a core. -/
def scratchKey (core off : Nat) : Nat := spaceBase (16 + core) + off
/-- A key of a scratchpad. -/
def isScratch (key : Nat) : Bool := 16 ≤ spaceOf key
/-- The channel, 0 to 127 on its die, of a tier-0 key (10 R285, R290). -/
def channelOf (key : Nat) : Nat := cellOf key / 2 ^ 32 % 128
/-- The slice of a key: its channel in tier 0, the hash in tier 1 (10 R290). -/
def sliceOf (key : Nat) : Nat :=
  if spaceOf key < 4 then channelOf key else cellOf key / 128 % 128 ^^^ cellOf key / 2 ^ 14 % 128
/-- The frame a cell lies in, under a placement (10 R285). -/
def frameOfCell (bl : Bool) (cell : Nat) : Nat := (if bl then cell else deinterleave cell) / 2 ^ 16

/-! ## Poison and lost memory (14 R368, R371; 13 R365) -/

/-- The cell lies in a retired frame. -/
def State.retired (s : State) (key : Nat) : Bool :=
  spaceOf key < 4 && (s.die (spaceOf key)).retired.any fun f => frameOfCell f.2 (cellOf key) = f.1
/-- The cell lies behind a second-tier link that has failed; PA bit 12 selects the link (13 R365). -/
def State.linkLost (s : State) (key : Nat) : Bool :=
  4 ≤ spaceOf key && spaceOf key < 8 &&
    (s.die (spaceOf key - 4)).cxlDown.any fun l => cellOf key / 4096 % 2 = l
/-- The 16-byte unit of a key reads as poison. -/
def State.poisoned (s : State) (key : Nat) : Bool :=
  (s.poison.look (key / 16)).isSome || s.retired key || s.linkLost key
/-- Some unit of a range reads as poison. -/
def State.poisonedIn (s : State) (key n : Nat) : Bool :=
  (List.range ((key % 16 + n + 15) / 16)).any fun j => s.poisoned (key / 16 * 16 + 16 * j)

/-! ## Bytes (00 R6; 09 R256) -/

/-- One byte; a byte that is not listed is zero (assumption log 5). -/
def State.byte (s : State) (key : Nat) : Byte := s.mem.lookD key 0
/-- One byte written. -/
def State.setByte (s : State) (key : Nat) (x : Byte) : State := { s with mem := s.mem.write 0 key x }
/-- n bytes from a key upward. -/
def State.bytes (s : State) (key n : Nat) : List Byte := (List.range n).map fun j => s.byte (key + j)
/-- Bytes written from a key upward. -/
def State.setBytes (s : State) (key : Nat) : List Byte → State
  | [] => s
  | x :: r => (s.setByte key x).setBytes (key + 1) r
/-- A little-endian number of n bytes. -/
def State.num (s : State) (key n : Nat) : Nat := (s.bytes key n).foldr (fun b a => a * 256 + b.toNat) 0
/-- The low n bytes of a number, lowest first. -/
def bytesOf (x n : Nat) : List Byte := (List.range n).map fun j => BitVec.ofNat 8 (x / 256 ^ j)
/-- A list of bytes as a little-endian number. -/
def numOf (bs : List Byte) : Nat := bs.foldr (fun b a => a * 256 + b.toNat) 0

/-- The dirty lines that share the set of a line in its slice (10 R290). -/
def Die.setMates (d : Die) (die line : Nat) : Tab Line :=
  d.lines.filter fun l => l.1 != line && sliceOf (l.1 * 128) = sliceOf (line * 128) &&
    (Config.setOf die l.1).toNat % 1536 = (Config.setOf die line).toNat % 1536
/-- The ways a slice may put a line in, in the order its replacement takes them: the quarantined ones never (14 R372). -/
def Die.waysFor (d : Die) (die line now : Nat) : List Nat :=
  let out := match d.qway.look (sliceOf (line * 128)) with
    | some q => q.ways
    | none => 0
  ((List.range 16).map fun j => ((Config.wayOf die line now).toNat + j) % 16).filter fun w => !out.getLsbD w
/-- A line becomes dirty in its set, owned by a context; where all ways hold other dirty lines, the first is written back.
With every way quarantined nothing is cached (10 R290, R291; 14 R372). -/
def Die.dirty (d : Die) (die line ctx now : Nat) : Die :=
  match d.lines.look line with
  | some l => { d with lines := d.lines.put line { l with owner := ctx } }
  | none =>
    let mates := d.setMates die line
    let ways := d.waysFor die line now
    match ways.find? fun w => !mates.any fun l => l.2.way = w with
    | some w => { d with lines := d.lines.put line { owner := ctx, way := w } }
    | none =>
      match ways with
      | [] => d
      | w :: _ =>
        let gone := (mates.filter fun l => l.2.way = w).map (·.1)
        { d with lines := (gone.foldl (fun t l => t.del l) d.lines).put line { owner := ctx, way := w } }
/-- The line of a key becomes or stays dirty, owned by a context; host memory and scratchpads have none. -/
def State.dirtyLine (s : State) (ctx key : Nat) : State :=
  if spaceOf key < 8 then s.onDie (spaceOf key % 4) fun d => d.dirty (spaceOf key % 4) (key / 128) ctx s.progress
  else s

/-- Remove keys lo to lo + n − 1 of a table. -/
def Tab.delRange {α : Type} (t : Tab α) (lo n : Nat) : Tab α := t.filter fun e => !(lo ≤ e.1 && e.1 < lo + n)

/-- Bytes written into cells past L2 (08 R232, R234): a write to a retired frame or a failed link is discarded; a whole
16-byte unit written loses its poison; narrow-release marks of the bytes end; what they held stays in the device's past
(09 R273). -/
def State.storeCell (s : State) (key : Nat) (bs : List Byte) : State :=
  if s.retired key || s.linkLost key then s
  else
    let s := { s.setBytes key bs with narrow := Tab.delRange s.narrow key bs.length,
                                      past := { key := key, bytes := s.bytes key bs.length } :: s.past }
    let lo := (key + 15) / 16
    { s with poison := Tab.delRange s.poison lo ((key + bs.length) / 16 - lo) }
/-- A store performed at L2 (09 R267, R269; 14 R368): its line is dirty, owned by the context. -/
def State.store (s : State) (ctx key : Nat) (bs : List Byte) : State :=
  if s.retired key || s.linkLost key then s else (s.storeCell key bs).dirtyLine ctx key

/-- A byte as it was at a place of the device's past, counted in writes from the first (09 R273). -/
def State.byteAt (s : State) (age key : Nat) : Byte :=
  (s.past.take (s.past.length - age)).foldl (fun b p =>
    if p.key ≤ key && key < p.key + p.bytes.length then p.bytes.getD (key - p.key) 0 else b) (s.byte key)

/-- A 16-byte unit written as poison (07 R218; 14 R367). -/
def State.setPoison (s : State) (key : Nat) : State := { s with poison := s.poison.put (key / 16) () }
/-- A store of poison to a unit; to a retired frame, or behind a failed link, it is discarded as any store is (13 R365). -/
def State.storePoison (s : State) (key : Nat) : State := if s.retired key || s.linkLost key then s else s.setPoison key

/-! ## Translation (10 R278 to R287) -/

/-- Why an access is made, for its permission (10 R283). -/
inductive AccKind where
  | load | store | atomic | fetch
  deriving DecidableEq, Repr

/-- The owner die of an address. -/
def vaDie (va : DWord) : Nat := (va.extractLsb' 52 3).toNat
/-- The device of an address. -/
def vaDevice (va : DWord) : Nat := (va.extractLsb' 55 9).toNat
/-- The offset of an address. -/
def vaOffset (va : DWord) : Nat := (va.extractLsb' 0 48).toNat
/-- An address of this device from a die and an offset. -/
def State.vaOf (s : State) (die off : Nat) : DWord := BitVec.ofNat 64 (s.dev.devnum * 2 ^ 55 + die * 2 ^ 52 + off)
/-- Bits [h:l] of a number. -/
def bitsOf (x h l : Nat) : Nat := x / 2 ^ l % 2 ^ (h + 1 - l)

/-- The parts of a table entry that every good entry has (10 R282, R283): valid, reserved bits zero. -/
def entryValid (e : Nat) : Bool := e % 2 = 1 && bitsOf e 11 8 = 0 && bitsOf e 63 48 = 0
/-- LEAF. -/
def entryLeaf (e : Nat) : Bool := bitsOf e 1 1 = 1
/-- PA[47:12] as an address. -/
def entryPa (e : Nat) : Nat := bitsOf e 47 12 * 4096
/-- A good entry that points to the next table. -/
def goodTable (e : Nat) : Bool := entryValid e && !entryLeaf e && bitsOf e 3 2 = 0 && entryPa e < 2 ^ 39
/-- A good leaf of a page size. -/
def goodLeaf (e size : Nat) : Bool :=
  entryValid e && entryLeaf e && bitsOf e 3 2 != 3 && entryPa e % size = 0 &&
    (bitsOf e 3 2 != 0 || entryPa e < 2 ^ 39) && (bitsOf e 3 2 != 1 || entryPa e < 768 * 2 ^ 30) &&
    (bitsOf e 7 7 = 0 || bitsOf e 3 2 = 0)
/-- The translation a good leaf gives for the 64 KiB page of an offset. -/
def leafXlat (e off : Nat) (large : Bool) : Xlat :=
  { frame := entryPa e + (if large then off % 2 ^ 21 / 2 ^ 16 * 2 ^ 16 else 0), tier := bitsOf e 3 2,
    bl := bitsOf e 7 7 = 1, w := bitsOf e 4 4 = 1, x := bitsOf e 5 5 = 1, sup := bitsOf e 6 6 = 1 }

/-- The physical addresses of the entries a walk reads: the next table is known only from the entry before. -/
def rootOfDie (s : State) (die ctx : Nat) : Nat := (s.die die).troot.lookD ctx 0 |>.toNat
/-- A table entry read as device memory; none from a poisoned unit (10 R283). -/
def State.tableEntry (s : State) (die pa : Nat) : Option Nat :=
  if s.poisoned (hbmKey die pa) then none else some (s.num (hbmKey die pa) 8)

/-- What a walk finds. -/
inductive Walked where
  | leaf (x : Xlat)
  /-- A valid translation is missing; at which level, and the table that holds the missing entry. -/
  | missing (level : Nat) (table : Nat)
  | poisonMet
  deriving DecidableEq, Repr

/-- The walk of 10 R283, without permissions. TROOT.en = 0 is a missing level 1. -/
def State.walk (s : State) (die ctx off : Nat) : Walked :=
  let r := rootOfDie s die ctx
  if r % 2 = 0 then .missing 0 0
  else
    let t1 := bitsOf r 47 12 * 4096
    match s.tableEntry die (t1 + 8 * bitsOf off 47 34) with
    | none => .poisonMet
    | some e1 =>
      if !goodTable e1 then .missing 1 t1
      else
        match s.tableEntry die (entryPa e1 + 8 * bitsOf off 33 21) with
        | none => .poisonMet
        | some e2 =>
          if goodLeaf e2 (2 ^ 21) then .leaf (leafXlat e2 off true)
          else if !goodTable e2 then .missing 2 (entryPa e1)
          else
            match s.tableEntry die (entryPa e2 + 8 * bitsOf off 20 16) with
            | none => .poisonMet
            | some e3 => if goodLeaf e3 (2 ^ 16) then .leaf (leafXlat e3 off false) else .missing 3 (entryPa e2)

/-- The key of a page in a TLB: context and page number. -/
def tlbKey (ctx off : Nat) : Nat := ctx * 2 ^ 32 + off / 2 ^ 16
/-- The translation an access uses (10 R279, R280, R287): none while TROOT.en is 0; else from the core's own TLB for its own
die, then the die's, then a walk. -/
def State.xlat (s : State) (core : Option Nat) (ctx die off : Nat) : Option Xlat :=
  if rootOfDie s die ctx % 2 = 0 then none else
  let k := tlbKey ctx off
  let own := match core with
    | some c => if dieOfCore c = die then (s.core c).tlb.look k else none
    | none => none
  match own with
  | some x => some x
  | none =>
    match (s.die die).tlb.look k with
    | some x => some x
    | none =>
      match s.walk die ctx off with
      | .leaf x => some x
      | _ => none

/-- The TLBs after an access that used a translation; an entry is kept while there is room (10 R287). -/
def State.fillTlb (s : State) (core : Option Nat) (ctx die off : Nat) (x : Xlat) : State :=
  let k := tlbKey ctx off
  let s := match core with
    | some c =>
      if dieOfCore c = die && (s.core c).tlb.length < 512 && ((s.core c).tlb.look k).isNone then
        s.onCore c fun y => { y with tlb := y.tlb.put k x }
      else s
    | none => s
  if (s.die die).tlb.length < 131072 && ((s.die die).tlb.look k).isNone then
    s.onDie die fun y => { y with tlb := y.tlb.put k x }
  else s

/-- The cell key of an offset in a resolved frame of a region or an index. -/
def frameKey (die frame off : Nat) : Nat := keyOf die 0 (frame % 2 = 1) (frame / 2 ^ 16 * 2 ^ 16 + off)
/-- The cell key of a byte of a range whose pages are resolved. -/
def framesKey (die : Nat) (frames : List Nat) (off : Nat) : Nat :=
  frameKey die (frames.getD (off / 2 ^ 16) 0) (off % 2 ^ 16)
/-- The permission of an access under a translation (10 R283). -/
def Xlat.permits (x : Xlat) (k : AccKind) (priv : Bool) : Bool :=
  (match k with
    | .load => true
    | .store => x.w
    | .atomic => x.w && x.tier != 2
    | .fetch => x.x) && (!x.sup || priv)
/-- The cell key of an offset under a translation. -/
def Xlat.key (x : Xlat) (die off : Nat) : Nat := keyOf die x.tier x.bl (x.frame + off % 2 ^ 16)

/-- Where an address leads, or the cause it raises (06 R159; 10 R283). `core` is the issuing core, if one issues. -/
def State.resolve (s : State) (core : Option Nat) (ctx : Nat) (va : DWord) (k : AccKind) (priv : Bool) :
    Except Cause (Nat × Xlat) :=
  if vaDevice va != s.dev.devnum then .error .xpeer
  else if 4 ≤ vaDie va || va.extractLsb' 48 4 != 0 then .error .page
  else match s.xlat core ctx (vaDie va) (vaOffset va) with
    | none => .error .page
    | some x => if x.permits k priv then .ok (x.key (vaDie va) (vaOffset va), x) else .error .prot

/-- The cell key of an address, or its cause. -/
def State.locate (s : State) (core : Option Nat) (ctx : Nat) (va : DWord) (k : AccKind) (priv : Bool) :
    Except Cause Nat :=
  match s.resolve core ctx va k priv with
  | .ok r => .ok r.1
  | .error c => .error c

/-- The pages a range touches, as addresses: the first byte of the range and every later page start. -/
def pagesOf (va : DWord) (n : Nat) : List DWord :=
  let lo := va.toNat % 2 ^ 16
  va :: (List.range ((lo + n - 1) / 2 ^ 16)).map fun j => va + BitVec.ofNat 64 ((j + 1) * 2 ^ 16 - lo)

/-- The 128-byte lines a range touches, as addresses. -/
def linesIn (va : DWord) (n : Nat) : List DWord :=
  (List.range ((va.toNat % 128 + n + 127) / 128)).map fun j => (va &&& ~~~0x7F#64) + BitVec.ofNat 64 (128 * j)
/-- Of two findings the one whose cause comes first in the order of 01 R41, the former of two alike. -/
def earlierCause (x y : Cause × DWord) : Cause × DWord := if y.1.rank < x.1.rank then y else x
/-- The finding of a list that is raised: the first cause in the order of 01 R41, at its lowest address. -/
def worst : List (Cause × DWord) → Option (Cause × DWord)
  | [] => none
  | x :: r => some (r.foldl earlierCause x)
/-- The cause a range raises, with the address that raises it: every page is checked (01 R41; 06 R159; 07 R216). -/
def State.rangeCause (s : State) (core : Option Nat) (ctx : Nat) (va : DWord) (n : Nat) (k : AccKind) (priv : Bool) :
    Option (Cause × DWord) :=
  if n = 0 then none
  else worst ((pagesOf va n).filterMap fun p =>
    match s.locate core ctx p k priv with
    | .ok _ => none
    | .error c => some (c, p))

/-- The cell keys of the units of `step` bytes of a range that raises no cause. -/
def State.unitKeys (s : State) (core : Option Nat) (ctx : Nat) (va : DWord) (n step : Nat) (k : AccKind)
    (priv : Bool) : List Nat :=
  (List.range (n / step)).map fun j =>
    match s.locate core ctx (va + BitVec.ofNat 64 (j * step)) k priv with
    | .ok key => key
    | .error _ => 0

/-! ## Scratch addresses (06 R172) -/

/-- The slot belongs to a group of the context on the core, or to a valid tag entry it owns. -/
def State.ownsSlot (s : State) (ctx core slot : Nat) : Bool :=
  (s.groups.any fun e => e.2.core = core && e.2.ctx = ctx && e.2.base ≤ slot && slot < e.2.base + e.2.size) ||
    match (s.core core).tags.look slot with
    | some e => e.valid && e.owner = ctx
    | none => false
/-- Bytes of a core's scratchpad partition (10 R288). -/
def Core.scratchBytes (c : Core) : Nat := c.sscr * 65536
/-- The core a scratch address names, seen from a core of an isle; none for 24 to 30. -/
def scratchCore (own : Nat) (x : Word) : Option Nat :=
  let c := (x.extractLsb' 27 5).toNat
  if c = 31 then some own else if c < 24 then some (own / 24 * 24 + c) else none
/-- The offset a scratch address names, region base added for core field 31. -/
def scratchOffset (base : Nat) (x : Word) : Nat :=
  (x.extractLsb' 0 27).toNat + (if (x.extractLsb' 27 5).toNat = 31 then base * 4096 else 0)
/-- Where a scratch address leads, or its cause; `owned` says whether the last check of 06 R172 applies. A range of
`size` bytes is aligned to `align`. -/
def State.scratch (s : State) (g : Group) (x : Word) (align size : Nat) (owned : Bool) : Except Cause Nat :=
  let o := scratchOffset g.base x
  match scratchCore g.core x with
  | none => if o % align != 0 then .error .align else .error .prot
  | some c =>
    if o % align != 0 then .error .align
    else if (s.core c).scratchBytes < o + size then .error .prot
    else if owned && !((List.range ((o % 4096 + size + 4095) / 4096)).all fun j => s.ownsSlot g.ctx c (o / 4096 + j)) then
      .error .prot
    else .ok (scratchKey c o)
/-- A store into a slot whose entry is valid sets its dirty bit; the unit of a group's region counts as written
(06 R173; 10 R289). -/
def State.touchScratch (s : State) (key : Nat) : State :=
  let c := spaceOf key - 16
  let slot := cellOf key / 4096
  let s := s.onCore c fun y => { y with tags := y.tags.change slot fun e => if e.valid then { e with dirty := true } else e }
  { s with groups := s.groups.map fun e =>
      if e.2.core = c && e.2.base ≤ slot && slot < e.2.base + e.2.size && !e.2.written.contains (slot - e.2.base) then
        (e.1, { e.2 with written := (slot - e.2.base) :: e.2.written })
      else e }

/-- A store performed wherever its key lies: device memory or a scratchpad, which holds no poison. -/
def State.put (s : State) (ctx key : Nat) (bs : List Byte) : State :=
  if isScratch key then (s.setBytes key bs).touchScratch key else s.store ctx key bs

/-! ## Result rows and held accesses (06 R166; 12 R331) -/

/-- The row of a key is an empty result row: each line of it is marked. -/
def State.rowEmpty (s : State) (key : Nat) : Bool := (s.empty.look (key / 128)).isSome
/-- The line of a key lies behind a channel one of whose engines is in all-bank mode. -/
def State.channelHeld (s : State) (key : Nat) : Bool :=
  spaceOf key < 4 && [0, 1].any fun j =>
    match (s.engine (64 * (4 * spaceOf key + channelOf key / 32) + 2 * (channelOf key % 32) + j)).prog with
    | some p => p.allBank
    | none => false
/-- The line's slice holds its accesses while a quarantine writes back (14 R372). -/
def State.sliceHeld (s : State) (key : Nat) : Bool :=
  spaceOf key < 8 && match (s.die (spaceOf key % 4)).qway.look (sliceOf key) with
    | some q => q.held
    | none => false
/-- The access is held at L2. -/
def State.accessHeld (s : State) (key : Nat) : Bool := s.channelHeld key || s.sliceHeld key

/-! ## Interrupts and fault rings (14 R369, R370) -/

/-- A message-signalled interrupt is sent. -/
def State.interrupt (s : State) (v : Nat) : State := { s with msix := s.msix.put v s.tick }
/-- The interrupt of a context's fault ring, at most once per 2^10 ticks. -/
def State.ringInterrupt (s : State) (ctx : Nat) : State :=
  match s.msix.look (1 + ctx) with
  | some t => if s.tick < t + 1024 then s else s.interrupt (1 + ctx)
  | none => s.interrupt (1 + ctx)
/-- A post is lost (14 R381, frlost saturating). -/
def State.postLost (s : State) : State :=
  { s with dev := { s.dev with frlost := if s.dev.frlost < 0xFFFF then s.dev.frlost + 1 else s.dev.frlost } }

/-- A fault record (14 R369). -/
structure FaultRec where
  workId : DWord
  addr : DWord
  cause : Nat
  core : Nat
  deriving DecidableEq, Repr

/-- Where an offset of a ring lies. -/
def State.ringKey (s : State) (ctx : Nat) (off : Nat) : Option Nat :=
  let va := (s.context ctx).frbase + BitVec.ofNat 64 off
  if vaDie va != 0 then none
  else match s.locate none ctx va .store true with
    | .ok k => some k
    | .error _ => none
/-- A number stored at an offset of a ring, where it translates. -/
def State.ringStore (s : State) (ctx off x n : Nat) : State :=
  match s.ringKey ctx off with
  | some k => s.store ctx k (bytesOf x n)
  | none => s
/-- A fault record posted to the context's ring (14 R369). -/
def State.post (s : State) (ctx : Nat) (r : FaultRec) : State :=
  match s.ringKey ctx 0, s.ringKey ctx 8, s.ringKey ctx 16, s.ringKey ctx 24 with
  | some k0, some k8, some k16, some k24 =>
    if [0, 16, 32, 48].any fun o => match s.ringKey ctx o with
        | some k => s.poisoned k
        | none => true then s.postLost
    else
      let wr := s.num k0 8
      let rd := s.num k8 8
      let lg := s.num k24 8 % 32
      if lg < 4 || 20 < lg then s.postLost
      else if 2 ^ lg ≤ (wr + 2 ^ 64 - rd) % 2 ^ 64 then s.store ctx k16 (bytesOf (s.num k16 8 + 1) 8)
      else
        let at0 := 64 + 32 * (wr % 2 ^ lg)
        if ([0, 8, 16, 24].any fun o => (s.ringKey ctx (at0 + o)).isNone) then s.postLost
        else
          let s := s.store ctx k0 (bytesOf (wr + 1) 8)
          let s := s.ringStore ctx at0 r.workId.toNat 8
          let s := s.ringStore ctx (at0 + 8) r.addr.toNat 8
          let s := s.ringStore ctx (at0 + 16) (r.cause % 256 + ctx * 2 ^ 8 + r.core * 2 ^ 14) 4
          let s := s.ringStore ctx (at0 + 24) s.tick 8
          let s := s.ringStore ctx (at0 + 20) (wr + 1) 4
          s.ringInterrupt ctx
  | _, _, _, _ => s.postLost

/-! ## Hotness sampler (10 R301, R302) -/

/-- SMPCTL.lgn. -/
def Sampler.lgn (m : Sampler) : Nat := (m.ctl.extractLsb' 1 5).toNat
/-- One translated request is counted at its owner die; the N-th becomes a ring entry. `src` is the issuing device; a copy
engine and another device have no core. -/
def State.sample (s : State) (ctx : Nat) (va : DWord) (core type src : Nat) : State :=
  let die := vaDie va
  let m := (s.die die).smp
  if !m.ctl.getLsbD 0 || (m.ctl.getLsbD 6 && (m.ctl.extractLsb' 7 6).toNat != ctx) then s
  else if m.count + 1 < 2 ^ m.lgn then s.onDie die fun d => { d with smp := { m with count := m.count + 1 } }
  else
    let n := 2 ^ (m.lgsize.toNat % 32)
    if (m.wr - m.rd).toNat = n then
      s.onDie die fun d => { d with smp := { m with count := 0, drop := m.drop + 1 } }
    else
      let k := hbmKey die ((m.base.extractLsb' 5 43).toNat * 32 + 32 * (m.wr.toNat % n))
      let line := va.toNat / 128 * 128
      let s := s.store ctx k (bytesOf line 8 ++ bytesOf ((if 4 ≤ type then 0x7FF else core % 2048) + type * 2 ^ 16 + ctx * 2 ^ 24) 4 ++
        bytesOf (src % 512) 4 ++ bytesOf s.tick 8 ++ bytesOf 0 8)
      s.onDie die fun d => { d with smp := { m with count := 0, wr := m.wr + 1 } }
/-- The distinct 128-byte lines of a list of addresses. -/
def linesOf (vas : List DWord) : List Nat := (vas.map fun v => v.toNat / 128).eraseDups
/-- One request for each line of an instruction. -/
def State.sampleAll (s : State) (ctx : Nat) (vas : List DWord) (core type : Nat) : State :=
  (linesOf vas).foldl (fun s l => s.sample ctx (BitVec.ofNat 64 (l * 128)) core type s.dev.devnum) s
/-- Lines translated by the owner die alone, for a packet or a base die: its TLB and the samplers after them (10 R287, R301). -/
def State.noteDie (s : State) (ctx : Nat) (vas : List DWord) (core type dev : Nat) : State :=
  (linesOf vas).foldl (fun s l =>
    let va := BitVec.ofNat 64 (l * 128)
    (match s.xlat none ctx (vaDie va) (vaOffset va) with
      | some x => s.fillTlb none ctx (vaDie va) (vaOffset va) x
      | none => s).sample ctx va core type dev) s

end Sys2Proof.Machine
end

