-- ==== Sys2Proof/Machine/Flits.lean ====
section
/-! DEFINITION. Packets as bytes, the flits of a strait link, what a port sends and keeps for replay and what it does with a
flit it receives, and how a packet enters and leaves a strait switch (13 R348 to R351, R356 to R360). -/

namespace Sys2Proof.Machine

/-! ## Packets as bytes (13 R356, R357, R361) -/

/-- The first doubleword of a header: type, xop, generation, kind, scope, count, context. -/
def packetWord0 (p : Packet) : Nat :=
  p.ptype.toNat + p.xop.toNat * 2 ^ 4 + (if p.gen then 2 ^ 8 else 0) + (if p.kind then 2 ^ 9 else 0) +
    p.scope.toNat * 2 ^ 10 + p.entries.length % 64 * 2 ^ 16 + p.ctx.toNat * 2 ^ 22
/-- The source word: device, core, request slot. -/
def packetWord1 (p : Packet) : Nat := p.sdev.toNat + p.score.toNat * 2 ^ 10 + p.rslot.toNat * 2 ^ 21
/-- Bytes of data an entry brings, by packet type. -/
def entrySize (ptype : Nat) : Nat :=
  match ptype with
  | 2 => 4 | 3 => 16 | 4 => 4 | 5 => 8 | 6 => 4
  | _ => 0
/-- The 32-byte header; a response has its refusal mask and cause at 0x18. -/
def packetHeader (p : Packet) : List Byte :=
  bytesOf (packetWord0 p) 4 ++ bytesOf (packetWord1 p) 4 ++ bytesOf p.desc.toNat 4 ++
    bytesOf (p.tdev.toNat + p.tdie.toNat * 2 ^ 9) 4 ++ bytesOf p.base.toNat 8 ++
    (if p.ptype = 8 then bytesOf p.refused.toNat 4 ++ bytesOf p.cause.toNat 4 else bytesOf p.key.toNat 8)
/-- Bytes a returned value has: 16 for a response to type 1 and 4 for the others, which the request's type says. -/
def packetImage (p : Packet) (returns : Nat) : List Byte :=
  if p.ptype = 8 then packetHeader p ++ p.entries.flatMap fun e => bytesOf e.data.toNat returns
  else if p.ptype.toNat ≤ 6 then
    packetHeader p ++ ((p.entries.flatMap fun (e : PacketEntry) => bytesOf e.off.toNat 2) ++ List.replicate 64 0).take 64 ++
      p.entries.flatMap fun e => bytesOf e.data.toNat (entrySize p.ptype.toNat)
  else packetHeader p ++ p.entries.flatMap fun e => bytesOf e.data.toNat 16
/-- The packets a logical one travels as, of at most 32 entries each: half of an exchange, and its answer, may have 64, and
each packet has the refusal mask of its own entries, which are refused all or none (13 R356, R357; assumption log 92). -/
def packetPieces (p : Packet) : List Packet :=
  if p.ptype != 7 && 32 < p.entries.length then
    [{ p with entries := p.entries.take 32 },
     { p with entries := p.entries.drop 32,
              refused := if p.refused = 0 then 0 else BitVec.ofNat 32 (2 ^ (p.entries.length - 32) - 1) }]
  else [p]
/-- A list and its merge record's fields as a packet to its crucible (13 R361; assumption log 92). -/
def listPacket (l : MergeList) (dev core : Nat) (gen : Bool) : Packet :=
  { ptype := 7, xop := 0, gen := gen, kind := false, scope := 0, ctx := BitVec.ofNat 6 l.ctx, sdev := BitVec.ofNat 9 dev,
    score := BitVec.ofNat 11 core, rslot := 0, desc := l.mergeId, tdev := 0, tdie := 0, base := l.root, key := 0,
    entries := { off := 0, poison := false,
                 data := l.object ++ BitVec.ofNat 16 (l.tmo * 2 ^ 10 + l.parts) ++ BitVec.ofNat 16 (if l.valid then 0 else 2) ++
                   BitVec.ofNat 16 l.k ++ BitVec.ofNat 16 l.items.length } ::
      l.items.map fun x => { off := 0, data := x.id ++ 0#32 ++ x.dist, poison := false },
    refused := 0, cause := 0, tag := 0, strait := BitVec.ofNat 5 (l.mergeId.toNat % 32), zeros := true }

/-! ## Flits (13 R350) -/

/-- One bit step of the ECMA-182 polynomial, most significant bit first. -/
def crcStep (c : DWord) : DWord := if c.getLsbD 63 then (c <<< 1) ^^^ 0x42F0E1EBA9EA3693 else c <<< 1
/-- Eight bit steps with a byte. -/
def crcByte (c : DWord) (b : Byte) : DWord := (List.range 8).foldl (fun (x : DWord) _ => crcStep x) (c ^^^ (b ++ 0#56))
/-- The CRC-64 of bytes, from zero (assumption log 45). -/
def crc64 (bs : List Byte) : DWord := bs.foldl crcByte 0
/-- A flit: 0 payload, 1 idle, 2 control. -/
def flitOf (ftype seq ack : Nat) (nak : Bool) (payload : List Byte) : List Byte :=
  let b := bytesOf (seq % 4096 + ftype * 4096) 2 ++ bytesOf (ack % 4096 + (if nak then 4096 else 0)) 2 ++ bytesOf 0 4 ++
    (payload ++ List.replicate 240 0).take 240
  b ++ bytesOf (crc64 b).toNat 8
/-- The payloads of a packet that starts a flit of its own (assumption log 45). -/
def payloads : Nat → List Byte → List (List Byte)
  | 0, _ => []
  | _, [] => []
  | n + 1, bs => bs.take 240 :: payloads n (bs.drop 240)
/-- The last sequence number a port has received in order. -/
def Port.got (x : Port) : Nat := x.rxSeq + 4095
/-- A flit without a number of its own: idle, or control with an acknowledgement or a nak. It is not kept for replay. -/
def Port.signal (x : Port) (ftype : Nat) (nak : Bool) : Port :=
  { x with wire := x.wire ++ [flitOf ftype x.txSeq x.got nak []] }
/-- Payloads become flits while the replay buffer has room: each stays in it until it is acknowledged (13 R351). -/
def Port.fill (x : Port) : Port :=
  if x.down || x.retraining.isSome then x
  else (x.queued.take (128 - x.replay.length)).foldl (fun x p =>
    let f := flitOf 0 x.txSeq x.got false p
    { x with replay := x.replay ++ [f], queued := x.queued.drop 1, txSeq := (x.txSeq + 1) % 4096, wire := x.wire ++ [f] }) x
/-- A port sends payloads. -/
def Port.send (x : Port) (ps : List (List Byte)) : Port := { x with queued := x.queued ++ ps, wire := [] }.fill
/-- A packet leaves through a strait port. -/
def State.transmit (s : State) (port : Nat) (p : Packet) (returns : Nat) : State :=
  s.setPort port ((s.port port).send ((packetPieces p).flatMap fun q => payloads 20 (packetImage q returns)))
/-- A strait port with nothing to send puts an idle flit on the wire. -/
def State.sendIdle (s : State) (port : Nat) : Option State :=
  let x := s.port port
  if 32 ≤ port || x.down || x.retraining.isSome || x.queued != [] then none
  else some (s.setPort port ({ x with wire := [] }.signal 1 false))

/-! ## Receiving (13 R351) -/

/-- A field of a flit. -/
def flitField (f : List Byte) (o n : Nat) : Nat := numOf ((f.drop o).take n)
/-- A flit that fails its CRC, or has a reserved type. -/
def flitBad (f : List Byte) : Bool :=
  f.length != 256 || flitField f 248 8 != (crc64 (f.take 248)).toNat || 3 ≤ flitField f 0 2 / 4096
/-- The flits of a replay buffer that an acknowledgement does not cover. -/
def unacked (ack : Nat) (l : List (List Byte)) : List (List Byte) :=
  l.filter fun f => 2048 ≤ (ack + 4096 - flitField f 0 2 % 4096) % 4096
/-- Both ends of the link retrain from now on. -/
def Port.retrain (x : Port) (now : Nat) : Port := { x with retraining := some (x.retraining.getD now) }
/-- The sender's side of a flit: what it acknowledges leaves the buffer; a nak replays the rest, and the eighth replay
of one flit retrains the link. -/
def Port.acked (x : Port) (ack : Nat) (nak : Bool) (now : Nat) : Port :=
  let l := unacked ack x.replay
  let tries := if l.length < x.replay.length then 0 else x.tries
  if nak && l != [] then
    let y := { x with replay := l, tries := tries + 1, wire := x.wire ++ l }
    if 8 ≤ tries + 1 then y.retrain now else y.fill
  else { x with replay := l, tries := tries }.fill
/-- The receiver's side of a flit it does not take: it asks for a replay, once for a gap, again for a flit that fails its
CRC; the eighth replay it asks for retrains the link. -/
def Port.refuse (x : Port) (again : Bool) (now : Nat) : Port :=
  if x.nak && !again then x
  else
    let y := { x with nak := true, asked := x.asked + 1 }.signal 2 true
    if 8 ≤ x.asked + 1 then y.retrain now else y
/-- A link report changed. -/
def State.onReport (s : State) (k : Nat) (f : Report → Report) : State := s.setReport k (f (s.report k))
/-- A port after a flit: its replays and retrains are counted. -/
def State.portAfter (s : State) (port : Nat) (y : Port) (replayed : Bool) : State :=
  let began := (s.port port).retraining.isNone && y.retraining.isSome
  (s.setPort port y).onReport port fun r =>
    { r with replays := if replayed then Nat.min (r.replays + 1) 0xFFFFFFFF else r.replays,
             retrains := if began then Nat.min (r.retrains + 1) 0xFFFF else r.retrains }
/-- FLIT_RECEIVE: a payload flit is taken in sequence order and acknowledged; an idle or control flit has no number of its own
(assumption log 45). -/
def State.flitReceive (s : State) (port : Nat) (f : List Byte) : Option State :=
  let x := { s.port port with wire := [] }
  if 32 ≤ port || x.down || x.retraining.isSome then none
  else if flitBad f then some (s.portAfter port (x.refuse true s.tick) false)
  else
    let nak := flitField f 2 2 / 4096 % 2 = 1
    let y := x.acked (flitField f 2 2 % 4096) nak s.tick
    let again := nak && y.replay != []
    if flitField f 0 2 / 4096 != 0 then some (s.portAfter port y again)
    else if flitField f 0 2 % 4096 = x.rxSeq then
      some (s.portAfter port ({ y with rxSeq := (x.rxSeq + 1) % 4096, nak := false, asked := 0 }.signal 2 false) again)
    else some (s.portAfter port (y.refuse false s.tick) again)

/-! ## Strait switches (13 R348, R352, R358 to R360) -/

/-- A switch's entry for a device under a generation: bits 8 to 0 its port, bit 9 that it is present (13 R358). -/
def Switch.route (w : Switch) (gen : Bool) (dev : Nat) : Word :=
  (if gen then w.rt1 else w.rt0).lookD dev (BitVec.ofNat 32 (512 + dev))
/-- The switch port a device lands on under a generation (13 R348). -/
def Switch.landing (w : Switch) (gen : Bool) (dev : Nat) : Nat := ((w.route gen dev).extractLsb' 0 9).toNat
/-- The bit of a generation in SWSTAT.retired. -/
def genBit (g : Bool) : BitVec 2 := if g then 2#2 else 1#2
/-- The device a packet is on its way to: a response and a lost notice go to the requester. -/
def packetGoal (p : Packet) : Nat := if p.ptype = 8 || p.ptype = 10 then p.sdev.toNat else p.tdev.toNat
/-- A list packet to a crucible, which its switch keeps (13 R361). -/
def isList (p : Packet) : Bool := p.ptype = 7 && p.score != 0x7FF
/-- Every input port of a switch has passed a marker of a generation, or is down; the generation has no packet left. -/
def State.genGone (s : State) (k : Nat) (g : Bool) : Bool :=
  let w := s.switch k
  let got := if g then w.markers1 else w.markers0
  (got != [] || w.downPorts != []) && !(s.net.any fun p => p.gen = g && p.strait.toNat = k && p.ptype != 9) &&
    (List.range 512).all fun p => got.contains p || w.downPorts.contains p
/-- The old generation of a switch is retired once it is gone: a marker has come, or the last packet left, or a port went
down; its markers are spent then, so that its next use needs new ones (13 R359). -/
def State.settleGen (s : State) (k : Nat) (g : Bool) : State :=
  let w := s.switch k
  if s.genGone k g then
    let w := if g then { w with markers1 := [] } else { w with markers0 := [] }
    s.setSwitch k { w with retired := w.retired ||| genBit g }
  else s
/-- Both generations of a switch looked at. -/
def State.settleSwitch (s : State) (k : Nat) : State := (s.settleGen k false).settleGen k true
/-- A packet of a generation enters a switch: the first ends that generation's retirement (13 R359). -/
def State.enters (s : State) (k : Nat) (g : Bool) : State :=
  let w := s.switch k
  s.setSwitch k { w with retired := w.retired &&& ~~~genBit g }
/-- A packet of this device enters the fabric at switch `strait`. -/
def State.inject (s : State) (strait : Nat) (p : Packet) (returns : Nat) : State :=
  let t := (s.transmit strait p returns).enters strait p.gen
  { t with net := t.net ++ [p] }
/-- A packet leaves the fabric: its generation may be gone. -/
def State.leaves (s : State) (p : Packet) : State := ({ s with net := s.net.erase p } : State).settleSwitch p.strait.toNat
/-- The lost notice for a request (13 R352, R356). -/
def lostPacket (p : Packet) : Packet := { p with ptype := 10, entries := [] }
/-- A packet for another device leaves its switch; at a port that is down it is discarded, and the requester of a request
gets a lost notice. -/
def State.forward (s : State) (p : Packet) : Option State :=
  if !s.net.contains p || p.ptype = 9 || isList p || packetGoal p = s.dev.devnum then none
  else
    let w := s.switch p.strait.toNat
    let t := s.leaves p
    if w.downPorts.contains (w.landing p.gen (packetGoal p)) && p.ptype.toNat ≤ 6 then some { t with net := t.net ++ [lostPacket p] }
    else some t

end Sys2Proof.Machine
end

