-- ==== Sys2Proof/Machine/Release.lean ====
section
/-! DEFINITION. The order of the accesses of a thread and of its group: which earlier accesses one waits for, releases at
every scope, what a group has seen that L2 has not, and what an acquire then orders (06 R161, R162, R168; 09 R259 to R265). -/

namespace Sys2Proof.Machine

/-! ## Kinds of access (09 R259) -/

/-- Bytes of one slot's access. -/
def OpKind.width : OpKind → Nat
  | .load _ n _ _ => n
  | .readOnly _ n => n
  | .scratchLoad _ n => n
  | .store n _ => n
  | .scratchStore n => n
  | .atomic _ n _ => n
  | .arrive _ _ => 64
  | _ => 0
/-- It takes part in the order of its thread: not LDRO, not an X access, not an engine operation. -/
def OpKind.ordered : OpKind → Bool
  | .load _ _ _ _ => true
  | .scratchLoad _ _ => true
  | .store _ _ => true
  | .scratchStore _ => true
  | .atomic _ _ _ => true
  | .arrive _ _ => true
  | _ => false
/-- An acquire. -/
def OpKind.acquires : OpKind → Bool
  | .load _ _ _ acq => acq
  | .atomic _ _ _ => true
  | _ => false
/-- A release. -/
def OpKind.releases : OpKind → Bool
  | .store _ rel => rel
  | .atomic _ _ _ => true
  | .arrive _ _ => true
  | _ => false
/-- It only reads. -/
def OpKind.isLoad : OpKind → Bool
  | .load _ _ _ _ => true
  | .scratchLoad _ _ => true
  | _ => false
/-- A generic store of either kind. -/
def OpKind.isStore : OpKind → Bool
  | .store _ _ => true
  | _ => false
/-- Its scope is wave or group (09 R265). -/
def Op.narrow (o : Op) : Bool := o.scope ≤ 1

/-- The accesses touch a common byte. -/
def overlaps (o : Op) (a : SlotAcc) (p : Op) (b : SlotAcc) : Bool :=
  a.key < b.key + p.kind.width && b.key < a.key + o.kind.width

/-! ## The order of a thread (09 R260, R265, R269) -/

/-- The earlier accesses of a slot that are not performed yet. -/
def State.earlier (s : State) (gid wid slot before : Nat) : List (Op × SlotAcc) :=
  (s.ops.filter fun e => e.1 < before && e.2.gid = gid && e.2.wave = wid && e.2.kind.ordered).flatMap fun e =>
    (e.2.accs.filter fun a => a.slot = slot && !a.done).map fun a => (e.2, a)

/-- A store that a group has seen and L2 has not: its operation's number, the operation, and the access. -/
abbrev Pending := Nat × Op × SlotAcc
/-- The group has seen one store before another. -/
def Pending.before (x y : Pending) : Bool := x.2.2.seen < y.2.2.seen || (x.2.2.seen = y.2.2.seen && x.1 < y.1)
/-- A pending store put in its place among those the group has seen. -/
def insertSeen (x : Pending) : List Pending → List Pending
  | [] => [x]
  | y :: r => if x.before y then x :: y :: r else y :: insertSeen x r
/-- The stores of a group that are performed inside it and not yet in L2, in the order the group has seen them. -/
def State.groupPending (s : State) (gid : Nat) : List Pending :=
  ((s.ops.filter fun e => e.2.gid = gid).flatMap fun e =>
    (e.2.accs.filter fun a => a.grp && !a.done).map fun a => (e.1, e.2, a)).foldl (fun l x => insertSeen x l) []

/-- The earlier stores of a slot are performed inside its group. -/
def State.groupStores (s : State) (gid wid slot before : Nat) : State :=
  { s with ops := s.ops.map fun (e : Nat × Op) =>
      if e.1 < before && e.2.gid = gid && e.2.wave = wid && e.2.kind.isStore then
        (e.1, { e.2 with accs := e.2.accs.map fun a =>
          if a.slot = slot && !a.grp then { a with grp := true, seen := s.progress } else a })
      else e }

/-- The progress up to which a slot of a wave has acquired stores of its group. -/
def State.heardBy (s : State) (gid wid t : Nat) : Nat :=
  match s.wave? gid wid with
  | some w => w.heard.lookD t 0
  | none => 0
/-- A release by slots of a wave over its accesses before operation number `before`: the state in which it has been made,
or none while it must wait. At wave or group scope the earlier stores are performed inside the group; at a wider one the
stores its threads have acquired are in L2 too (09 R261, R265, R270). -/
def State.releaseUpTo (s : State) (gid wid : Nat) (slots : DWord) (scope before : Nat) : Option State :=
  let ts := slotsOf slots
  if scope ≤ 1 then
    if ts.all fun t => (s.earlier gid wid t before).all fun x => x.1.kind.isStore then
      some (ts.foldl (fun s t => s.groupStores gid wid t before) s)
    else none
  else if (ts.all fun t => (s.earlier gid wid t before).isEmpty) &&
      (s.groupPending gid).all (fun x => ts.all fun t => s.heardBy gid wid t ≤ x.2.2.seen) then some s
  else none
/-- A release by slots of a wave that is no store of its own (a submission, an arrival, a barrier), over every access they
have issued. -/
def State.releaseAt (s : State) (gid wid : Nat) (slots : DWord) (scope : Nat) : Option State :=
  s.releaseUpTo gid wid slots scope s.nextOp

/-- What slots of a wave acquire inside their group: the stores the group has seen happen before every access
of theirs that comes after operation number `after` (09 R261, R262). -/
def State.heed (s : State) (gid wid : Nat) (slots : DWord) (after : Nat) : State :=
  if (s.groupPending gid).isEmpty then s
  else
    let s := s.onWave gid wid fun w => { w with heard := (slotsOf slots).foldl (fun t k => t.put k (s.progress + 1)) w.heard }
    { s with ops := s.ops.map fun (e : Nat × Op) =>
        if after < e.1 && e.2.gid = gid && e.2.wave = wid then
          (e.1, { e.2 with accs := e.2.accs.map fun a => if inMask slots a.slot then { a with heed := s.progress + 1 } else a })
        else e }

/-! ## Floors of the read-only partition (06 R170; 10 R297) -/

/-- The oldest place of the device's past that n bytes of a context may be read at through the partition of a core. -/
def Core.roFloor (c : Core) (ctx : Nat) (va : DWord) (n : Nat) : Nat :=
  c.roFloors.foldl (fun m f => if f.ctx = ctx && f.lo < va.toNat + n && va.toNat < f.hi then Nat.max m f.since else m)
    c.roSince
/-- Addresses [lo, hi) of a context read as they are now, or later, through the partition of a core, and its lines of
them are gone. -/
def Core.roRefresh (c : Core) (ctx lo hi now : Nat) : Core :=
  { c with ro := c.ro.filter fun l => !(l.1 / 2 ^ 57 = ctx && lo < (l.1 % 2 ^ 57 + 1) * 128 && l.1 % 2 ^ 57 * 128 < hi),
           roFloors := { ctx := ctx, lo := lo, hi := hi, since := now } :: c.roFloors }
/-- The same on every core of the device. -/
def State.roRefresh (s : State) (ctx lo hi : Nat) : State :=
  { s with cores := s.cores.map fun (e : Nat × Core) => (e.1, e.2.roRefresh ctx lo hi s.past.length) }

end Sys2Proof.Machine
end

