-- ==== Sys2Proof/Machine/Split.lean ====
section
/-! DEFINITION. The split table and the loop stack of a wave: transfers, arrivals, join records, hardware loops and the
removal of slots (01 R15 to R17, R23, R37; 05 R132 to R146). -/

namespace Sys2Proof.Machine

/-- The byte address of a word address. -/
def pcAddr (p : Pc) : DWord := p ++ 0#2
/-- The word address of a byte address. -/
def pcOf (a : DWord) : Pc := a.extractLsb' 2 62
/-- n words on. -/
def pcPlus (p : Pc) (n : Nat) : Pc := p + BitVec.ofNat 62 n

/-- A fragment of the split table. -/
def Wave.frag? (w : Wave) (e : Nat) : Option Fragment :=
  match w.split.look e with
  | some (.frag f) => some f
  | _ => none
/-- A join record of the split table. -/
def Wave.join? (w : Wave) (e : Nat) : Option JoinRec :=
  match w.split.look e with
  | some (.join j) => some j
  | _ => none
/-- The fragments of a wave, with their entries. -/
def Wave.frags (w : Wave) : List (Nat × Fragment) :=
  w.split.filterMap fun x => match x.2 with
    | .frag f => some (x.1, f)
    | .join _ => none
/-- An entry replaced. -/
def Wave.setFrag (w : Wave) (e : Nat) (f : Fragment) : Wave := { w with split := w.split.put e (.frag f) }
/-- An entry replaced by a record. -/
def Wave.setJoin (w : Wave) (e : Nat) (j : JoinRec) : Wave := { w with split := w.split.put e (.join j) }
/-- An entry freed. -/
def Wave.freeEntry (w : Wave) (e : Nat) : Wave := { w with split := w.split.del e }
/-- The lowest empty entry (01 R15). -/
def Wave.emptyEntry (w : Wave) : Option Nat := w.split.freeBelow 16
/-- How many entries are empty. -/
def Wave.emptyCount (w : Wave) : Nat := w.split.freeCount 16
/-- A fragment changed. -/
def Wave.onFrag (w : Wave) (e : Nat) (f : Fragment → Fragment) : Wave :=
  match w.frag? e with
  | some x => w.setFrag e (f x)
  | none => w

/-- The chain of records from a join link outward, with a bound on its length (01 R15). -/
def Wave.chain (w : Wave) : Nat → Option Nat → List Nat
  | 0, _ => []
  | _, none => []
  | n + 1, some e =>
    match w.join? e with
    | some j => e :: w.chain n j.parent
    | none => []
/-- The chain of a link. -/
def Wave.chainOf (w : Wave) (l : Option Nat) : List Nat := w.chain 16 l
/-- The entry that holds a loop's record (05 R142). -/
def Wave.loopRec (w : Wave) (id : Nat) : Option Nat :=
  (List.range 16).find? fun e => match w.join? e with
    | some j => j.loop = some id
    | none => false
/-- A loop-stack entry changed. -/
def Wave.onLoop (w : Wave) (id : Nat) (f : LoopEnt → LoopEnt) : Wave :=
  { w with loops := w.loops.map fun l => if l.id = id then f l else l }
/-- A loop-stack entry removed. -/
def Wave.dropLoop (w : Wave) (id : Nat) : Wave := { w with loops := w.loops.filter fun l => l.id != id }
/-- The innermost loop whose mask holds some slot of a set (05 R143). -/
def Wave.innermost (w : Wave) (m : DWord) : Option LoopEnt := w.loops.find? fun l => l.mask &&& m != 0
/-- Slots cleared from the wait masks of records. -/
def Wave.clearWait (w : Wave) (es : List Nat) (m : DWord) : Wave :=
  es.foldl (fun w e => match w.join? e with
    | some j => w.setJoin e { j with wait := j.wait &&& ~~~m }
    | none => w) w
/-- Slots arrive at a record. -/
def Wave.arrive (w : Wave) (e : Nat) (m : DWord) : Wave :=
  match w.join? e with
  | some j => w.setJoin e { j with arrived := j.arrived ||| m, wait := j.wait &&& ~~~m }
  | none => w

/-! ## Satisfaction (01 R17; 05 R133, R143) -/

/-- The fused fragment of a record, in the record's own entry. A loop goes back, and on past its end, at no extra cost (05
R131; 16 R409; assumption log 113). A record made before a trap, satisfied while the trap is handled, gives a suspended
fragment (assumption log 20). -/
def Wave.fused (w : Wave) (j : JoinRec) (now : Nat) : Fragment :=
  { pc := j.pc, mask := j.arrived, st := .ready, link := j.parent, suspended := tsNest w.tstat && !j.inTrap,
    notBefore := if j.loop.isSome then now else now + 7 }

/-- The innermost record that is satisfied: the one with the longest chain, lowest entry first. -/
def Wave.satisfied? (w : Wave) : Option (Nat × JoinRec) :=
  ((List.range 16).filterMap fun e => match w.join? e with
    | some j => if j.wait = 0 then some (e, j) else none
    | none => none).foldl (fun best x =>
      match best with
      | none => some x
      | some b => if (w.chainOf (some b.1)).length < (w.chainOf (some x.1)).length then some x else some b) none

/-- What one satisfaction comes to. -/
inductive Satisfied where
  | ok (w : Wave)
  /-- The loop step needs an entry and none is empty (05 R143). -/
  | blocked (w : Wave)
  deriving DecidableEq, Repr

/-- The loop step for the fused fragment in entry e (05 R143): count down, pop, or make the next record. A loop that
pops at the end of the next loop arrives there at once. -/
def Wave.loopMove (w : Wave) (e : Nat) (l : LoopEnt) (parent : Option Nat) (m : DWord) : Satisfied :=
  if l.count = 1 then
    let w := w.dropLoop l.id
    match w.innermost m with
    | some l' =>
      if l'.stop = l.stop then
        match w.loopRec l'.id with
        | some e' => .ok ((w.freeEntry e).arrive e' m)
        | none => .ok w
      else .ok w
    | none => .ok w
  else
    match w.emptyEntry with
    | none => .blocked w
    | some e2 =>
      let w := w.onLoop l.id fun x => { x with count := x.count - 1 }
      let w := w.setJoin e2
        { pc := if l.count = 2 then pcPlus l.stop 1 else l.start, wait := l.mask, arrived := 0, parent := parent,
          loop := some l.id, inTrap := tsNest w.tstat }
      .ok (w.onFrag e fun f => { f with link := some e2 })

/-- One record satisfied (01 R17): its arrived slots go on as one fragment in its entry; a loop record moves its loop
on, and a blocked loop step leaves the fragment waiting. -/
def Wave.satisfy (w : Wave) (e : Nat) (j : JoinRec) (now : Nat) : Satisfied :=
  if j.arrived = 0 then
    -- nothing arrived: the record is freed, and its loop, while it has slots, moves on without a fused fragment
    let w := w.freeEntry e
    match j.loop with
    | none => .ok w
    | some id =>
      match w.loops.find? fun l => l.id = id with
      | none => .ok w
      | some l => w.loopMove e l j.parent 0
  else
    let w1 := w.setFrag e (w.fused j now)
    match j.loop with
    | none => .ok w1
    | some id =>
      match w1.loops.find? fun l => l.id = id with
      | none => .ok w1
      | some l =>
        match w1.loopMove e l j.parent j.arrived with
        | .ok w2 => .ok w2
        | .blocked _ => .blocked (w1.onFrag e fun f => { f with st := .waiting (.loopStep id) })

/-- Fragments and loops left without slots are removed (01 R17, R37). -/
def Wave.sweep (w : Wave) : Wave :=
  let w := { w with split := w.split.filter fun (x : Nat × Entry) => match x.2 with
    | .frag f => f.mask != 0
    | .join _ => true }
  let dead := (w.loops.filter fun l => l.mask = 0).map (·.id)
  { w with
    loops := w.loops.filter fun l => l.mask != 0
    split := w.split.filter fun (x : Nat × Entry) => match x.2 with
      | .frag _ => true
      | .join j => match j.loop with
        | some id => !(dead.contains id && j.arrived = 0)
        | none => true }

/-- All satisfactions that are due, innermost first. With `strict`, a loop step of one of those loops that finds no
entry is none: the instruction raises STACK (05 R143); any other such step waits. -/
def Wave.settle (strict : List Nat) (now : Nat) : Nat → Wave → Option Wave
  | 0, w => some w
  | n + 1, w0 =>
    let w := w0.sweep
    match w.satisfied? with
    | none => some w
    | some (e, j) =>
      match w.satisfy e j now with
      | .ok w' => w'.settle strict now n
      | .blocked w' =>
        if (match j.loop with
            | some id => strict.contains id
            | none => false) then none
        else w'.settle strict now n

/-- The settlement of a wave after slots have left it (01 R17). -/
def Wave.settled (w : Wave) (now : Nat) : Wave := (w.settle [] now 40).getD w

/-- Loop steps that wait take an entry as soon as one is empty (05 R143). -/
def Wave.resumeLoops (now : Nat) : Nat → Wave → Wave
  | 0, w => w
  | n + 1, w =>
    match (List.range 16).findSome? fun e => match w.frag? e with
        | some f => match f.st with
          | .waiting (.loopStep id) => some (e, f, id)
          | _ => none
        | none => none with
    | none => w
    | some (e, f, id) =>
      match w.loops.find? fun l => l.id = id with
      | none => w.setFrag e { f with st := .ready }
      | some l =>
        match w.loopMove e l f.link f.mask with
        | .blocked _ => w
        | .ok w' => ((w'.onFrag e fun x => { x with st := .ready }).settled now).resumeLoops now n

/-! ## Leaving loops (05 R134, R144, R145) -/

/-- A set of slots leaves one loop: the loop's mask, the wait masks from the link up to the loop's record; the new
link is the record's parent. -/
def Wave.leaveLoop (w : Wave) (id : Nat) (m : DWord) (link : Option Nat) : Wave × Option Nat :=
  let w := w.onLoop id fun l => { l with mask := l.mask &&& ~~~m }
  match w.loopRec id with
  | none => (w, link)
  | some e =>
    let ch := w.chainOf link
    let upto := if ch.contains e then ch.takeWhile (· != e) ++ [e] else []
    let parent := match w.join? e with
      | some j => j.parent
      | none => none
    (w.clearWait upto m, if ch.contains e then parent else link)

/-- The loops that slots leave on a taken transfer, innermost first: those whose range does not contain the target;
`force` leaves the innermost whatever its range (05 R145). DEDUCED (assumption log 110): a transfer inside called code leaves
a caller's loop like any other. -/
def Wave.leaving (w : Wave) (m : DWord) (target : Pc) (force : Bool) : List Nat :=
  let held := w.loops.filter fun l => l.mask &&& m != 0
  (held.filter fun l => !(l.start.ule target && target.ule l.stop) ||
    (force && (match held.head? with
      | some h => h.id = l.id
      | none => false))).map (·.id)

/-- The slots leave those loops. -/
def Wave.leaveAll (w : Wave) (ids : List Nat) (m : DWord) (link : Option Nat) : Wave × Option Nat :=
  ids.foldl (fun p id => p.1.leaveLoop id m p.2) (w, link)

/-! ## Transfers (05 R132) -/

/-- How a transfer treats the loops of the slots that take it: branches and jumps, lexit, or call and ret. -/
inductive Leaves where
  | byRange | lexit | never
  deriving DecidableEq, Repr

/-- The slots of a set that arrive at a loop end when an instruction of `size` words at pc completes, and the loop
(05 R143). -/
def Wave.arrivals (w : Wave) (pc : Pc) (size : Nat) (m : DWord) : Option (LoopEnt × DWord) :=
  match w.innermost m with
  | some l => if l.stop = pc || (size = 2 && l.stop = pcPlus pc 1) then some (l, l.mask &&& m) else none
  | none => none

/-- New fragments for groups of slots, in the lowest empty entries in the order given. -/
def Wave.place (w : Wave) (f : Fragment) : List (Pc × DWord) → Option Wave
  | [] => some w
  | g :: r =>
    match w.emptyEntry with
    | none => none
    | some e => (w.setFrag e { f with pc := g.1, mask := g.2, st := .ready }).place f r

/-- The fragment of a set of slots takes a new join link. -/
def Wave.relink (w : Wave) (m : DWord) (link : Option Nat) : Wave :=
  { w with split := w.split.map fun (x : Nat × Entry) => match x.2 with
      | .frag y => if y.mask = m && y.mask != 0 then (x.1, Entry.frag { y with link := link }) else x
      | .join _ => x }

/-- Slots of the fragment in entry e move: `taken` gives the targets, ascending, each with its slots; the others go on
after the instruction or arrive at a loop end. The first group keeps the entry when nothing stays in it. None is
STACK: nothing has changed (05 R132, R134, R143). `at` is the earliest cycle of a first issue after a taken transfer. -/
def Wave.transfer (w : Wave) (e : Nat) (f : Fragment) (size : Nat) (rule : Leaves) (taken : List (Pc × DWord))
    (stay : DWord) (now at' : Nat) : Option Wave :=
  let arr := w.arrivals f.pc size stay
  let arrived := match arr with
    | some x => x.2
    | none => 0
  let go := stay &&& ~~~arrived
  let base := { f with st := .ready, notBefore := at' }
  -- who keeps the entry, and who needs a new one
  let kept : Option (Pc × DWord) := if go != 0 then some (pcPlus f.pc size, go) else taken.head?
  let fresh := if go != 0 then taken else taken.tail
  let w1 := match kept with
    | some k => w.setFrag e { base with pc := k.1, mask := k.2, notBefore := if go != 0 then now else at' }
    | none => w.freeEntry e
  match w1.place base fresh with
  | none => none
  | some w2 =>
    -- the slots that take the transfer leave loops, and their fragments take the new link
    let w3 := if rule = .never then w2
      else taken.foldl (fun w g =>
        let ids := w.leaving g.2 g.1 (rule = .lexit)
        let p := w.leaveAll ids g.2 f.link
        p.1.relink g.2 p.2) w2
    -- arrivals
    match arr with
    | none => (w3.settle [] now 40).map (·.resumeLoops now 16)
    | some (l, m) =>
      match w3.loopRec l.id with
      | some r => ((w3.arrive r m).settle [l.id] now 40).map (·.resumeLoops now 16)
      | none => (w3.settle [] now 40).map (·.resumeLoops now 16)

/-- The fragment goes on after its instruction, all its slots together (01 R17; 05 R143). -/
def Wave.advance (w : Wave) (e : Nat) (f : Fragment) (size now : Nat) : Option Wave :=
  w.transfer e f size .never [] (f.mask &&& w.alive) now now

/-! ## Slots that leave (01 R23) -/

/-- Dead or exited slots leave every fragment, record and loop. -/
def Wave.removeSlots (w : Wave) (m : DWord) (now : Nat) : Wave :=
  let cut : Nat × Entry → Nat × Entry := fun x => match x.2 with
    | .frag f => (x.1, Entry.frag { f with mask := f.mask &&& ~~~m })
    | .join j => (x.1, Entry.join { j with wait := j.wait &&& ~~~m, arrived := j.arrived &&& ~~~m })
  let w := { w with split := w.split.map cut, loops := w.loops.map fun (l : LoopEnt) => { l with mask := l.mask &&& ~~~m } }
  (w.settled now).resumeLoops now 16

/-- The wave has ended: no slot is alive (01 R24). -/
def Wave.ended (w : Wave) : Bool := w.alive = 0

end Sys2Proof.Machine
end

