-- ==== Sys2Proof/Machine/Ops.lean ====
section
/-! DEFINITION. What every instruction shares: the issuing fragment, the end of an instruction, slot death, the end of
waves and groups, taking a trap and returning from it, and the checks before an instruction's own (01 R22 to R24, R34,
R38 to R42; 05 R147 to R151; 06 R192, R427; 11 R316, R318). -/

namespace Sys2Proof.Machine

/-- The outcome of the model. -/
abbrev Out := Host.Outcome State Fault Refusal

/-! ## The issuing fragment -/

/-- The issuing fragment: its place, its group, its wave as it is written, and the wave as it is read (the same but in
a co-issue, 01 R21). -/
structure Frame where
  gid : Nat
  wid : Nat
  ent : Nat
  g : Group
  w : Wave
  v : Wave
  f : Fragment
  deriving DecidableEq, Repr

/-- The frame of the issuing fragment, if a fragment is issuing. -/
def State.frame? (s : State) : Option Frame :=
  match s.cur with
  | .wave gid wid ent =>
    match s.groups.look gid with
    | none => none
    | some g =>
      match g.waves.look wid with
      | none => none
      | some w =>
        match w.frag? ent with
        | none => none
        | some f => some { gid := gid, wid := wid, ent := ent, g := g, w := w, v := s.view.getD w, f := f }
  | _ => none

/-- The set F: the slots of the fragment that are alive (05 R129). -/
def Frame.act (fr : Frame) : DWord := fr.f.mask &&& fr.v.alive
/-- The slots that pass the guard too (00 R9; 01 R34). -/
def Frame.part (fr : Frame) : DWord := fr.act &&& maskWhere fr.v.passes
/-- Slot u: the lowest of F (05 R129). -/
def Frame.u (fr : Frame) : Nat := (lowest fr.act).getD 0
/-- The wave's scope, time-out and privilege, read when the instruction issues. -/
def Frame.priv (fr : Frame) : Bool := fr.w.priv
/-- The work identifier of a slot (01 R12). -/
def Wave.slotId (w : Wave) (t : Nat) : DWord := w.workId + BitVec.ofNat 64 t

/-- Registers of a wave are written outside the issue of an instruction: the hold latch of its lane block drops them (01
R31). -/
def State.unlatch (s : State) (gid wid : Nat) (rs : List Nat) : State :=
  match s.groups.look gid, s.wave? gid wid with
  | some g, some w => s.onCore g.core fun c => c.onBlock (w.slot % 4) fun b =>
      { b with latch := b.latch.filter fun l => !(l.gid = gid && l.wave = wid && rs.contains l.reg) }
  | _, _ => s
/-- The wave of the frame replaced. -/
def State.putWave (s : State) (fr : Frame) (w : Wave) : State := s.setWave fr.gid fr.wid w

/-! ## Groups and gangs end (01 R24; 11 R316, R318) -/

/-- The pins the ladle noted for a group are cleared (11 R316). -/
def State.unpin (s : State) (g : Group) : State :=
  s.onCore g.core fun c =>
    { c with tags := g.notes.foldl (fun t k => t.change k fun e => { e with pinned := false }) c.tags }

/-- The launch of a group. -/
def State.launchOf (s : State) (g : Group) : Option Launch := (s.context g.ctx).launches.look g.serial
/-- The members of the gang of a group, one for a launch without gangs (11 R304). -/
def State.gangSize (s : State) (g : Group) : Nat :=
  match s.launchOf g with
  | some l => l.hdr.gm + 1
  | none => 1
/-- The groups of the same gang on this device. -/
def Group.sameGang (g h : Group) : Bool := g.ctx = h.ctx && g.serial = h.serial && g.unit = h.unit

/-- The device of a gang member (11 R304). -/
def Header.memberDevice (h : Header) (m : Nat) : Nat := h.gdev + m * h.gstr
/-- The devices that run a member of a gang. -/
def Header.devices (h : Header) : List Nat := ((List.range (h.gm + 1)).map h.memberDevice).eraseDups
/-- The tick by which a message arrives: within 2^10 ticks for a withdrawal (06 R193). -/
def GangWord.due (x : GangWord) (now : Nat) : Option Nat :=
  match x with
  | .left _ true => some (now + 1024)
  | _ => none
/-- A message about a unit of a gang goes to some of the other devices that run its members (assumption log 105). -/
def State.mailGang (s : State) (ctx : Nat) (h : Header) (unit : Nat) (devs : List Nat) (what : GangWord) : State :=
  { s with mail := s.mail ++ (devs.filter (· != s.dev.devnum)).map fun d =>
      { dev := d, ctx := ctx, gid := h.gid, unit := unit, what := what, due := what.due s.tick } }
/-- A message reaches its device. -/
def State.deliver (s : State) (m : GangMail) : Option State :=
  if s.mail.contains m then some { s with mail := s.mail.erase m } else none

/-- A drained core that no group is left on comes under assay (11 R325; 14 R375). -/
def State.startAssay (s : State) (core : Nat) : State :=
  if (s.core core).drained && (s.core core).assay.isNone && !s.groups.any fun e => e.2.core = core then
    s.onCore core fun c => { c with assay := some s.tick }
  else s

/-- A group leaves its core: its region is freed and its slots' entries are invalid, its pins are cleared, and the matrix
side is released once its queue has run (07 R198, R222; 10 R289). -/
def State.removeGroup (s : State) (gid : Nat) (g : Group) (discard : Bool) : State :=
  let s := s.unpin g
  let s := s.onCore g.core fun c =>
    { c with tags := c.tags.filter fun e => !(g.base ≤ e.1 && e.1 < g.base + g.size) }
  let s := s.onCore g.core fun c =>
    if c.mat.holder = some gid then
      if c.mat.queue = [] then { c with mat := Matrix.empty } else { c with mat := { c.mat with discard := discard } }
    else c
  ({ s with groups := s.groups.del gid } : State).startAssay g.core

/-- Every other member of the gang has detached or ended (06 R193; 11 R318). -/
def State.peersGone (s : State) (g : Group) : Bool :=
  (List.range (s.gangSize g)).all fun m => m = g.member || g.left.contains m

/-- Held members whose peers have all gone are released (11 R318). -/
def State.releaseHeld (s : State) : State :=
  let s := s.groups.foldl (fun s e => if e.2.held && s.peersGone e.2 then s.removeGroup e.1 e.2 false else s) s
  { s with saved := s.saved.filter fun e => !(e.2.held && s.peersGone e.2) }

/-- The other members of the gang learn that a member has detached or ended, or is withdrawn: those on this device now,
those of other devices by a message. -/
def State.tellGang (s : State) (g : Group) (member : Nat) (withdrawn : Bool) : State :=
  let tell : Group → Group := fun h =>
    if h.sameGang g && h.member != member then
      { h with left := if h.left.contains member then h.left else member :: h.left,
               gone := if withdrawn && !h.gone.contains member then member :: h.gone else h.gone }
    else h
  let s := { s with groups := s.groups.map fun (e : Nat × Group) => (e.1, tell e.2),
                    saved := s.saved.map fun (e : Nat × Group) => (e.1, tell e.2) }
  (match s.launchOf g with
    | some l => s.mailGang g.ctx l.hdr g.unit l.hdr.devices (.left member withdrawn)
    | none => s).releaseHeld

/-- A group whose waves have all ended: a gang member with an attached peer is held, any other ends (01 R24; 11 R318). -/
def State.groupEnd (s : State) (gid : Nat) : State :=
  match s.groups.look gid with
  | none => s
  | some g =>
    if g.waves != [] || g.held then s
    else if s.gangSize g = 1 then s.removeGroup gid g false
    else if g.present && !s.peersGone g then
      (s.setGroup gid { g with held := true }).tellGang g g.member false
    else (s.removeGroup gid g false).tellGang g g.member true

/-- The deferred faults of a wave that ends are posted (06 R192, R427). -/
def State.postDeferred (s : State) (g : Group) (w : Wave) : State :=
  let s := match w.dfr with
    | some d => s.post g.ctx { workId := w.slotId ((lowest d.slots).getD 0), addr := d.target, cause := d.cause.code,
                               core := g.core }
    | none => s
  match w.efr with
  | some e => s.post g.ctx { workId := w.slotId ((lowest e.slots).getD 0), addr := e.addr, cause := 0x0B,
                             core := g.core }
  | none => s

/-- A group's arrival at its barrier is complete: every alive slot of every wave that no trap suspends waits at bar
(06 R181; assumption log 21). -/
def Wave.atBar (w : Wave) : DWord :=
  w.split.foldl (fun m (x : Nat × Entry) => match x.2 with
    | .frag f => if f.st = .waiting .barrier && !f.suspended then m ||| f.mask else m
    | .join _ => m) 0
/-- The slots a wave's handler runs: those of its fragments, and those that wait at join records made since trap entry. -/
def Wave.handlerSlots (w : Wave) : DWord :=
  w.split.foldl (fun m (x : Nat × Entry) => match x.2 with
    | .frag f => if f.suspended then m else m ||| f.mask
    | .join j => if j.inTrap then m ||| j.arrived else m) 0
/-- The slots of a wave that a barrier waits for: in a handler, the handler's alone (06 R181). -/
def Wave.barSlots (w : Wave) : DWord := if tsNest w.tstat then w.handlerSlots &&& w.alive else w.alive
/-- The barrier of a group completes. -/
def Group.barDone (g : Group) : Bool := g.waves != [] && g.waves.all fun e => e.2.atBar = e.2.barSlots
/-- The fragments of a wave that wait at bar go on after it. -/
def Wave.passBar (w : Wave) (now : Nat) : Wave :=
  (List.range 16).foldl (fun w e => match w.frag? e with
    | some f => if f.st = .waiting .barrier && !f.suspended then
        (w.advance e { f with st := .ready } 1 now).getD w else w
    | none => w) w
/-- A complete barrier lets its waves go on; every arriving slot acquires what the group has seen (06 R181; 09 R264). -/
def State.checkBar (s : State) (gid : Nat) : State :=
  match s.groups.look gid with
  | none => s
  | some g =>
    if g.barDone && g.waves.any fun e => e.2.atBar != 0 then
      let t := s.setGroup gid { g with waves := g.waves.map fun (e : Nat × Wave) => (e.1, e.2.passBar s.cycle) }
      g.waves.foldl (fun t e => t.heed gid e.1 e.2.atBar s.nextOp) t
    else s

/-- The trap of a wave ends: privilege back, suspended fragments back, the held event may be taken (05 R150). -/
def Wave.endTrap (w : Wave) : Wave :=
  { w with priv := tsPp w.tstat, tstat := w.tstat &&& ~~~0x41#32, heldSince := none, adopted := false,
           split := w.split.map fun (x : Nat × Entry) => match x.2 with
             | .frag f => (x.1, Entry.frag { f with suspended := false })
             | .join j => (x.1, Entry.join { j with inTrap := false }) }
/-- A wave whose handler has no fragment left, by exit or by death, ends its trap (05 R146; assumption log 22). -/
def Wave.handlerGone (w : Wave) : Bool :=
  tsNest w.tstat && !w.split.any fun x => match x.2 with
    | .frag f => !f.suspended
    | .join j => j.inTrap && j.arrived != 0
/-- The state of a wave after slots have left it. -/
def Wave.afterLoss (w : Wave) : Wave := if w.handlerGone then w.endTrap else w

/-- A wave after slots have left it: ended waves leave their group, and the group's barrier is looked at again. -/
def State.waveLoss (s : State) (gid wid : Nat) : State :=
  match s.groups.look gid with
  | none => s
  | some g =>
    match g.waves.look wid with
    | none => s
    | some w =>
      let w := w.afterLoss
      if w.ended then
        let s := s.postDeferred g w
        (((s.setGroup gid { g with waves := g.waves.del wid }).groupEnd gid).checkBar gid).moved
      else ((s.setWave gid wid w).checkBar gid).moved

/-- A request slot is free again, and its request is nowhere: not in flight, not in a pairing table (06 R190, R196). -/
def State.dropRequest (s : State) (core : Nat) (r : ReqSlot) : State :=
  let mine : Packet → Bool := fun p => p.ptype.toNat < 8 && p.sdev.toNat = s.dev.devnum && p.score.toNat = core &&
    p.rslot.toNat = r.slot && p.tdev.toNat = r.dev
  let s := s.onCore core fun c => { c with reqs := c.reqs.filter fun q => q != r }
  let s := { s with cores := s.cores.map fun (e : Nat × Core) => (e.1, { e.2 with pairs := e.2.pairs.filter fun p => !mine p }) }
  (s.net.filter mine).foldl (fun s p => s.leaves p) s
/-- The half of an exchange is discarded (06 R196). -/
def State.discardHalf (s : State) (id : Nat) (o : Op) : State :=
  let s := ((s.core o.core).reqs.filter fun r => r.op = id).foldl (fun s r => s.dropRequest o.core r) s
  { s with ops := s.ops.del id }
/-- The operation is half of an exchange. -/
def Op.isHalf (o : Op) : Bool :=
  match o.kind with
  | .exchange _ _ _ _ _ => true
  | _ => false
/-- Every half of a group is discarded. -/
def State.discardHalves (s : State) (gid : Nat) : State :=
  (s.ops.filter fun e => e.2.gid = gid && e.2.isHalf).foldl (fun s e => s.discardHalf e.1 e.2) s

/-- The operations of a terminated group are marked: engines' results for them are discarded (11 R326;
assumption log 104). -/
def State.voidOps (s : State) (gid : Nat) : State :=
  { s with ops := s.ops.map fun (e : Nat × Op) => if e.2.gid = gid then (e.1, { e.2 with void := true }) else e }
/-- The results of an operation are discarded. -/
def State.voided (s : State) (id : Nat) : Bool :=
  match s.ops.look id with
  | some o => o.void
  | none => false
/-- The deferred faults of every wave of a group are posted. -/
def State.postAllDeferred (s : State) (g : Group) : State := g.waves.foldl (fun s w => s.postDeferred g w.2) s
/-- The end of a group by force: a record is posted, its waves end and post their deferred faults, its region is freed, its
peers see it withdrawn (05 R149; 06 R192, R427; 11 R318, R326). Operations already issued complete without it, and engines'
results for it are discarded. -/
def State.terminate (s : State) (gid : Nat) (r : Option FaultRec) : State :=
  match s.groups.look gid with
  | none => match s.saved.look gid with
    | some g =>
      let s := (s.postAllDeferred g).voidOps gid
      let s := { s with saved := s.saved.del gid }
      ((if s.gangSize g = 1 then s else s.tellGang g g.member true)).moved
    | none => s
  | some g =>
    let s := match r with
      | some r => s.post g.ctx r
      | none => s
    let s := (s.postAllDeferred g).voidOps gid
    let s := s.removeGroup gid { g with waves := [] } true
    let s := s.discardHalves gid
    ((if s.gangSize g = 1 then s else s.tellGang g g.member true)).moved

/-! ## Slot death (01 R23; 14 R368) -/

/-- Slots of a wave die, each with a record at its address. A wave that is saved loses them too. -/
def State.killSlots (s : State) (gid wid : Nat) (dead : List (Nat × DWord)) : State :=
  match s.wave? gid wid, s.groups.look gid with
  | some w, some g =>
    let dead := dead.filter fun d => inMask w.alive d.1
    if dead = [] then s
    else
      let m := maskOf (dead.map (·.1))
      let s := dead.foldl (fun s d => s.post g.ctx
        { workId := w.slotId d.1, addr := d.2, cause := 0x20, core := g.core }) s
      (s.setWave gid wid ({ w with live := w.live &&& ~~~m }.removeSlots m s.cycle)).waveLoss gid wid
  | _, _ =>
    match (s.saved.look gid).bind (·.waves.look wid), s.saved.look gid with
    | some w, some g =>
      let dead := dead.filter fun d => inMask w.alive d.1
      let m := maskOf (dead.map (·.1))
      let s := dead.foldl (fun s d => s.post g.ctx
        { workId := w.slotId d.1, addr := d.2, cause := 0x20, core := g.core }) s
      { s with saved := s.saved.put gid (g.setWave wid ({ w with live := w.live &&& ~~~m }.removeSlots m s.cycle)) }
    | _, _ => s

/-! ## Traps (01 R39 to R42; 05 R147, R149) -/

/-- A trap to be taken: its cause, the slots that raise it, the register or address it names, and the slots that
completed the instruction. -/
structure TrapInfo where
  cause : Cause
  mask : DWord
  reg : Nat := 0
  addr : DWord := 0
  done : DWord := 0
  /-- The slots cr.TMASK records for a deferred fault (06 R192, R427). -/
  recorded : DWord := 0
  deriving DecidableEq, Repr

/-- The causes whose address goes to cr.TADDR (01 R39). -/
def Cause.hasAddr : Cause → Bool
  | .align | .page | .prot | .xpeer | .emptyTimeout | .cwDeparted | .cwDetached => true
  | _ => false

/-- cr.TCAUSE (01 R39). -/
def tcauseWord (c : Cause) (reg : Nat) (uni : Bool) : Word :=
  BitVec.ofNat 32 (c.code + reg % 128 * 256 + (if uni then 32768 else 0))
/-- cr.TSTAT after entry: nest, pp and frag are set, apend keeps its value (05 R147). -/
def tstatEntry (old : Word) (priv : Bool) (ent : Nat) : Word :=
  (old &&& 0x40#32) ||| BitVec.ofNat 32 (1 + (if priv then 2 else 0) + ent % 16 * 4)

/-- The trap registers, the privilege and the suspension of the other fragments at entry (05 R147 steps 1, 2 and 4). -/
def Wave.enterTrap (w : Wave) (ent : Nat) (pc : DWord) (tmask : DWord) (uni : Bool) (t : TrapInfo) : Wave :=
  { w with tpc := pc, tmask := tmask, tcause := tcauseWord t.cause t.reg uni,
           taddr := if t.cause.hasAddr then t.addr else 0, tstat := tstatEntry w.tstat w.priv ent, priv := true,
           split := w.split.map fun (x : Nat × Entry) => match x.2 with
             | .frag f => (x.1, Entry.frag { f with suspended := true })
             | .join _ => x }

/-- An asynchronous event reaches a wave while a trap is handled: it is held (05 R151). -/
def Wave.holdEvent (w : Wave) (now : Nat) : Wave :=
  if tsNest w.tstat && !tsApend w.tstat then { w with tstat := w.tstat ||| 0x40#32, heldSince := some now } else w

/-- The sets of F outside cr.TMASK, in the order they take entries: those that take the instruction again, then those
that completed it (05 R147 step 3). -/
def trapSets (act mask done : DWord) (pc : Pc) : List (Pc × DWord) :=
  let again := act &&& ~~~mask &&& ~~~done
  let fin := act &&& ~~~mask &&& done
  (if again = 0 then [] else [(pc, again)]) ++ (if fin = 0 then [] else [(pcPlus pc 1, fin)])

/-- The slots whose handler runs: those of F that raised the cause; all of F for a deferred fault none of whose slots is
in it (06 R192, R427; assumption log 23). -/
def handlerMask (act mask : DWord) : DWord := if mask &&& act = 0 then act else mask &&& act

/-- Taking a synchronous trap (05 R147). While nest is 1 it is a DOUBLE (05 R149); without a supervisor entry, or with
too few entries, the group is terminated with the original cause. `w` is the wave with what its slots completed. -/
def State.trap (s : State) (fr : Frame) (uni : Bool) (w : Wave) (t : TrapInfo) : State :=
  let act := fr.act
  let m := handlerMask act t.mask
  let pc := fr.f.pc
  let rec' : Nat → FaultRec := fun c =>
    { workId := w.slotId ((lowest m).getD 0), addr := pcAddr pc, cause := c, core := fr.g.core }
  if tsNest w.tstat then s.terminate fr.gid (some (rec' Cause.double.code))
  else
    let sup := (s.context fr.g.ctx).sup
    let sets := trapSets act m t.done pc
    if sup = 0 || w.emptyCount < sets.length then s.terminate fr.gid (some (rec' t.cause.code))
    else
      let w := w.enterTrap fr.ent (pcAddr pc) (if t.recorded = 0 then m else t.recorded) uni t
      let w := { w with adopted := t.recorded != 0 && t.mask &&& act = 0 }
      let w := if fr.g.saving then w.holdEvent s.tick else w
      match w.place { fr.f with suspended := true } sets with
      | none => s.terminate fr.gid (some (rec' t.cause.code))
      | some w =>
        (s.putWave fr (w.setFrag fr.ent
          { pc := pcOf sup, mask := m, st := .ready, link := fr.f.link, suspended := false,
            notBefore := s.cycle + 4 + 24 })).moved

/-- A trap with nothing completed. -/
def State.trapAll (s : State) (fr : Frame) (c : Cause) (mask : DWord) (reg : Nat) (addr : DWord) : State :=
  s.trap fr false fr.w { cause := c, mask := mask, reg := reg, addr := addr }

/-- Return from a trap to the slots R of cr.TMASK; the others of F exit (05 R150). A deferred fault that no slot of F raised
resumes all of F at its instruction (06 R192, R427; assumption log 23). -/
def State.trapReturn (s : State) (fr : Frame) : State :=
  let r := if fr.w.adopted then fr.act else fr.w.tmask &&& fr.act
  let gone := fr.act &&& ~~~r
  let w := fr.w.endTrap
  let w := { w with exited := w.exited ||| gone }
  let w := if r = 0 then w.freeEntry fr.ent
    else w.setFrag fr.ent { fr.f with pc := pcOf fr.w.tpc, mask := r, st := .ready, suspended := false,
                                      notBefore := s.cycle + 4 + 24 }
  (s.putWave fr (w.removeSlots gone s.cycle)).waveLoss fr.gid fr.wid

/-! ## The end of an instruction -/

/-- The fragment goes on after its instruction with a new wave; slots that arrive at a loop end do so. -/
def State.finish (s : State) (fr : Frame) (w : Wave) (i : Instr) : State :=
  match w.frag? fr.ent with
  | none => (s.putWave fr w).moved
  | some f => (s.putWave fr ((w.advance fr.ent { f with st := .ready } (sizeOf4 i / 4) s.cycle).getD w)).moved

/-- The fragment waits at its instruction and tests again once something has happened. -/
def State.holdOn (s : State) (fr : Frame) : State :=
  s.putWave fr (fr.w.setFrag fr.ent { fr.f with st := .waiting (.again s.progress) })
/-- A fragment whose instruction cannot issue now: one that is held there stays held as it was (08 R238; 09 R258). -/
def Fragment.stalled (f : Fragment) (now : Nat) : FragState :=
  match f.st with
  | .waiting (.held _ scope) => .waiting (.held now scope)
  | .waiting (.counters _) => .waiting (.counters now)
  | _ => .waiting (.again now)
/-- The fragment's instruction cannot issue now and is tried again once something has happened. -/
def State.stall (s : State) (fr : Frame) : State :=
  s.putWave fr (fr.w.setFrag fr.ent { fr.f with st := fr.f.stalled s.progress })
/-- A wait on counters has issued and is not over (06 R178, R179). -/
def State.awaitCounters (s : State) (fr : Frame) : State :=
  s.putWave fr (fr.w.setFrag fr.ent { fr.f with st := .waiting (.counters s.progress) })

/-- The scope an instruction was issued with: MODE.scope when it was first tried (09 R258). -/
def Frame.issueScope (fr : Frame) : Nat :=
  match fr.f.st with
  | .waiting (.held _ scope) => scope
  | _ => modeScope fr.v.mode
/-- The same, and a save of the group lets the instruction finish first (08 R238). -/
def State.holdFast (s : State) (fr : Frame) : State :=
  s.putWave fr (fr.w.setFrag fr.ent { fr.f with st := .waiting (.held s.progress fr.issueScope) })
/-- A submission or an update of the context's that is a release at device scope: it is made once the release is, and the
fragment waits until then (08 R238; 09 R270). -/
def State.afterRelease (s : State) (fr : Frame) (slots : DWord) (k : State → State) : State :=
  match s.releaseAt fr.gid fr.wid slots 4 with
  | none => s.holdFast fr
  | some s => k s

/-- The fragment waits at its instruction for a condition of its own. -/
def State.waitOn (s : State) (fr : Frame) (w : Wave) (st : FragState) : State :=
  (s.putWave fr (w.setFrag fr.ent { fr.f with st := st })).moved

/-- An instruction completed later, in place: the fragment in an entry goes on after it. -/
def State.complete (s : State) (gid wid ent : Nat) (upd : Wave → Wave) : State :=
  match s.wave? gid wid with
  | none => s
  | some w =>
    match w.frag? ent with
    | none => s
    | some f => (s.setWave gid wid (((upd w).advance ent { f with st := .ready } 1 s.cycle).getD (upd w))).moved
/-- An instruction completed later, in place, that writes registers. -/
def State.completeWith (s : State) (gid wid ent : Nat) (rs : List Nat) (upd : Wave → Wave) : State :=
  (s.unlatch gid wid rs).complete gid wid ent upd

/-! ## Before an instruction's own checks -/

/-- The registers an instruction reads or writes (06 R161, R427). -/
def touched (i : Instr) : List Nat := ((operands i).map Opnd.regs).flatten
/-- The instruction obeys the guard (01 R34; 04 R119, R120; 06 R158; 07 R202, R215; 08 R238) or reads it as sel does. -/
def obeysGuard (i : Instr) : Bool :=
  if opGroup i < 4 then match i with
    | .setm _ _ _ => false
    | .setmi _ => false
    | .getm _ _ _ => false
    | .tagw _ _ => false
    | _ => true
  else if opGroup i = 5 then match i with
    | .pref _ _ _ => false
    | _ => true
  else if opGroup i = 6 then (opcode i).getD 0 < 0x18C || (0x1A0 ≤ (opcode i).getD 0 && (opcode i).getD 0 < 0x1A8)
  else match i with
    | .mma _ _ _ _ => true
    | .accz _ _ => true
    | .tdrain _ _ _ => true
    | .histrd _ _ _ => true
    | .qpush _ _ _ _ => true
    | .qpop _ _ _ => true
    | _ => false
/-- The guard register that an instruction of a wave reads (01 R34). -/
def Wave.guardReg (w : Wave) (i : Instr) : List Nat :=
  if obeysGuard i && modeGuard w.mode != 0 then [modeGuard w.mode] else []
/-- The instruction waits on ctr.ld or reads it (06 R427). -/
def readsLd : Instr → Bool
  | .waitc _ _ _ ld => ld.toNat < 15
  | .waitr _ _ cls => cls.toNat = 0
  | .ctrr _ _ cls => cls.toNat = 0
  | _ => false
/-- A deferred load fault is due at the instruction (06 R427). -/
def Frame.loadFault (fr : Frame) (i : Instr) : Option LoadFault :=
  match fr.w.efr with
  | none => none
  | some e =>
    if readsLd i || (touched i ++ fr.w.guardReg i).any fun r => e.reg ≤ r && r < e.reg + e.count then some e else none

/-- The slot a uniform form acts for: the lowest that passes the guard (01 R22). -/
def Frame.uniformSlot (fr : Frame) : Option Nat := lowest fr.part
/-- The slots that raise a cause found before any slot's own: F, or slot u of a uniform form (01 R22). DESIGN CHOICE
(assumption log 56): where no slot u exists, an ILL or a STACK of a uniform form is raised for all of F. -/
def Frame.raisers (fr : Frame) (i : Instr) : DWord :=
  if isUniform i then
    match fr.uniformSlot with
    | some u => slotBit u
    | none => fr.act
  else fr.act

/-- Run an instruction on the issuing fragment of a core, after what comes first for every instruction: a deferred load
fault, ILL for its unit and register fields, PRIV, and STACK at a loop end (01 R41; 03 R80, R81; 05 R143; 06 R427). -/
def onCore (i : Instr) (s : State) (k : Frame → State) : Out :=
  match s.frame? with
  | none => .refused .noUnit
  | some fr =>
    match fr.loadFault i with
    | some e => .next (s.trap fr (isUniform i) { fr.w with efr := none }
        { cause := .emptyTimeout, mask := e.slots, addr := e.addr, recorded := e.slots })
    | none =>
      if !runsOn .core i then .next (s.trapAll fr .ill (fr.raisers i) 0 0)
      else match badOperand fr.g.regs i with
        | some r => .next (s.trap fr (isUniform i) fr.w { cause := .ill, mask := fr.raisers i, reg := r.toNat })
        | none =>
          if !numbersOk i then .next (s.trapAll fr .ill (fr.raisers i) 0 0)
          else if needsPrivilege i && !fr.priv then .next (s.trapAll fr .priv fr.act 0 0)
          else if !placesSlots i && (fr.w.advance fr.ent fr.f (sizeOf4 i / 4) s.cycle).isNone then
            .next (s.trap fr (isUniform i) fr.w { cause := .stack, mask := fr.raisers i })
          else .next (k fr)

end Sys2Proof.Machine
end

