-- ==== Sys2Proof/Machine/Objects.lean ====
section
/-! DEFINITION. Barrier objects and their updates, the waits that observe them and the event vector, the end of an
outstanding operation, and what every event ends with (05 R152; 06 R161, R182 to R186; 08 R254). -/

namespace Sys2Proof.Machine

/-! ## Barrier objects (06 R182, R183, R185) -/

/-- A 32-bit count plus n, saturating at its top. -/
def satAdd (x n : Nat) : Nat := if 0xFFFFFFFF ≤ x + n then 0xFFFFFFFF else x + n

/-- Bits of an object's status word are set. -/
def State.objectFlag (s : State) (ctx key bits : Nat) : State :=
  s.store ctx (key + 0x28) (bytesOf (s.num (key + 0x28) 4 ||| bits) 4)
/-- A count of an object grows. -/
def State.objectCount (s : State) (ctx key off n : Nat) : State :=
  s.store ctx (key + off) (bytesOf (satAdd (s.num (key + off) 4) n) 4)
/-- settled is set when enough arrivals are confirmed or failed. -/
def State.objectSettle (s : State) (ctx key : Nat) : State :=
  if s.num key 4 ≤ s.num (key + 0x10) 4 + s.num (key + 0x18) 4 then s.objectFlag ctx key 2 else s

/-- An arrival of phase `ph` and count n, confirmed at once or provisional (06 R183). -/
def State.arrive (s : State) (ctx key ph n : Nat) (sure : Bool) : State :=
  if s.num (key + 0x20) 4 != ph then s.objectFlag ctx key 16
  else
    let s := s.objectCount ctx key 0x08 n
    let s := if sure then s.objectCount ctx key 0x10 n else s
    let s := if s.num key 4 ≤ s.num (key + 0x08) 4 && s.num (key + 0x28) 4 % 2 = 0 then
        (s.objectFlag ctx key 1).store ctx (key + 0x30) (bytesOf s.tick 8)
      else s
    let s := if s.num key 4 < s.num (key + 0x08) 4 then s.objectFlag ctx key 8 else s
    s.objectSettle ctx key

/-- The outcome of an assay applied to an object: n arrivals of phase `ph` confirmed or failed (06 R185). -/
def State.confirm (s : State) (ctx key ph n : Nat) (passed : Bool) : State :=
  if s.num (key + 0x20) 4 != ph then s.objectFlag ctx key 16
  else if passed then (s.objectCount ctx key 0x10 n).objectSettle ctx key
  else ((s.objectCount ctx key 0x18 n).objectFlag ctx key 4).objectSettle ctx key

/-- The phase and the key of an object a submission names, if it names one and it can be reached. -/
def State.objectAt (s : State) (ctx : Nat) (va : DWord) (priv : Bool) : Option (Nat × Word) :=
  if va = 0 then none
  else match s.locate none ctx va .atomic priv with
    | .ok k => some (k, BitVec.ofNat 32 (s.num (k + 0x20) 4))
    | .error _ => none

/-- The arrival of an engine on the object named at acceptance (06 R183). -/
def State.arriveOn (s : State) (ctx : Nat) : Option (Nat × Word) → State
  | some (key, ph) => s.arrive ctx key ph.toNat 1 true
  | none => s

/-- The condition of a baro.wt and the status word it reads (06 R186). -/
def State.objectHolds (s : State) (ctx : Nat) (va : DWord) (settled : Bool) : Bool × Word :=
  match s.locate none ctx va .load true with
  | .error _ => (false, 0)
  | .ok k =>
    let have' := if settled then s.num (k + 0x10) 4 + s.num (k + 0x18) 4 else s.num (k + 0x08) 4
    (s.num k 4 ≤ have', BitVec.ofNat 32 (s.num (k + 0x28) 4))

/-! ## The event vector (05 R152; 08 R254) -/

/-- A quarter of an event vector. -/
def quarterOf (e : BitVec 256) (q : Nat) : DWord := e.extractLsb' (64 * (q % 4)) 64
/-- A mask of a quarter within the vector. -/
def quarterMask (m : DWord) (q : Nat) : BitVec 256 := m.setWidth 256 <<< (64 * (q % 4))
/-- The bits a waitv observes, and whether its condition holds. -/
def eventHolds (e : BitVec 256) (m : DWord) (q : Nat) (all : Bool) : Bool × DWord :=
  let x := quarterOf e q &&& m
  (if all then x = m else x != 0, x)

/-! ## Waits that end -/

/-- The result of a baro.wt or a pginv that ends (06 R186; 10 R296). -/
def Wave.objectResult (w : Wave) (d : Reg) (m : DWord) (x : Word) : Wave :=
  (w.writeCol d.toNat m fun _ => x).setTag d.toNat 0x11
/-- The result of a waitv that ends (05 R152). -/
def Wave.eventResult (w : Wave) (d : Reg) (m : DWord) (x : DWord) : Wave :=
  (w.writePair d.toNat m fun _ => x).setPairTag d.toNat 0x12

/-- The operation is a causeway access of a group that still lacks a response (06 R194). -/
def Op.causeway (o : Op) : Bool :=
  match o.kind with
  | .remote _ _ parts => parts.any fun p => p.pkt.kind && !p.answered
  | _ => false
/-- Every packet of an operation holds a request slot or has its response (06 R190). -/
def State.slotsHeld (s : State) (id : Nat) : Bool :=
  match s.ops.look id with
  | none => true
  | some o => match o.kind with
    | .remote _ _ parts => (List.range parts.length).all fun j =>
        (match parts[j]? with
          | some p => p.answered
          | none => true) || (s.core o.core).reqs.any fun r => r.op = id && r.pkt = j
    | _ => true
/-- An operation translated in a context still has to perform an access in [lo, hi) (10 R296). -/
def Op.within (o : Op) (ctx lo hi : Nat) : Bool :=
  o.ctx = ctx && (match o.kind with
    | .remote _ _ _ => false
    | _ => true) && o.accs.any fun a => !a.done && lo ≤ a.va.toNat && a.va.toNat < hi
/-- A command replaced. -/
def State.setCommand (s : State) (op : Nat) (c : Command) : State := { s with commands := s.commands.put op c }
/-- A microprogram load of an engine is outstanding, among the operations before a number (08 R241). -/
def State.loading (s : State) (engine before : Nat) : Bool :=
  s.ops.any fun e => e.1 < before && match e.2.kind with
    | .program g _ _ _ => g = engine
    | _ => false
/-- A member withdraws its window (06 R195). -/
def State.withdraw (s : State) (gid : Nat) : State :=
  match s.groups.look gid with
  | none => s
  | some g => if g.present then (s.setGroup gid { g with present := false }).tellGang g g.member true else s
/-- The half of an exchange ends in CW_DEPARTED (06 R196). -/
def State.departs (s : State) (gid wid ent id : Nat) : State :=
  match s.ops.look id, ({ s with cur := .wave gid wid ent } : State).frame? with
  | some o, some fr => match o.kind with
    | .exchange _ part _ _ _ => (s.discardHalf id o).trap fr false fr.w
        { cause := .cwDeparted, mask := maskOf part.slots, addr := part.pkt.desc ++ 0#32 }
    | _ => s
  | _, _ => s
/-- The partner of a half was withdrawn before the deadline of the half (06 R196). -/
def State.deserted (s : State) (gid id : Nat) : Bool :=
  match s.ops.look id, s.groups.look gid with
  | some o, some g => match o.kind with
    | .exchange _ _ partner _ deadline => g.gone.contains partner && s.tick < deadline
    | _ => false
  | _, _ => false
/-- A wait for an exchange ends when it has been paired, or in CW_DEPARTED when its partner is withdrawn before its deadline:
what comes first counts (06 R196). -/
def State.wakeExchange (s : State) (gid wid ent id : Nat) : State :=
  if (s.ops.look id).isNone then s.complete gid wid ent fun w => w
  else if s.deserted gid id then s.departs gid wid ent id
  else s
/-- The registers a result of one word or of a pair is written to. -/
def resultRegs (d : Reg) (pair : Bool) : List Nat := if pair then [d.toNat, d.toNat + 1] else [d.toNat]
/-- The result of a wait as it is written: a pair for waitv, a word for any other. -/
def Wave.dueResult (w : Wave) (d : Reg) (pair : Bool) (m : DWord) (x : DWord) : Wave :=
  if pair then w.eventResult d m x else w.objectResult d m (x.extractLsb' 0 32)
/-- A wait of a fragment has come true with a result: it is written and the fragment goes on, or, while a trap suspends the
fragment, it is kept until TRET (05 R147; assumption log 100). -/
def State.comeTrue (s : State) (gid wid ent : Nat) (f : Fragment) (alive : DWord) (d : Reg) (pair : Bool) (x : DWord) : State :=
  if f.suspended then
    match s.wave? gid wid with
    | some w => s.setWave gid wid (w.setFrag ent { f with st := .waiting (.due d pair x) })
    | none => s
  else s.completeWith gid wid ent (resultRegs d pair) fun w => w.dueResult d pair (f.mask &&& alive) x
/-- A wait is looked at whose truth counts from its moment on, though a trap suspends its fragment: a waitv; a baro.wt, which
ends as a time-out instead once its deadline has passed (06 R186); an nmsw, which is performed once the loads before it are (08
R239, R241); and an exchange whose partner is withdrawn (06 R196). -/
def State.wakeOnTruth (s : State) (gid wid ent : Nat) (f : Fragment) (ctx : Nat) (alive : DWord) : State :=
  match f.st with
  | .waiting (.object d va settled deadline) =>
    let h := s.objectHolds ctx va settled
    if h.1 && s.tick ≤ deadline then (s.heed gid wid (f.mask &&& alive) s.nextOp).comeTrue gid wid ent f alive d false (h.2.setWidth 64)
    else s
  | .waiting (.event d m q all _) =>
    let h := eventHolds (s.context ctx).events m q all
    if h.1 then s.comeTrue gid wid ent f alive d true h.2 else s
  | .waiting (.switch d e bank before) =>
    if s.loading e before then s
    else (s.setEngine e { s.engine e with active := bank }).comeTrue gid wid ent f alive d false 1
  | .waiting (.exchange id) =>
    match s.wave? gid wid with
    | some w => if s.deserted gid id then s.setWave gid wid (w.setFrag ent { f with st := .waiting (.departed id) }) else s
    | none => s
  | _ => s
/-- A fragment whose wait has come true goes on; other waits of a suspended fragment are looked at after TRET
(05 R147). -/
def State.wakeOne (s : State) (gid wid ent : Nat) (f : Fragment) (ctx : Nat) (alive : DWord) : State :=
  if f.suspended then s.wakeOnTruth gid wid ent f ctx alive
  else match f.st with
    | .waiting (.object _ _ _ _) => s.wakeOnTruth gid wid ent f ctx alive
    | .waiting (.event _ _ _ _ _) => s.wakeOnTruth gid wid ent f ctx alive
    | .waiting (.due d pair x) => s.comeTrue gid wid ent f alive d pair x
    | .waiting (.exchange id) => s.wakeExchange gid wid ent id
    | .waiting (.departed id) => s.departs gid wid ent id
    | .waiting (.slots id) => if s.slotsHeld id then s.complete gid wid ent fun w => w else s
    | .waiting (.drain d lo hi before) =>
      if s.ops.any fun e => e.1 < before && e.2.within ctx lo hi then s
      else (s.roRefresh ctx lo hi).comeTrue gid wid ent f alive d false 0
    | .waiting (.switch _ _ _ _) => s.wakeOnTruth gid wid ent f ctx alive
    | .waiting (.command d id) =>
      match s.commands.look id with
      | some c => match c.answer with
        | some x =>
          let s := if c.accepted then s.setCommand id { c with answer := none }
            else { s with commands := s.commands.del id, ops := s.ops.del id }
          s.comeTrue gid wid ent f alive d false (x.setWidth 64)
        | none => s
      | none => s
    | .waiting (.detach before leave) =>
      if s.ops.any fun e => e.1 < before && e.2.gid = gid && e.2.causeway then s
      else (if leave then s.withdraw gid else s).complete gid wid ent fun w => w
    | .waiting (.fence scope before) =>
      match s.releaseUpTo gid wid (BitVec.allOnes 64) scope before with
      | some s => (s.heed gid wid (BitVec.allOnes 64) before).complete gid wid ent fun w => w
      | none => s
    | .waiting (.arriving scope before) =>
      match s.releaseUpTo gid wid (f.mask &&& alive) scope before, s.wave? gid wid with
      | some s, some w => (s.setWave gid wid (w.setFrag ent { f with st := .waiting .barrier })).checkBar gid
      | _, _ => s
    | _ => s

/-- The fragments of a list that are ready. -/
def State.stillReady (s : State) (l : List (Nat × Nat × Nat)) : List (Nat × Nat × Nat) :=
  l.filter fun x => match (s.wave? x.1 x.2.1).bind (·.frag? x.2.2) with
    | some f => f.st = .ready && !f.suspended
    | none => false
/-- What the fragments of a wave that yielded watch, changed. -/
def Wave.onYields (w : Wave) (f : Nat → List (Nat × Nat × Nat) → Nat → List (Nat × Nat × Nat) × Nat) : Wave :=
  { w with split := w.split.map fun (e : Nat × Entry) => match e.2 with
      | .frag x => match x.st with
        | .sleeping (.turns l n) => (e.1, Entry.frag { x with st := .sleeping (.turns (f e.1 l n).1 (f e.1 l n).2) })
        | _ => e
      | .join _ => e }
/-- The fragments that yielded stop watching those that have stopped being ready (05 R153). -/
def State.watch (s : State) : State :=
  { s with groups := s.groups.map fun (g : Nat × Group) =>
      (g.1, { g.2 with waves := g.2.waves.map fun (w : Nat × Wave) =>
        (w.1, w.2.onYields fun _ l n => (s.stillReady l, n)) }) }

/-- The wait of the fragment in an entry is looked at again. -/
def State.wakeAt (s : State) (gid wid ent : Nat) : State :=
  match s.groups.look gid, s.wave? gid wid with
  | some g, some w => match w.frag? ent with
    | some f => s.wakeOne gid wid ent f g.ctx w.alive
    | none => s
  | _, _ => s
/-- Every wait of every resident group is looked at again. -/
def State.wake (s : State) : State :=
  (s.groups.foldl (fun s g => g.2.waves.foldl (fun s w => w.2.frags.foldl (fun s f =>
    s.wakeAt g.1 w.1 f.1) s) s) s).watch

/-! ## Outstanding operations -/

/-- An operation changed. -/
def State.setOp (s : State) (id : Nat) (o : Op) : State := { s with ops := s.ops.put id o }
/-- An operation that no longer counts on its counter. -/
def State.uncountOp (s : State) (id : Nat) (o : Op) : State :=
  match o.ctr with
  | some k => (s.onWave o.gid o.wave fun w => w.uncount k).setOp id { o with ctr := none }
  | none => s
/-- An operation that is over: its counter drops and it leaves the table (01 R36, R48). -/
def State.endOp (s : State) (id : Nat) (o : Op) : State :=
  let s := s.uncountOp id o
  { s with ops := s.ops.del id }
/-- A new outstanding operation; its counter is raised in the wave that issues it (01 R36). -/
def State.pushOp (s : State) (o : Op) : State :=
  { s with ops := s.ops.put s.nextOp o, nextOp := s.nextOp + 1 }
/-- The operation has nothing left to perform. -/
def Op.finished (o : Op) : Bool := o.accs.all (·.done)
/-- Changed accesses of an operation; it ends when nothing is left. -/
def State.putAccs (s : State) (id : Nat) (f : SlotAcc → SlotAcc) : State :=
  match s.ops.look id with
  | none => s
  | some o =>
    let o := { o with accs := o.accs.map f }
    if o.finished then (s.setOp id o).endOp id o else s.setOp id o

/-! ## Events -/

/-- An event runs when what it is about is in the state, and every wait is looked at again after it. -/
def onEvent (x : Option State) : Out :=
  match x with
  | some t => .next t.wake.moved
  | none => .refused .notEnabled

end Sys2Proof.Machine
end

