-- ==== Sys2Proof/Machine/Bank.lean ====
section
/-! DEFINITION. Bank programs: the cells of a bank, the lanes of a bank wave, control, and the start and end of a
launch (08 R224 to R234, R239, R245; 12 R327, R331). -/

namespace Sys2Proof.Machine

/-! ## Cells of a bank (10 R285, R286) -/

/-- The stack of an engine. -/
def stackOfEngine (e : Nat) : Nat := e / 64
/-- The die of a stack. -/
def dieOfStack (k : Nat) : Nat := k / 4
/-- The cell key of byte y of a row of a bank. -/
def bankKey (stack pch sid bank row y : Nat) : Nat :=
  let f := stack % 4 * 2 ^ 21 + pch * 2 ^ 15 + sid * 2 ^ 13 + row / 4
  keyOf (dieOfStack stack) 0 true (f * 2 ^ 16 + row % 4 * 2 ^ 14 + bank * 2 ^ 10 + y)
/-- The region of a launch, as its die's registry holds it. -/
def State.regionAt (s : State) (die ctx : Nat) (va : DWord) : Option Region :=
  (s.die die).regions.find? fun r => r.ctx = ctx && r.va = va
/-- The cell key of column word c of bank b in the row the program has opened. -/
def BankProg.column (r : Region) (bank row c : Nat) : Nat :=
  bankKey r.stack r.pch r.sid bank (r.rowBase + row) (32 * c)
/-- The lines of a region leave L2; memory keeps their bytes (08 R234). -/
def State.dropRegion (s : State) (die : Nat) (r : Region) : State :=
  s.onDie die fun d => { d with
    lines := r.frames.foldl (fun t f => Tab.delRange t (frameKey die f 0 / 128) 512) d.lines }

/-! ## The bank wave (08 R225) -/

/-- A register of a lane. -/
def BankProg.reg (p : BankProg) (n l : Nat) : Word := if n = 0 then 0 else (p.regs.lookD n []).lookD l 0
/-- A tag. -/
def BankProg.tag (p : BankProg) (n : Nat) : Byte := if n = 0 then 0x11 else p.tags.lookD n 0
/-- The lanes of a set, ascending. -/
def lanesOf (m : BitVec 128) : List Nat := (List.range 128).filter fun l => m.getLsbD l
/-- The lowest lane of the current mask. -/
def BankProg.lane? (p : BankProg) : Option Nat := (List.range 128).find? fun l => p.mask.getLsbD l
/-- A uniform operand: read in the lowest lane of the current mask. -/
def BankProg.uniform (p : BankProg) (r : Reg) : Option Word := p.lane?.map fun l => p.reg r.toNat l
/-- The lanes for which something holds. -/
def lanesWhere (q : Nat → Bool) : BitVec 128 :=
  (List.range 128).foldl (fun m l => if q l then m ||| (1#128 <<< l) else m) 0
/-- A register written in the lanes of a mask. -/
def BankProg.writeLanes (p : BankProg) (n : Nat) (m : BitVec 128) (f : Nat → Word) : BankProg :=
  if n = 0 then p
  else { p with regs := p.regs.write [] n ((List.range 128).filterMap fun l =>
      let x := if m.getLsbD l then f l else p.reg n l
      if x = 0 then none else some (l, x)) }
/-- A tag written. -/
def BankProg.setTag (p : BankProg) (n : Nat) (t : Byte) : BankProg :=
  if n = 0 then p else { p with tags := p.tags.write 0 n t }

/-! ## Control (08 R226) -/

/-- Words are counted modulo 2^30, as byte addresses are modulo 2^32. -/
def wordMod : Nat := 2 ^ 30
/-- A word n further on. -/
def wordPlus (pc : Nat) (n : Int) : Nat := (((pc : Int) + n) % (wordMod : Int)).toNat

/-- The end of an instruction one of whose words `here` is: the innermost loop that ends there loops back or pops; once it
has popped, so does the next with the same end (05 R143). -/
def loopBack (here : Nat → Bool) (next : Nat) : List BankLoop → List BankLoop × Nat
  | [] => ([], next)
  | l :: r =>
    if !here l.stop then (l :: r, next)
    else if l.count.toNat ≤ 1 then loopBack (· = l.stop) next r
    else ({ l with count := l.count - 1 } :: r, l.start)

/-- The program goes on after an instruction of n words. -/
def BankProg.advance (p : BankProg) (n : Nat) : BankProg :=
  let x := loopBack (fun k => p.pc ≤ k && k < p.pc + n) (wordPlus p.pc n) p.loops
  { p with loops := x.1, pc := x.2, count := p.count + 1 }

/-- A word number lies in a microprogram bank (03 R77). -/
def inBank (n : Nat) : Bool := n < 512
/-- jmp: entries whose range does not hold the target pop, innermost first. -/
def BankProg.jump (p : BankProg) (target : Nat) : BankProg :=
  { p with pc := target, count := p.count + 1,
           loops := p.loops.dropWhile fun l => !(l.start ≤ target && target ≤ l.stop) }

/-- The program of an engine replaced. -/
def State.setProg (s : State) (e : Nat) (p : BankProg) : State := s.setEngine e { s.engine e with prog := some p }

/-! ## The end of a program (08 R245 steps 5 to 8) -/

/-- The word number a program reports (08 R243). -/
def endWord (pc : Nat) : BitVec 9 := if pc < 512 then BitVec.ofNat 9 pc else Config.outsideWord pc

/-- A program ends with a completion code; one of a terminated group writes nothing (11 R326). -/
def State.endBank (s : State) (e : Nat) (code : Nat) : State :=
  let g := s.engine e
  match g.prog with
  | none => s
  | some p =>
    let l := p.launch
    let die := dieOfStack (stackOfEngine e)
    let s := s.setEngine e { g with prog := none, code := BitVec.ofNat 8 code, endPc := (endWord p.pc).toNat }
    let s := match s.regionAt die l.ctx l.regVa with
      | some r => s.dropRegion die r
      | none => s
    let s := if s.voided l.op then s else
      (s.store l.ctx (l.recKey + 0x3C) (bytesOf (code + p.flags.toNat * 2 ^ 8 + (endWord p.pc).toNat * 2 ^ 13) 4)).arriveOn
        l.ctx l.object
    match s.ops.look l.op with
    | some o => s.endOp l.op o
    | none => s

/-- A program ends because it met a poisoned word: one record names its address (08 R228; 14 R370). -/
def State.endBankPoison (s : State) (e : Nat) (va : DWord) : State :=
  match (s.engine e).prog with
  | none => s
  | some p => (s.post p.launch.ctx { workId := 0, addr := va, cause := 0x23, core := 0x7FF }).endBank e 0x23

/-! ## The start of a launch (08 R224, R225, R245 steps 1 to 4; 12 R331) -/

/-- The values R33 refuses for MODE, but for the guard (01 R33). -/
def modeRefused (m : Word) : Bool :=
  5 ≤ modeRnd m || m.getLsbD 23 || modeScope m = 7 || modeEtype m = 0 || !assignedTag (modeEtype m)
/-- The engine mode word is refused (08 R224). -/
def engineModeBad (regs : Nat) (m : Word) : Bool :=
  m.extractLsb' 22 10 != 0 || modeRefused m || regs ≤ modeGuard m

/-- The argument registers, one cell key for each lane's word. -/
def State.bankArgs (s : State) (keys : List Nat) : Tab (Tab Word) :=
  (List.range (keys.length / 128)).filterMap fun j =>
    let row : Tab Word := (List.range 128).filterMap fun l =>
      let x := BitVec.ofNat 32 (s.num (keys.getD (128 * j + l) 0) 4)
      if x = 0 then none else some (l, x)
    if row = [] then none else some (j + 1, row)

/-- The first poisoned word of an argument block, as a byte offset. -/
def State.firstPoison (s : State) (keys : List Nat) : Option Nat :=
  (List.range keys.length).findSome? fun u => if s.poisoned (keys.getD u 0) then some (4 * u) else none

/-- The result rows of a launch are marked empty. -/
def State.markEmpty (s : State) (ctx : Nat) (keys : List Nat) : State :=
  { s with empty := keys.foldl (fun t k => t.put (k / 128) ctx) s.empty }

/-- The engine starts its oldest queued launch (08 R245). -/
def State.startBank (s : State) (e : Nat) : Option State :=
  let g := s.engine e
  match g.prog, g.queue with
  | none, l :: rest =>
    let die := dieOfStack (stackOfEngine e)
    let s := match s.regionAt die l.ctx l.regVa with
      | some r => s.dropRegion die r
      | none => s
    let s := s.markEmpty l.ctx l.rowKeys
    let p : BankProg :=
      { launch := l, code := g.active, regs := s.bankArgs l.argKeys,
        tags := (List.range (l.argKeys.length / 128)).map fun j => (j + 1, modeEtype l.mode),
        mask := BitVec.allOnes 128, masks := [], loops := [], allBank := false, bank := 0, row := none, flags := 0,
        pc := l.start, count := 0 }
    let s := s.setEngine e { g with queue := rest, prog := some p }
    if engineModeBad 16 l.mode then some (s.endBank e 0x03)
    else match s.firstPoison l.argKeys with
      | some o => some (s.endBankPoison e (l.args + BitVec.ofNat 64 o))
      | none => some s
  | _, _ => none

/-! ## Running one instruction -/

/-- Run an instruction on an engine's program after the checks of 03 R81; any case of ILL ends the program. -/
def onBank (i : Instr) (s : State) (e : Nat) (k : BankProg → State) : Out :=
  match (s.engine e).prog with
  | none => .refused .noUnit
  | some p =>
    if !runsOn .bank i then .next (s.endBank e 0x01).moved
    else match badOperand 16 i with
      | some _ => .next (s.endBank e 0x01).moved
      | none => if numbersOk i then .next (k p).moved else .next (s.endBank e 0x01).moved

end Sys2Proof.Machine
end

