-- ==== Sys2Proof/Machine/Walk.lean ====
section
/-! DEFINITION. Walkers: one thread of a walk, its registers, the end of one and the checks before its instructions
(08 R227, R228; 12 R343). -/

namespace Sys2Proof.Machine

/-- A register of a walker. -/
def Walker.reg (w : Walker) (n : Nat) : Word := if n = 0 then 0 else w.regs.lookD n 0
/-- A tag. -/
def Walker.tag (w : Walker) (n : Nat) : Byte := if n = 0 then 0x11 else w.tags.lookD n 0
/-- A register written. -/
def Walker.setReg (w : Walker) (n : Nat) (x : Word) : Walker :=
  if n = 0 then w else { w with regs := w.regs.write 0 n x }
/-- A tag written. -/
def Walker.setTag (w : Walker) (n : Nat) (t : Byte) : Walker :=
  if n = 0 then w else { w with tags := w.tags.write 0 n t }
/-- The pair named by n. -/
def Walker.pair (w : Walker) (n : Nat) : DWord := if n = 0 then 0 else w.reg (n + 1) ++ w.reg n

/-- A walker replaced. -/
def State.setWalker (s : State) (id : Nat) (w : Walker) : State := { s with walkers := s.walkers.put id w }

/-- A walker ends with a completion code; the walk keeps the first code other than DONE and counts such ends
(12 R343). -/
def State.endWalker (s : State) (id : Nat) (code : Nat) : State :=
  match s.walkers.look id with
  | none => s
  | some w =>
    let s := { s with walkers := s.walkers.del id }
    match s.commands.look w.cmd with
    | none => s
    | some c =>
      if code = 0 then s
      else s.setCommand w.cmd
        { c with code := if c.code = 0 then BitVec.ofNat 8 code else c.code, ended := c.ended + 1 }

/-- A walker ends because it read a poisoned word, vector or record: one record of its command names the first address
(08 R228, R235; 12 R341). -/
def State.endWalkerPoison (s : State) (id : Nat) (va : DWord) : State :=
  match (s.walkers.look id).bind fun w => s.commands.look w.cmd with
  | none => s
  | some c =>
    let s := if c.poisonMet then s else s.post c.ctx { workId := 0, addr := va, cause := 0x23, core := 0x7FF }
    let s := match s.walkers.look id with
      | some w => s.setCommand w.cmd { c with poisonMet := true }
      | none => s
    s.endWalker id 0x23

/-- An instruction of a walk is counted against its budget before it runs (12 R343). -/
def State.countWalker (s : State) (op : Nat) (c : Command) : State := s.setCommand op { c with ran := c.ran + 1 }
/-- The walker goes to an address. -/
def State.walkTo (s : State) (id : Nat) (w : Walker) (c : Command) (pc : Nat) : State :=
  (s.setWalker id { w with pc := pc }).setCommand w.cmd c

/-- The walker goes on after an instruction of n words. -/
def State.walkOn (s : State) (id : Nat) (w : Walker) (c : Command) (n : Nat) : State :=
  s.walkTo id w c (w.pc + 4 * n)

/-- Run an instruction on a walker after the checks of 03 R81; any case of ILL ends the walker. -/
def onWalker (i : Instr) (s : State) (id : Nat) (k : Walker → Command → State) : Out :=
  match s.walkers.look id with
  | none => .refused .noUnit
  | some w =>
    match s.commands.look w.cmd with
    | none => .refused .noUnit
    | some c =>
      if !runsOn .walker i then .next (s.endWalker id 0x01).moved
      else match badOperand 32 i with
        | some _ => .next (s.endWalker id 0x01).moved
        | none => if numbersOk i then .next (k w c).moved else .next (s.endWalker id 0x01).moved

/-- Run an instruction on the unit that is issuing. -/
def onUnit (i : Instr) (s : State) (core : Frame → State) (bank : Nat → BankProg → State)
    (walker : Nat → Walker → Command → State) : Out :=
  match s.cur with
  | .bank e => onBank i s e (bank e)
  | .walker id => onWalker i s id (walker id)
  | _ => onCore i s core

/-- An instruction that runs on cores alone: another unit ends its program with ILL (03 R81). -/
def onCoreOnly (i : Instr) (s : State) (core : Frame → State) : Out :=
  onUnit i s core (fun e _ => s.endBank e 0x01) fun id _ _ => s.endWalker id 0x01

end Sys2Proof.Machine
end

