-- ==== Sys2Proof/Machine/Vec.lean ====
section
/-! DEFINITION. The execution of an instruction of opcode groups 0 to 3 on every unit: what it may read, its tag
checks, its result in each lane, and how the results are written (01 R22, R28, R32, R34, R35; 04 R91 to R93, R108;
08 R225, R227). -/

namespace Sys2Proof.Machine

/-- What an instruction of these groups reads. Lanes are the thread slots of a wave, the 128 lanes of a bank wave, or
lane 0 for a walker. `lanes` are those of "for each live active thread" with the guard, `all` those without it. -/
structure View where
  reg : Nat → Nat → Word
  tag : Nat → Byte
  mode : Word
  lanes : List Nat
  all : List Nat
  avail : Nat → Bool
  passes : Nat → Bool
  mask : DWord
  live : DWord
  slotId : Nat → DWord
  stat : Word

/-- A result of one lane: its bits and the flags it raises. -/
structure LaneRes where
  bits : DWord
  flags : FlagSet
  deriving DecidableEq, Repr

/-- A result without flags. -/
def LaneRes.of (x : Word) : LaneRes := { bits := x.setWidth 64, flags := 0 }
/-- A 64-bit result. -/
def LaneRes.of64 (x : DWord) : LaneRes := { bits := x, flags := 0 }
/-- A result of a number-format operation. -/
def LaneRes.ofRes (r : Res) : LaneRes := { bits := BitVec.ofNat 64 (r.bits % 2 ^ 32), flags := r.flags }

/-! ## Tags (01 R28; 04 R92, R93) -/

/-- Integer. -/
def isInt (t : Byte) : Bool := t = 0x10 || t = 0x11
/-- FP32. -/
def isFlt (t : Byte) : Bool := t = 0x20
/-- A half of a pair. -/
def isPair (t : Byte) : Bool := t = 0x12
/-- Packed 16-bit floats. -/
def isPk16 (t : Byte) : Bool := t = 0x21 || t = 0x22
/-- Four 8-bit integers. -/
def isI8 (t : Byte) : Bool := t = 0x30 || t = 0x31
/-- Eight 4-bit integers. -/
def isI4 (t : Byte) : Bool := t = 0x32 || t = 0x33
/-- Four binary8. -/
def isB8 (t : Byte) : Bool := let n := t.toNat; (0x42 ≤ n && n ≤ 0x4F) || (0x52 ≤ n && n ≤ 0x5F)
/-- ANY: every assigned code but 0x70 (02 R69); RAW fails under MODE.strict alone. -/
def isAny (t : Byte) : Bool := assignedTag t

/-- The tag after RAW substitution. -/
def View.res (v : View) (n : Nat) : Byte := if v.tag n = 0 then modeEtype v.mode else v.tag n
/-- A register passes a check (01 R28). -/
def View.ok (v : View) (c : Reg × (Byte → Bool)) : Bool :=
  let n := c.1.toNat
  n = 0 || (!(v.tag n = 0 && modeStrict v.mode) && c.2 (v.res n))
/-- The first register of a list of checks that fails. -/
def View.first (v : View) (cs : List (Reg × (Byte → Bool))) : Option Nat :=
  (cs.find? fun c => !v.ok c).map (·.1.toNat)
/-- The checks of a pair, low half first; the pair named by v0 passes (04 R93). -/
def pairCheck (r : Reg) : List (Reg × (Byte → Bool)) := if r = 0 then [] else [(r, isPair), (r + 1, isPair)]
/-- The operand whose tag decides, by 04 R92: a, or b when a is v0. -/
def chosen (a b : Reg) : Nat := if a = 0 then b.toNat else a.toNat
/-- Signed by 04 R92. -/
def View.signed (v : View) (a b : Reg) : Bool := v.res (chosen a b) = 0x10
/-- The tag of an integer result. -/
def intTag (signed : Bool) : Byte := if signed then 0x10 else 0x11
/-- A pair of a lane. -/
def View.pair (v : View) (r : Reg) (t : Nat) : DWord :=
  if r = 0 then 0 else v.reg (r.toNat + 1) t ++ v.reg r.toNat t
/-- The rounding controls. -/
def View.round (v : View) : Round := { rnd := modeRnd v.mode, sat := modeSat v.mode, ftz := modeFtz v.mode }
/-- A register read as an integer. -/
def View.int (v : View) (signed : Bool) (r : Reg) (t : Nat) : Int := intOf 32 signed (v.reg r.toNat t).toNat
/-- An integer result fitted to 32 bits (02 R50). -/
def View.fit (v : View) (signed : Bool) (x : Int) : LaneRes :=
  .of (BitVec.ofNat 32 (fitInt 32 signed (modeSat v.mode) x))

/-! ## The operation -/

/-- An operation of groups 0 to 3: its destination, whether that is a pair, whether it obeys the guard, the first
register that fails its tag check, the result tag (none leaves the tag), and the result of a lane. -/
structure VecOp where
  d : Reg
  wide : Bool
  guarded : Bool
  check : View → Option Nat
  tag : View → Option Byte
  val : View → Nat → LaneRes

/-- An operation with a 32-bit result that obeys the guard. -/
def vecOp (d : Reg) (checks : View → List (Reg × (Byte → Bool))) (tag : View → Byte) (val : View → Nat → LaneRes) :
    VecOp :=
  { d := d, wide := false, guarded := true, check := fun v => v.first (checks v), tag := fun v => some (tag v),
    val := val }
/-- An operation with a pair result, tagged 0x12 in both halves. -/
def pairOp (d : Reg) (checks : List (Reg × (Byte → Bool))) (val : View → Nat → DWord) : VecOp :=
  { d := d, wide := true, guarded := true, check := fun v => v.first checks, tag := fun _ => some 0x12,
    val := fun v t => .of64 (val v t) }

/-! ## On a core -/

/-- What the instruction of a frame reads. -/
def Frame.look (fr : Frame) : View :=
  { reg := fr.v.reg, tag := fr.v.tag, mode := fr.v.mode, lanes := slotsOf fr.part, all := slotsOf fr.act,
    avail := fun t => t < 64 && inMask fr.v.alive t, passes := fr.v.passes, mask := fr.act, live := fr.v.live,
    slotId := fr.v.slotId, stat := fr.v.statWord }

/-- Results written to the slots of a mask, and the tag to the wave. -/
def Wave.commit (w : Wave) (o : VecOp) (m : DWord) (f : Nat → DWord) (tag : Option Byte) : Wave :=
  let w := if o.wide then w.writePair o.d.toNat m f else w.writeCol o.d.toNat m fun t => (f t).extractLsb' 0 32
  match tag with
  | some t => if o.wide then w.setPairTag o.d.toNat t else w.setTag o.d.toNat t
  | none => w

/-- Flags added to STAT (01 R35). -/
def Wave.raise (w : Wave) (f : FlagSet) : Wave := { w with stat := w.stat ||| f.setWidth 32 }
/-- The flags of the lanes of a list. -/
def flagsOf (f : Nat → LaneRes) (ts : List Nat) : FlagSet := ts.foldl (fun g t => g ||| (f t).flags) 0

/-- A uniform form: slot u computes, every live slot is written (01 R22). -/
def VecOp.uniform (o : VecOp) (i : Instr) (s : State) (fr : Frame) : State :=
  match fr.uniformSlot with
  | none => s.finish fr fr.w i
  | some u =>
    match o.check fr.look with
    | some r => s.trap fr true fr.w { cause := .tag, mask := slotBit u, reg := r }
    | none => s.finish fr (fr.w.commit o fr.w.live (fun _ => (o.val fr.look u).bits) (o.tag fr.look)) i

/-- An instruction of groups 0 to 3 on a core (04 R91). DESIGN CHOICE (assumption log 98): a TAG trap names all of F, slots
that fail the guard among them. -/
def VecOp.core (o : VecOp) (i : Instr) (s : State) (fr : Frame) : State :=
  if isUniform i then o.uniform i s fr
  else
    let v := fr.look
    match o.check v with
    | some r => s.trap fr false fr.w { cause := .tag, mask := fr.act, reg := r }
    | none =>
      let m := if o.guarded then fr.part else fr.act
      let bad := if modeInvTrap v.mode then maskOf ((slotsOf m).filter fun t => hasIV (o.val v t).flags) else 0
      let good := m &&& ~~~bad
      let w := (fr.w.commit o good (fun t => (o.val v t).bits) (o.tag v)).raise (flagsOf (o.val v) (slotsOf good))
      if bad = 0 then s.finish fr w i
      else s.trap fr false w { cause := .fpinv, mask := bad, done := fr.act &&& ~~~bad }

/-! ## On a bank engine and on a walker -/

/-- What an instruction of a bank program reads (08 R225). -/
def BankProg.look (p : BankProg) : View :=
  { reg := p.reg, tag := p.tag, mode := p.launch.mode, lanes := lanesOf p.mask, all := lanesOf p.mask,
    avail := fun l => l < 128,
    passes := fun l =>
      let g := modeGuard p.launch.mode
      g = 0 || ((p.reg g l != 0) != modeSense p.launch.mode),
    mask := 0, live := 0, slotId := fun _ => 0, stat := 0 }

/-- An instruction of groups 0 to 3 in a bank program. -/
def VecOp.bank (o : VecOp) (i : Instr) (s : State) (e : Nat) (p : BankProg) : State :=
  let v := p.look
  match o.check v with
  | some _ => s.endBank e 0x02
  | none =>
    let q := p.writeLanes o.d.toNat p.mask fun l => (o.val v l).bits.extractLsb' 0 32
    let q := match o.tag v with
      | some t => q.setTag o.d.toNat t
      | none => q
    s.setProg e ({ q with flags := q.flags ||| flagsOf (o.val v) v.lanes }.advance (sizeOf4 i / 4))

/-- What an instruction of a walker reads (08 R227). -/
def Walker.look (w : Walker) (mode : Word) : View :=
  { reg := fun n _ => w.reg n, tag := w.tag, mode := mode, lanes := [0], all := [0], avail := fun t => t = 0,
    passes := fun _ =>
      let g := modeGuard mode
      g = 0 || ((w.reg g != 0) != modeSense mode),
    mask := 1, live := 1, slotId := fun _ => 0, stat := 0 }

/-- The results of one lane written to a walker. -/
def Walker.commit (w : Walker) (o : VecOp) (x : DWord) (tag : Option Byte) : Walker :=
  let n := o.d.toNat
  let w := w.setReg n (x.extractLsb' 0 32)
  let w := if o.wide && n != 0 then w.setReg (n + 1) (x.extractLsb' 32 32) else w
  match tag with
  | some t => let w := w.setTag n t; if o.wide && n != 0 then w.setTag (n + 1) t else w
  | none => w

/-- An instruction of groups 0 to 3 on a walker. -/
def VecOp.walker (o : VecOp) (i : Instr) (s : State) (id : Nat) (w : Walker) (c : Command) : State :=
  let v := w.look c.mode
  match o.check v with
  | some _ => s.endWalker id 0x02
  | none =>
    let r := o.val v 0
    let w := w.commit o r.bits (o.tag v)
    s.walkOn id { w with flags := w.flags ||| r.flags } c (sizeOf4 i / 4)

/-- An instruction of groups 0 to 3 on the unit that is issuing. -/
def vec (i : Instr) (o : VecOp) (s : State) : Out := onUnit i s (o.core i s) (o.bank i s) (o.walker i s)

end Sys2Proof.Machine
end

