-- ==== Sys2Proof/Machine/Control.lean ====
section
/-! DEFINITION. Control flow on every unit: branches, calls, join records, hardware loops, exit, traps and the waits of
opcode group 4 (05 R129 to R156; 08 R226, R227). -/

namespace Sys2Proof.Machine

/-! ## Transfers on a core (05 R132 to R138) -/

/-- The target of an offset in words (03 R77). -/
def pcOff (p : Pc) (off : BitVec 16) : Pc := p + off.signExtend 62

/-- The slots of F move: the transfer, or STACK with nothing changed. -/
def State.go (s : State) (fr : Frame) (w : Wave) (rule : Leaves) (taken : List (Pc × DWord)) (stay : DWord) : State :=
  match w.transfer fr.ent fr.f 1 rule taken stay s.cycle (s.cycle + 7) with
  | some w' => (s.putWave fr w').moved
  | none => s.trapAll fr .stack fr.act 0 0

/-- The fragment goes on in sequence with a wave of its own, or STACK at a loop end (05 R143). -/
def State.goOn (s : State) (fr : Frame) (w : Wave) : State :=
  match (w.frag? fr.ent).bind fun f => w.advance fr.ent f 1 s.cycle with
  | some w' => (s.putWave fr w').moved
  | none => s.trapAll fr .stack fr.act 0 0

/-- The slots of F with a nonzero value of a register. -/
def Frame.nonzero (fr : Frame) (a : Reg) : DWord := fr.act &&& maskWhere fun t => fr.v.reg a.toNat t != 0

/-- The targets of a pair, ascending, each with its slots. -/
def Frame.targets (fr : Frame) (a : Reg) : List (DWord × DWord) :=
  let t : Tab DWord := (slotsOf fr.act).foldl (fun t k =>
    Tab.modify t (fr.v.pair a.toNat k).toNat 0 fun m => m ||| slotBit k) []
  t.map fun x => (BitVec.ofNat 64 x.1, x.2)

/-- jmpr and ret (05 R137): all or nothing. -/
def State.jumpPair (s : State) (fr : Frame) (a : Reg) (rule : Leaves) : State :=
  let ts := fr.targets a
  match fr.w.transfer fr.ent fr.f 1 rule (ts.map fun x => (pcOf x.1, x.2)) 0 s.cycle (s.cycle + 7) with
  | none => s.trapAll fr .stack fr.act 0 0
  | some w' =>
    match fr.look.first (pairCheck a) with
    | some r => s.trapAll fr .tag fr.act r 0
    | none =>
      let bad := maskOf ((slotsOf fr.act).filter fun t => (fr.v.pair a.toNat t).extractLsb' 0 2 != 0)
      match lowest bad with
      | some t => s.trapAll fr .align bad 0 (fr.v.pair a.toNat t)
      | none => (s.putWave fr w').moved

/-- call: the link to every slot, the fragment to the target. -/
def State.callTo (s : State) (fr : Frame) (a : Reg) (off : BitVec 16) : State :=
  let w := (fr.w.writePair a.toNat fr.act fun _ => pcAddr (pcPlus fr.f.pc 1)).setPairTag a.toNat 0x12
  s.go fr w .never [(pcOff fr.f.pc off, fr.act)] 0

/-! ## Join records (05 R139 to R141) -/

/-- joinat. -/
def State.openJoin (s : State) (fr : Frame) (off : BitVec 16) : State :=
  match fr.w.emptyEntry with
  | none => s.trapAll fr .stack fr.act 0 0
  | some e =>
    let w := fr.w.setJoin e
      { pc := pcOff fr.f.pc off, wait := fr.act, arrived := 0, parent := fr.f.link, loop := none,
        inTrap := tsNest fr.w.tstat }
    s.goOn fr (w.setFrag fr.ent { fr.f with link := some e })

/-- A set of slots arrives at a record and its fragment's entry is freed. -/
def Wave.joins (w : Wave) (ent rec : Nat) (m : DWord) (now : Nat) : Wave :=
  (((w.freeEntry ent).arrive rec m).settled now).resumeLoops now 16

/-- join. -/
def State.joinHere (s : State) (fr : Frame) : State :=
  match fr.f.link with
  | none => s.goOn fr fr.w
  | some e => (s.putWave fr (fr.w.joins fr.ent e fr.act s.cycle)).moved

/-- The records brk takes its slots out of, and the record it comes to. -/
def Wave.brkWalk (w : Wave) (m : DWord) : Nat → Option Nat → Wave × Option Nat
  | 0, l => (w, l)
  | _, none => (w, none)
  | n + 1, some e =>
    match w.join? e with
    | none => (w, none)
    | some j =>
      let w := w.setJoin e { j with wait := j.wait &&& ~~~m }
      let w := match j.loop with
        | some id => w.onLoop id fun l => { l with mask := l.mask &&& ~~~m }
        | none => w
      w.brkWalk m n j.parent

/-- brk. -/
def State.breakOut (s : State) (fr : Frame) (n : Nat) : State :=
  let x := fr.w.brkWalk fr.act n fr.f.link
  match x.2 with
  | some e => (s.putWave fr (x.1.joins fr.ent e fr.act s.cycle)).moved
  | none => s.goOn fr (x.1.setFrag fr.ent { fr.f with link := none })

/-! ## Loops (05 R142, R145) -/

/-- loop. DESIGN CHOICE (assumption log 60): with count 0 it goes on after its own end and makes no arrival at an enclosing loop's
end, where it may stand itself or have its end. -/
def State.openLoop (s : State) (fr : Frame) (a : Reg) (off : BitVec 16) : State :=
  let c := fr.v.reg a.toNat fr.u
  let stop := pcOff fr.f.pc off
  let start := pcPlus fr.f.pc 1
  if off.toInt ≤ 0 then s.goOn fr fr.w
  else if c = 0 then
    (s.putWave fr (fr.w.setFrag fr.ent { fr.f with pc := pcPlus stop 1, st := .ready })).moved
  else if tsNest fr.w.tstat || 4 ≤ fr.w.loops.length then s.trapAll fr .stack fr.act 0 0
  else match fr.w.emptyEntry with
    | none => s.trapAll fr .stack fr.act 0 0
    | some e =>
      let id := fr.w.nextLoop
      let w := { fr.w with nextLoop := id + 1,
                           loops := { id := id, start := start, stop := stop, count := c, mask := fr.act } :: fr.w.loops }
      let w := w.setJoin e
        { pc := if c = 1 then pcPlus stop 1 else start, wait := fr.act, arrived := 0, parent := fr.f.link,
          loop := some id, inTrap := false }
      (s.putWave fr (w.setFrag fr.ent { fr.f with pc := start, link := some e, st := .ready })).moved

/-- lexit: without a loop it is a branch of its slots, all of F for v0 (assumption log 60). -/
def State.leaveTo (s : State) (fr : Frame) (a : Reg) (off : BitVec 16) : State :=
  let x := if a = 0 then fr.act else fr.nonzero a
  if x = 0 then s.goOn fr fr.w
  else s.go fr fr.w (if fr.w.loops = [] then .byRange else .lexit) [(pcOff fr.f.pc off, x)] (fr.act &&& ~~~x)

/-! ## exit, tret and the waits (05 R146, R150, R152 to R154) -/

/-- exit. -/
def State.exitSlots (s : State) (fr : Frame) : State :=
  let w := { fr.w with exited := fr.w.exited ||| fr.act }
  (s.putWave fr (w.removeSlots fr.act s.cycle)).waveLoss fr.gid fr.wid

/-- The handler has not come together again: another fragment runs, or a record made since trap entry holds slots. -/
def Wave.notConverged (w : Wave) (ent : Nat) : Bool :=
  w.split.any fun x => match x.2 with
    | .frag f => x.1 != ent && !f.suspended
    | .join j => j.inTrap && j.arrived != 0
/-- A trap found by tret while a trap is handled (05 R149). -/
def State.double (s : State) (fr : Frame) : State :=
  s.terminate fr.gid (some { workId := fr.w.slotId ((lowest fr.act).getD 0), addr := pcAddr fr.f.pc,
                             cause := Cause.double.code, core := fr.g.core })
/-- tret. -/
def State.returnFromTrap (s : State) (fr : Frame) : State :=
  if fr.w.notConverged fr.ent || fr.w.tpc.extractLsb' 0 2 != 0 then s.double fr else s.trapReturn fr

/-- waitv. -/
def State.waitEvents (s : State) (fr : Frame) (i : Instr) (d a b : Reg) : State :=
  let m := fr.v.pair a.toNat fr.u
  let x := fr.v.reg b.toNat fr.u
  let q := (x.extractLsb' 0 2).toNat
  let h := eventHolds (s.context fr.g.ctx).events m q (x.getLsbD 8)
  if h.1 then s.finish fr (fr.w.eventResult d fr.act h.2) i
  else s.waitOn fr fr.w (.waiting (.event d m q (x.getLsbD 8) (s.tick + modeTmo fr.v.mode)))

/-- The other fragments on a lane block of a core that are ready (05 R153). -/
def State.readyOn (s : State) (core block : Nat) : List (Nat × Nat × Nat) :=
  (s.groups.filter fun g => g.2.core = core).flatMap fun g =>
    (g.2.waves.filter fun w => w.2.slot % 4 = block).flatMap fun w =>
      (w.2.frags.filter fun f => f.2.st = .ready && !f.2.suspended).map fun f => (g.1, w.1, f.1)
/-- yield. -/
def State.yieldTurn (s : State) (fr : Frame) (i : Instr) : State :=
  let y := (s.readyOn fr.g.core (fr.w.slot % 4)).filter fun x => x != (fr.gid, fr.wid, fr.ent)
  if y = [] then s.finish fr fr.w i else s.waitOn fr fr.w (.sleeping (.turns y 64))
/-- sleep: at least n reference ticks and less than n + 1. -/
def State.sleepFor (s : State) (fr : Frame) (i : Instr) (n : Nat) : State :=
  if n = 0 then s.yieldTurn fr i else s.waitOn fr fr.w (.sleeping (.tick ((s.cycle + 7 * n + 6) / 7)))

/-! ## On a bank engine and on a walker (08 R226, R227) -/

/-- jmp in a bank program: a target outside the bank ends it with ILL (03 R77). -/
def State.bankJump (s : State) (e : Nat) (p : BankProg) (off : BitVec 16) : State :=
  let t := wordPlus p.pc off.toInt
  if inBank t then s.setProg e (p.jump t) else s.endBank e 0x01
/-- loop in a bank program; an end outside the bank ends it with ILL (03 R77). -/
def State.bankLoop (s : State) (e : Nat) (p : BankProg) (a : Reg) (off : BitVec 16) : State :=
  let c := (p.uniform a).getD 0
  let stop := wordPlus p.pc off.toInt
  if !inBank stop then s.endBank e 0x01
  else if off.toInt ≤ 0 then s.setProg e (p.advance 1)
  else if c = 0 then s.setProg e { p with pc := wordPlus stop 1, count := p.count + 1 }
  else if 4 ≤ p.loops.length then s.endBank e 0x0F
  else s.setProg e { p with loops := { start := wordPlus p.pc 1, stop := stop, count := c } :: p.loops,
                            pc := wordPlus p.pc 1, count := p.count + 1 }
/-- A byte address an offset in words away, modulo 2^32. -/
def byteOff (pc : Nat) (off : BitVec 16) : Nat := (((pc : Int) + 4 * off.toInt) % (2 ^ 32 : Nat)).toNat
/-- jmpr and ret of a walker. -/
def State.walkPair (s : State) (id : Nat) (w : Walker) (c : Command) (a : Reg) : State :=
  let x := w.pair a.toNat
  match (w.look c.mode).first (pairCheck a) with
  | some _ => s.endWalker id 0x02
  | none =>
    if x.extractLsb' 32 32 != 0 then s.endWalker id 0x01
    else if x.extractLsb' 0 2 != 0 then s.endWalker id 0x04
    else s.walkTo id w c x.toNat
/-- call of a walker. -/
def State.walkCall (s : State) (id : Nat) (w : Walker) (c : Command) (a : Reg) (off : BitVec 16) : State :=
  let n := a.toNat
  let w' := if n = 0 then w
    else (((w.setReg n (BitVec.ofNat 32 (w.pc + 4))).setReg (n + 1) 0).setTag n 0x12).setTag (n + 1) 0x12
  s.walkTo id w' c (byteOff w.pc off)

/-! ## The instructions -/

/-- nop: Has no effect beyond its occupancy (05 R156). -/
def execNop (hold : BitVec 2) (s : State) : Out :=
  onUnit (.nop hold) s (fun fr => s.finish fr fr.w (.nop hold)) (fun e p => s.setProg e (p.advance 1)) fun id w c => s.walkOn id w c 1

/-- br: Moves the whole fragment to target when slot u's condition is nonzero (05 R135). -/
def execBr (a : Reg) (off : BitVec 16) (s : State) : Out :=
  onUnit (.br a off) s
    (fun fr => if fr.v.reg a.toNat fr.u = 0 then s.goOn fr fr.w
      else s.go fr fr.w .byRange [(pcOff fr.f.pc off, fr.act)] 0)
    (fun e _ => s.endBank e 0x01)
    fun id w c => if w.reg a.toNat = 0 then s.walkOn id w c 1 else s.walkTo id w c (byteOff w.pc off)

/-- bru: Branches per slot, dividing the fragment (05 R136). DESIGN CHOICE (assumption log 91): a target of pc + 4 with
some slots taken divides it too, as R136's listing says, though both parts go to one address (05 R132). -/
def execBru (a : Reg) (off : BitVec 16) (s : State) : Out :=
  onCoreOnly (.bru a off) s fun fr =>
    let x := fr.nonzero a
    if x = 0 then s.goOn fr fr.w else s.go fr fr.w .byRange [(pcOff fr.f.pc off, x)] (fr.act &&& ~~~x)

/-- jmp: Moves the fragment to target unconditionally (05 R135). -/
def execJmp (off : BitVec 16) (s : State) : Out :=
  onUnit (.jmp off) s (fun fr => s.go fr fr.w .byRange [(pcOff fr.f.pc off, fr.act)] 0)
    (fun e p => s.bankJump e p off) fun id w c => s.walkTo id w c (byteOff w.pc off)

/-- jmpr: Jumps each slot to the address in its pair, grouping by target (05 R137). -/
def execJmpr (hold : BitVec 2) (a : Reg) (s : State) : Out :=
  onUnit (.jmpr hold a) s (fun fr => s.jumpPair fr a .byRange) (fun e _ => s.endBank e 0x01) fun id w c => s.walkPair id w c a

/-- call: Writes the link pair and moves the fragment to target (05 R138). -/
def execCall (a : Reg) (off : BitVec 16) (s : State) : Out :=
  onUnit (.call a off) s (fun fr => s.callTo fr a off) (fun e _ => s.endBank e 0x01)
    fun id w c => s.walkCall id w c a off

/-- ret: Returns each slot to the address in its pair without leaving loops (05 R137). -/
def execRet (hold : BitVec 2) (a : Reg) (s : State) : Out :=
  onUnit (.ret hold a) s (fun fr => s.jumpPair fr a .never) (fun e _ => s.endBank e 0x01) fun id w c => s.walkPair id w c a

/-- joinat: Creates a join record for the fragment (05 R139). -/
def execJoinat (off : BitVec 16) (s : State) : Out := onCoreOnly (.joinat off) s fun fr => s.openJoin fr off

/-- join: Arrives the fragment at its join record (05 R140). -/
def execJoin (hold : BitVec 2) (s : State) : Out := onCoreOnly (.join hold) s fun fr => s.joinHere fr

/-- brk: Takes slots out of n nested join regions (05 R141). -/
def execBrk (n : BitVec 4) (s : State) : Out := onCoreOnly (.brk n) s fun fr => s.breakOut fr n.toNat

/-- loop: Pushes a counted hardware loop and its loop record (05 R142). -/
def execLoop (a : Reg) (off : BitVec 16) (s : State) : Out :=
  onUnit (.loop a off) s (fun fr => s.openLoop fr a off) (fun e p => s.bankLoop e p a off) fun id _ _ => s.endWalker id 0x01

/-- lexit: Takes selected slots out of the innermost loop to target (05 R145). -/
def execLexit (a : Reg) (off : BitVec 16) (s : State) : Out :=
  onCoreOnly (.lexit a off) s fun fr => s.leaveTo fr a off

/-- exit: Sets the exited bit of the fragment's slots, or ends a bank or walker program (05 R146). -/
def execExit (hold : BitVec 2) (s : State) : Out :=
  onUnit (.exit hold) s (fun fr => s.exitSlots fr) (fun e _ => s.endBank e 0x00) fun id _ _ => s.endWalker id 0x00

/-- trap: Raises the named cause for every slot of the fragment (05 R148). -/
def execTrap (svc : BitVec 8) (cause : BitVec 8) (s : State) : Out :=
  onCoreOnly (.trap svc cause) s fun fr => s.trapAll fr (causeOf cause.toNat) fr.act 0 0

/-- tret: Ends a trap, resuming cr.TMASK slots at cr.TPC (05 R150). -/
def execTret (hold : BitVec 2) (s : State) : Out := onCoreOnly (.tret hold) s fun fr => s.returnFromTrap fr

/-- waitv: Waits on bits of the context event vector (05 R152). -/
def execWaitv (hold : BitVec 2) (d : Reg) (a : Reg) (b : Reg) (s : State) : Out :=
  onCoreOnly (.waitv hold d a b) s fun fr => s.waitEvents fr (.waitv hold d a b) d a b

/-- yield: Sleeps the fragment until other ready fragments have issued (05 R153). -/
def execYield (hold : BitVec 2) (s : State) : Out := onCoreOnly (.yield hold) s fun fr => s.yieldTurn fr (.yield hold)

/-- sleep: Sleeps the fragment for a number of reference ticks (05 R154). -/
def execSleep (imm : BitVec 16) (s : State) : Out :=
  onCoreOnly (.sleep imm) s fun fr => s.sleepFor fr (.sleep imm) imm.toNat

/-! ## The events -/

/-- The waiting fragment an event names, which no trap suspends. -/
def State.waiting? (s : State) (g w e : Nat) : Option (Group × Wave × Fragment) :=
  match s.groups.look g with
  | none => none
  | some x =>
    match x.waves.look w with
    | none => none
    | some y =>
      match y.frag? e with
      | some f => if f.suspended then none else some (x, y, f)
      | none => none

/-- WAITV_TIMEOUT (05 R152): the deadline of a waitv passes. Uses gid, wave, ent. -/
def execWaitvTimeout (s : State) : Out :=
  onEvent (match s.waiting? s.about.gid s.about.wave s.about.ent with
    | some (g, w, f) => match f.st with
      | .waiting (.event d m q all t) =>
        if t ≤ s.tick then
          some (s.completeWith s.about.gid s.about.wave s.about.ent (resultRegs d true) fun y =>
            y.eventResult d (f.mask &&& w.alive) (eventHolds (s.context g.ctx).events m q all).2)
        else none
      | _ => none
    | none => none)

/-- SLEEP_WAKE (05 R154): a sleep ends. Uses gid, wave, ent. -/
def execSleepWake (s : State) : Out :=
  onEvent (match s.waiting? s.about.gid s.about.wave s.about.ent with
    | some (_, _, f) => match f.st with
      | .sleeping (.tick t) =>
        if t ≤ s.tick then some (s.complete s.about.gid s.about.wave s.about.ent id) else none
      | _ => none
    | none => none)

/-- YIELD_WAKE (05 R153): a yield ends. Uses gid, wave, ent. -/
def execYieldWake (s : State) : Out :=
  onEvent (match s.waiting? s.about.gid s.about.wave s.about.ent with
    | some (_, _, f) => match f.st with
      | .sleeping (.turns l n) =>
        if n = 0 || l = [] then some (s.complete s.about.gid s.about.wave s.about.ent id) else none
      | _ => none
    | none => none)

/-- LOOP_STEP_COMPLETE (05 R143): a waiting loop step completes. Uses gid, wave, ent. -/
def execLoopStepComplete (s : State) : Out :=
  onEvent (match s.waiting? s.about.gid s.about.wave s.about.ent with
    | some (_, w, f) => match f.st with
      | .waiting (.loopStep _) =>
        let w' := w.resumeLoops s.cycle 16
        if w' = w then none else some (s.setWave s.about.gid s.about.wave w')
      | _ => none
    | none => none)

/-- HELD_EVENT_TIMEOUT (05 R151): the event held for a wave reaches its bound. Uses gid, wave. -/
def execHeldEventTimeout (s : State) : Out :=
  onEvent (match s.groups.look s.about.gid, s.wave? s.about.gid s.about.wave with
    | some g, some w => match w.heldSince with
      | some t =>
        if tsApend w.tstat && t + 2 ^ 20 ≤ s.tick then
          some (s.terminate s.about.gid (some { workId := w.slotId ((lowest w.tmask).getD 0), addr := w.tpc,
                                                cause := 0x47, core := g.core }))
        else none
      | none => none
    | _, _ => none)

end Sys2Proof.Machine
end

