-- ==== Sys2Proof/Machine/Order.lean ====
section
/-! DEFINITION. When an outstanding access may be performed and what it then does: the order within a thread, releases
at every scope, promotion, held accesses, empty rows, poison, and the read-only partition (06 R161 to R177, R427; 09). -/

namespace Sys2Proof.Machine

/-! ## The order of a thread (09 R260, R261, R265, R267, R269) -/

/-- A load may be performed: acquires before it, and accesses to its bytes, are; a store performed inside its group
will do. -/
def State.loadInOrder (s : State) (id : Nat) (o : Op) (a : SlotAcc) : Bool :=
  (s.earlier o.gid o.wave a.slot id).all fun x =>
    !x.1.kind.acquires && !(overlaps x.1 x.2 o a && !(x.1.kind.isStore && x.2.grp))

/-- A store its group has seen need not reach L2 before an access: it neither touches the access's bytes, coming before it
in their coherence order, nor happens before it as a wide release. -/
def Pending.free (x : Pending) (id : Nat) (o : Op) (a : SlotAcc) : Bool :=
  !(overlaps x.2.1 x.2.2 o a && (!a.grp || x.before (id, o, a))) &&
    !(o.kind.releases && !o.narrow && x.2.2.seen < a.heed && !(x.1 = id && x.2.2.slot = a.slot))

/-- A store or an atomic may be performed at L2 or in a scratchpad: acquires before it and accesses to its bytes are;
for a release, so is every earlier access, but for the stores a narrow release leaves behind it; and so are the stores its
group has seen before it to its bytes, or, for a wide release, those that its thread has acquired. -/
def State.storeInOrder (s : State) (id : Nat) (o : Op) (a : SlotAcc) : Bool :=
  ((s.earlier o.gid o.wave a.slot id).all fun x =>
    !x.1.kind.acquires && !overlaps x.1 x.2 o a && (!o.kind.releases || (o.narrow && x.1.kind.isStore))) &&
  (s.groupPending o.gid).all fun x => x.free id o a

/-- A narrow release store may be performed inside its group: every earlier access of its thread is, stores aside
(09 R265). -/
def State.groupInOrder (s : State) (id : Nat) (o : Op) (a : SlotAcc) : Bool :=
  (s.earlier o.gid o.wave a.slot id).all fun x => x.1.kind.isStore

/-! ## Promotion (09 R266) -/

/-- The scope of an acquire at a core, in a group and a wave, reaches another thread (09 R257, R258). -/
def scopeReaches (scope core gid wave core' gid' wave' : Nat) : Bool :=
  if scope = 0 then gid = gid' && wave = wave'
  else if scope = 1 then gid = gid'
  else if scope = 2 then isleOfCore core = isleOfCore core'
  else if scope = 3 then dieOfCore core = dieOfCore core'
  else true
/-- An atomic of an operation that reads n bytes at a key and is a wide release: the stores that happen before it through a
narrow release of its group that it reads are in L2 (09 R261, R262). -/
def State.syncedAt (s : State) (o : Op) (key n : Nat) : Bool :=
  o.narrow || (List.range n).all fun j => (s.narrow.lookD (key + j) []).all fun r =>
    !scopeReaches r.scope r.core r.gid r.wave o.core o.gid o.wave || r.gid != o.gid ||
      (s.groupPending o.gid).all fun x => r.seen < x.2.2.seen

/-- An acquire that promotes. -/
def Op.promotes (o : Op) : Bool := o.promote && o.kind.acquires
/-- A wave has a promoted acquire under way. -/
def State.promoting (s : State) (gid wid : Nat) : Bool :=
  s.ops.any fun e => e.2.gid = gid && e.2.wave = wid && e.2.promotes && !e.2.finished
/-- An operation still has a release to perform: a store, an atomic or an arrival, or a remote atomic without its response. -/
def Op.releasing (o : Op) : Bool :=
  match o.kind with
  | .remote _ _ parts => parts.any fun x => !x.answered && (x.pkt.ptype = 4 || x.pkt.ptype = 5)
  | k => k.releases && !o.finished
/-- A core has not yet performed at L2 every release it issued up to a narrow one, with the stores those order: a store that
its group has seen, issued before it or seen when it was made; a release that is not performed yet, a fence or a barrier
among them (09 R261, R266). What waits itself for a promoted acquire of its wave is not waited for (assumption log 87). -/
def State.coreBehind (s : State) (r : NarrowRel) : Bool :=
  (s.ops.any fun e => e.2.core = r.core &&
    ((e.2.accs.any fun a => a.grp && !a.done && (e.1 ≤ r.op || a.seen ≤ r.seen)) ||
      (e.1 ≤ r.op && e.2.releasing && !s.promoting e.2.gid e.2.wave))) ||
  s.groups.any fun g => g.2.core = r.core && g.2.waves.any fun w => !s.promoting g.1 w.1 &&
    w.2.frags.any fun f => match f.2.st with
      | .waiting (.fence _ before) => before ≤ r.op
      | .waiting (.arriving _ before) => before ≤ r.op
      | _ => false
/-- An acquire of an operation that reads n bytes at a key is not held back by a promotion. -/
def State.promotedAt (s : State) (o : Op) (key n : Nat) : Bool :=
  (List.range n).all fun j =>
    (s.narrow.lookD (key + j) []).all fun r =>
      scopeReaches r.scope r.core r.gid r.wave o.core o.gid o.wave ||
        !scopeReaches o.scope o.core o.gid o.wave r.core r.gid r.wave || !s.coreBehind r
/-- The access of an operation is not held back by a promotion. -/
def State.promoted (s : State) (o : Op) (a : SlotAcc) : Bool :=
  !(o.promote && o.kind.acquires) || s.promotedAt o a.key o.kind.width

/-! ## Values (09 R269) -/

/-- A byte as a group sees it: the latest store it alone has seen, else memory. -/
def State.groupByte (s : State) (gid key : Nat) : Byte :=
  match ((s.groupPending gid).filter fun x =>
      x.2.2.key ≤ key && key < x.2.2.key + x.2.1.kind.width).getLast? with
  | some x => x.2.2.data.extractLsb' (8 * (key - x.2.2.key)) 8
  | none => s.byte key
/-- Bytes as a group sees them. -/
def State.groupBytes (s : State) (gid key n : Nat) : List Byte :=
  if (s.groupPending gid).isEmpty then s.bytes key n
  else (List.range n).map fun j => s.groupByte gid (key + j)

/-- The words a load of n bytes writes (06 R164). -/
def loadWords (n : Nat) (signed : Bool) (x : Nat) : List Word :=
  if n = 1 then [BitVec.ofInt 32 (intOf 8 signed x)]
  else if n = 2 then [BitVec.ofInt 32 (intOf 16 signed x)]
  else (List.range (n / 4)).map fun j => BitVec.ofNat 32 (x / 2 ^ (32 * j))
/-- Words written to consecutive registers of a slot; a pair named by v0 is discarded whole, a quad in v0 alone
(01 R26; 06 R157). -/
def Wave.writeWords (w : Wave) (d t : Nat) (xs : List Word) : Wave :=
  if d = 0 && xs.length = 2 then w
  else (xs.zipIdx).foldl (fun w x => w.setReg (d + x.2) t x.1) w
/-- Tags of the registers a load writes, at issue (06 R160). -/
def Wave.tagWords (w : Wave) (d k : Nat) (tag : Byte) : Wave :=
  if d = 0 && k = 2 then w else w.setTags d k tag

/-- A slot of an operation is alive, in a resident or a saved wave. -/
def State.slotAlive (s : State) (gid wid slot : Nat) : Bool :=
  match s.wave? gid wid with
  | some w => inMask w.alive slot
  | none => match (s.saved.look gid).bind (·.waves.look wid) with
    | some w => inMask w.alive slot
    | none => false

/-! ## The read-only partition (06 R169, R170; 03 R74) -/

/-- The key of a line of a context. -/
def roKey (ctx : Nat) (va : DWord) : Nat := ctx * 2 ^ 57 + va.toNat / 128
/-- Lines the partition of a core holds (10 R288). -/
def Core.roLines (c : Core) : Nat := (1024 - 64 * c.sreg - 64 * c.sscr) * 8
/-- A line as memory holds it. -/
def State.lineAt (s : State) (key : Nat) : RoLine :=
  { bytes := s.bytes (key / 128 * 128) 128, code := s.bytes (key / 128 * 128) 128,
    poison := (List.range 8).map fun u => s.poisoned (key / 128 * 128 + 16 * u) }
/-- An access of a slot to n bytes through the partition of a core is not held back by a store that a generic load issued
at the core's last fence.ro would have returned: one of its own thread before it, or one its group had seen (06 R170; 09
R273). -/
def State.roInOrder (s : State) (core gid wid slot before key n : Nat) : Bool :=
  let f := (s.core core).roFence
  let meets : Op → SlotAcc → Bool := fun o a => a.key < key + n && key < a.key + o.kind.width
  ((s.earlier gid wid slot (Nat.min before f)).all fun x => x.1.kind.isLoad || !meets x.1 x.2) &&
    (s.groupPending gid).all fun x => f ≤ x.1 || !meets x.2.1 x.2.2
/-- A store its thread issued before the core's last fence.ro is performed: the partition returns nothing older. -/
def State.roStored (s : State) (id : Nat) (o : Op) (a : SlotAcc) : State :=
  if id < (s.core o.core).roFence then
    s.onCore o.core fun c => c.roRefresh o.ctx a.va.toNat (a.va.toNat + o.kind.width) s.past.length
  else s
/-- The bytes of a line from a key upward, each part of `n` bytes as it was at a place of its own of the device's past. -/
def State.agedBytes (s : State) (key n : Nat) (ages : List Nat) : List Byte :=
  ages.zipIdx.flatMap fun x => (List.range n).map fun j => s.byteAt x.1 (key + n * x.2 + j)
/-- A line of the partition is filled ahead of its use: for fetches each word, for loads each 16-byte unit, as it was at a
place of the device's past that the partition may still return (03 R74; 06 R164, R169; 09 R273; assumption log 99). -/
def State.fillRo (s : State) (core ctx : Nat) (va : DWord) (words units : List Nat) : Option State :=
  match s.locate (some core) ctx va .load true with
  | .error _ => none
  | .ok key =>
    let c := s.core core
    let old : Nat → Nat × Nat → Bool := fun n x =>
      c.roFloor ctx (va + BitVec.ofNat 64 (n * x.2)) n ≤ x.1 && x.1 ≤ s.past.length
    if va.toNat % 128 != 0 || spaceOf key = 8 || words.length != 32 || units.length != 8 || !words.zipIdx.all (old 4) ||
        !units.zipIdx.all (old 16) || (c.roLines ≤ c.ro.length && (c.ro.look (roKey ctx va)).isNone) then none
    else
      let l : RoLine := { s.lineAt key with bytes := s.agedBytes key 16 units, code := s.agedBytes key 4 words }
      some (s.setCore core { c with ro := c.ro.put (roKey ctx va) l })
/-- Bytes read through the partition of a core, by a fetch or by a load, and whether they are poisoned; a line that is not
there is filled, and kept while there is room. Host memory is read uncached. -/
def State.readRo (s : State) (core ctx : Nat) (va : DWord) (key n : Nat) (fetch : Bool) : State × List Byte × Bool :=
  let pick : RoLine → List Byte × Bool := fun l =>
    let o := va.toNat % 128
    (((if fetch then l.code else l.bytes).drop o).take n, ((l.poison.drop (o / 16)).take ((o % 16 + n + 15) / 16)).any id)
  if spaceOf key = 8 then (s, s.bytes key n, s.poisonedIn key n)
  else
    let c := s.core core
    match c.ro.look (roKey ctx va) with
    | some l => (s, pick l)
    | none =>
      let l := s.lineAt key
      (if c.ro.length < c.roLines then s.setCore core { c with ro := c.ro.put (roKey ctx va) l } else s, pick l)

/-! ## Performing (06 R164, R165, R176, R177) -/

/-- The result of an atomic: the value stored (06 R176). -/
def AtomOp.apply (f : AtomOp) (n : Nat) (m x c : Nat) : Nat :=
  let k := 8 * n
  match f with
  | .add => (m + x) % 2 ^ k
  | .min g => if intOf k g x < intOf k g m then x else m
  | .max g => if intOf k g m < intOf k g x then x else m
  | .and => m &&& x
  | .or => m ||| x
  | .xor => m ^^^ x
  | .xch => x
  | .cas => if m = c then x else m

/-- The load of one slot is performed: a poisoned unit kills the slot, else its registers are written. -/
def State.doLoad (s : State) (o : Op) (a : SlotAcc) : State :=
  if !s.slotAlive o.gid o.wave a.slot then s
  else
    let write : State → Reg → Bool → List Byte → State := fun s d signed bs =>
      s.onWave o.gid o.wave fun w => w.writeWords d.toNat a.slot (loadWords o.kind.width signed (numOf bs))
    match o.kind with
    | .load d n signed _ =>
      if s.poisonedIn a.key n then s.killSlots o.gid o.wave [(a.slot, a.va)]
      else write s d signed (s.groupBytes o.gid a.key n)
    | .scratchLoad d n => write s d false (s.bytes a.key n)
    | .readOnly d n =>
      let r := s.readRo o.core o.ctx a.va a.key n false
      if r.2.2 then r.1.killSlots o.gid o.wave [(a.slot, a.va)] else write r.1 d false r.2.1
    | _ => s

/-- The marks of a narrow release on the bytes it stored; an atomic continues the release sequence it read. -/
def State.markNarrow (s : State) (id : Nat) (o : Op) (a : SlotAcc) (old : List (List NarrowRel)) : State :=
  let mine : List NarrowRel := if o.kind.releases && o.narrow then
      [{ op := id, core := o.core, gid := o.gid, wave := o.wave, scope := o.scope,
         seen := if a.grp then a.seen else s.progress }] else []
  (old.zipIdx).foldl (fun s x =>
    if mine ++ x.1 = [] then s else { s with narrow := s.narrow.put (a.key + x.2) (mine ++ x.1) }) s

/-- The store or the atomic of one slot is performed at its place. -/
def State.doStore (s : State) (id : Nat) (o : Op) (a : SlotAcc) : State :=
  let n := o.kind.width
  match o.kind with
  | .store _ _ =>
    ((s.store o.ctx a.key (bytesOf a.data.toNat n)).roStored id o a).markNarrow id o a (List.replicate n [])
  | .scratchStore _ => s.put o.ctx a.key (bytesOf a.data.toNat n)
  | .atomic d _ f =>
    if s.poisonedIn a.key n then
      if s.slotAlive o.gid o.wave a.slot then s.killSlots o.gid o.wave [(a.slot, a.va)] else s
    else
      let old := (List.range n).map fun j => s.narrow.lookD (a.key + j) []
      let m := s.num a.key n
      let s := ((s.store o.ctx a.key (bytesOf (f.apply n m a.data.toNat a.cmp.toNat) n)).roStored id o a).markNarrow id o a old
      if d != 0 && s.slotAlive o.gid o.wave a.slot then
        s.onWave o.gid o.wave fun w => w.writeWords d.toNat a.slot (loadWords n false m)
      else s
  | _ => s

/-! ## The events of accesses -/

/-- The accesses of an operation an event names, none of them performed yet. -/
def Op.named (o : Op) (slots : DWord) : Option (List SlotAcc) :=
  let l := o.accs.filter fun a => inMask slots a.slot
  if slots != 0 && l.length = (slotsOf slots).length && l.all fun a => !a.done then some l else none
/-- The accesses of slots are performed. -/
def State.markDone (s : State) (id : Nat) (slots : DWord) : State :=
  s.putAccs id fun a => if inMask slots a.slot then { a with done := true } else a

/-- The load of a slot has reached its memory controller. -/
def State.loadClear (s : State) (id : Nat) (o : Op) (a : SlotAcc) : Bool :=
  match o.kind with
  | .load _ _ _ _ => s.loadInOrder id o a && !s.accessHeld a.key && s.promoted o a
  | .scratchLoad _ _ => s.loadInOrder id o a
  | .readOnly _ n => !s.accessHeld a.key && s.roInOrder o.core o.gid o.wave a.slot id a.key n
  | _ => false
/-- A row that is empty stands in the way of a generic load or an atomic (06 R166; 12 R331). -/
def State.rowBars (s : State) (o : Op) (a : SlotAcc) : Bool :=
  match o.kind with
  | .load _ _ _ _ => s.rowEmpty a.key
  | .atomic _ _ _ => s.rowEmpty a.key
  | _ => false
/-- The time-out of an access that waits at its controller on an empty row has come (06 R166). -/
def State.lateAt (s : State) (o : Op) (a : SlotAcc) : Bool :=
  match a.arrived with
  | some t => t + o.tmo ≤ s.tick
  | none => false
/-- The load of a slot may be performed: its row is full, and its time-out has not come. -/
def State.loadReady (s : State) (id : Nat) (o : Op) (a : SlotAcc) : Bool :=
  s.loadClear id o a && !s.rowBars o a && !s.lateAt o a

/-- Slots of an operation that find their rows empty wait at the controller from now on; none when all of them do so
already (06 R166). -/
def State.arrivals (s : State) (id : Nat) (o : Op) (l : List SlotAcc) : Option State :=
  let fresh : SlotAcc → Bool := fun a => s.rowBars o a && a.arrived.isNone
  if l.any fresh then
    some (s.putAccs id fun a => if l.any (fun b => b.slot = a.slot) && fresh a then { a with arrived := some s.tick } else a)
  else none

/-- What an acquire that is performed for slots orders in its group (09 R262). -/
def State.acquired (s : State) (id : Nat) (o : Op) (slots : DWord) : State :=
  if o.kind.acquires then s.heed o.gid o.wave slots id else s

/-- Loads of an operation are performed. -/
def State.performLoads (s : State) (id : Nat) (o : Op) (l : List SlotAcc) (slots : DWord) : State :=
  ((l.foldl (fun s a => s.doLoad o a) s).markDone id slots).acquired id o slots
/-- LOAD_RETURN: the data return, or, for rows that are empty, the loads arrive at their memory controllers. -/
def State.loadReturn (s : State) (id : Nat) (slots : DWord) : Option State :=
  match s.ops.look id with
  | none => none
  | some o =>
    match o.named slots with
    | none => none
    | some l =>
      if l.all fun a => s.loadReady id o a then
        some (s.performLoads id o l slots)
      else if l.all fun a => s.loadClear id o a then s.arrivals id o l
      else none

/-- The store or atomic of a slot has reached its place; accesses of one instruction to common bytes are performed in
ascending slot order (06 R165, R177). -/
def State.storeClear (s : State) (id : Nat) (o : Op) (slots : DWord) (a : SlotAcc) : Bool :=
  s.storeInOrder id o a && !s.accessHeld a.key &&
    (match o.kind with
      | .atomic _ _ _ => s.promoted o a && s.syncedAt o a.key o.kind.width
      | .store _ _ => true
      | .scratchStore _ => true
      | .arrive _ _ => true
      | _ => false) &&
    o.accs.all fun b => !(b.slot < a.slot && !b.done && overlaps o a o b) || inMask slots b.slot
/-- The store or atomic of a slot may be performed at its place. -/
def State.storeReady (s : State) (id : Nat) (o : Op) (slots : DWord) (a : SlotAcc) : Bool :=
  s.storeClear id o slots a && !s.rowBars o a && !s.lateAt o a
/-- Stores or atomics of an operation are performed at their places. A narrow atomic leaves the earlier stores of its thread
inside the group (09 R265). -/
def State.performStores (s : State) (id : Nat) (o : Op) (l : List SlotAcc) (slots : DWord) : State :=
  let s := if o.kind.releases && o.narrow then l.foldl (fun s a => s.groupStores o.gid o.wave a.slot id) s else s
  ((l.foldl (fun s a => s.doStore id o a) s).markDone id slots).acquired id o slots

/-- A narrow release store that its group has not seen yet. -/
def Op.groupFirst (o : Op) (l : List SlotAcc) : Bool :=
  match o.kind with
  | .store _ true => o.narrow && l.all fun a => !a.grp
  | _ => false

/-- A baro.arr performed: a provisional arrival of the phase it reads, recorded in the tracking list of its core; none
when the list has no room (06 R183, R184). -/
def State.trackedArrival (s : State) (ctx core : Nat) (va : DWord) (key : Nat) : Option State :=
  let ph := BitVec.ofNat 32 (s.num (key + 0x20) 4)
  let c := s.core core
  let same : Track → Bool := fun t => t.ctx = ctx && t.object = va && t.phase = ph
  let track : Option (List Track) :=
    if c.track.any same then some (c.track.map fun t => if same t then { t with count := t.count + 1 } else t)
    else if c.track.length < 64 then some (c.track ++ [{ ctx := ctx, object := va, phase := ph, count := 1 }])
    else none
  track.map fun t => (s.setCore core { c with track := t }).arrive ctx key ph.toNat 1 false
/-- An early assay of a core is requested, once (06 R184). -/
def State.askAssay (s : State) (core : Nat) : Option State :=
  if (s.core core).early then none else some (s.onCore core fun c => { c with early := true })

/-- STORE_PERFORMED: a narrow release is performed inside its group first and leaves its counter then (09 R265); the
store reaches its place with a second such event. -/
def State.storePerformed (s : State) (id : Nat) (slots : DWord) : Option State :=
  match s.ops.look id with
  | none => none
  | some o =>
    match o.named slots with
    | none => none
    | some l =>
      if o.groupFirst l then
        if l.all fun a => s.groupInOrder id o a then
          let s := l.foldl (fun s a => s.groupStores o.gid o.wave a.slot (id + 1)) s
          match s.ops.look id with
          | some o => some (if o.accs.all (·.grp) then s.uncountOp id o else s)
          | none => none
        else none
      else match o.kind with
      | .arrive va key =>
        if l.all fun a => s.storeReady id o slots a then
          let seen := if o.narrow then l.foldl (fun s a => s.groupStores o.gid o.wave a.slot id) s else s
          match seen.trackedArrival o.ctx o.core va key with
          | some s' => some (s'.markDone id slots)
          | none => s.askAssay o.core
        else none
      | _ =>
      if l.all fun a => s.storeReady id o slots a then some (s.performStores id o l slots)
      else if l.all fun a => s.storeClear id o slots a then s.arrivals id o l
      else none

/-- A deferred load fault gains slots; the first address and registers stay (06 R427). -/
def Wave.deferLoad (w : Wave) (slots : DWord) (addr : DWord) (d k : Nat) : Wave :=
  match w.efr with
  | some e => { w with efr := some { e with slots := e.slots ||| slots } }
  | none => { w with efr := some { slots := slots, addr := addr, reg := d, count := k } }

/-- The accesses of one kind that wait on rows which are full now, and whose time-out has not come. -/
def State.rowWaiters (s : State) (keys : List Nat) (load : Bool) : List (Nat × Op × SlotAcc) :=
  (s.ops.filter fun e => e.2.kind.isLoad = load).flatMap fun e =>
    (e.2.accs.filter fun a => !a.done && a.arrived.isSome && !s.lateAt e.2 a && keys.any fun k => k / 128 = a.key / 128).map
      fun a => (e.1, e.2, a)
/-- The loads that wait on rows which a bres fills, or a context's end makes full, are performed at once, whatever order they
arrived in; then the atomics that wait there, but for one that something else still holds, which waits no longer for its row
(12 R331, R332). -/
def State.rowsFilled (s : State) (keys : List Nat) : State :=
  let s := (s.rowWaiters keys true).foldl (fun s x => s.performLoads x.1 x.2.1 [x.2.2] (slotBit x.2.2.slot)) s
  (s.rowWaiters keys false).foldl (fun s x =>
    let m := slotBit x.2.2.slot
    match s.ops.look x.1 with
    | some o =>
      if s.storeClear x.1 o m x.2.2 then s.performStores x.1 o [x.2.2] m
      else s.putAccs x.1 fun a => if a.slot = x.2.2.slot then { a with arrived := none } else a
    | none => s) s

/-- EMPTY_ROW_TIMEOUT (06 R166, R427): the slots of a load or atomic whose rows were still empty 2^(10 + tmo) ticks after
they arrived there; what is filled later finds them timed out. The record names the 512-byte row of the lowest. -/
def State.emptyTimeout (s : State) (id : Nat) (slots : DWord) : Option State :=
  match s.ops.look id with
  | none => none
  | some o =>
    match o.named slots with
    | none => none
    | some l =>
      let reg : Option (Nat × Nat) := match o.kind with
        | .load d n _ _ => some (d.toNat, (n + 3) / 4)
        | .atomic d n _ => some (d.toNat, if d = 0 then 0 else n / 4)
        | _ => none
      match reg with
      | none => none
      | some (d, k) =>
        if l.all fun a => s.lateAt o a then
          let addr := match l.head? with
            | some a => a.va &&& ~~~0x1FF#64
            | none => 0
          some ((s.onWave o.gid o.wave fun w => w.deferLoad slots addr d k).markDone id slots)
        else none

end Sys2Proof.Machine
end

