-- ==== Sys2Proof/Machine/Memory.lean ====
section
/-! DEFINITION. Loads, stores, atomics, scratchpad and tag-table instructions, fences and waits on counters, the group
barrier and barrier objects (06 R157 to R187). -/

namespace Sys2Proof.Machine

/-! ## Issuing an access (06 R159 to R161) -/

/-- An access instruction: its tag checks, where a slot's access leads, what the operation does, its counter, the data
and the compared value of a slot, and the tags it writes at issue. -/
structure Access where
  checks : List (Reg × (Byte → Bool))
  place : Nat → DWord × Except Cause Nat
  kind : OpKind
  ctr : CtrKind
  data : Nat → BitVec 128
  cmp : Nat → BitVec 128
  retag : Wave → Wave

/-- The causes the slots of a list raise, with their addresses. -/
def causesOf (place : Nat → DWord × Except Cause Nat) (ts : List Nat) : List (Nat × DWord × Cause) :=
  ts.filterMap fun t => match (place t).2 with
    | .error c => some (t, (place t).1, c)
    | .ok _ => none
/-- The cause that is raised: the first in the order of 01 R41. -/
def firstCause : List (Nat × DWord × Cause) → Option Cause
  | [] => none
  | (_, _, c) :: r => match firstCause r with
    | none => some c
    | some d => some (if d.rank < c.rank then d else c)
/-- The trap of slots with causes: those with the raised cause are in cr.TMASK, and every slot without a cause has
completed (06 R159). -/
def accessTrap (act : DWord) (bad : List (Nat × DWord × Cause)) (c : Cause) : TrapInfo :=
  let mine := bad.filter fun x => x.2.2 = c
  { cause := c, mask := maskOf (mine.map (·.1)),
    addr := match mine.head? with
      | some x => x.2.1
      | none => 0,
    done := act &&& ~~~maskOf (bad.map (·.1)) }

/-- The operation of the slots that raise no cause. -/
def Access.op (a : Access) (s : State) (fr : Frame) (good : List Nat) : Op :=
  { gid := fr.gid, wave := fr.wid, ctx := fr.g.ctx, serial := fr.g.serial, core := fr.g.core, ctr := some a.ctr, kind := a.kind,
    accs := good.map fun t =>
      { slot := t, va := (a.place t).1,
        key := match (a.place t).2 with
          | .ok k => k
          | .error _ => 0,
        data := a.data t, cmp := a.cmp t, done := false, grp := false, heed := fr.w.heard.lookD t 0 },
    scope := modeScope fr.v.mode, promote := modePromote fr.v.mode, issued := s.tick, tmo := modeTmo fr.v.mode }

/-- The slots that go on, and the trap of the others. -/
def State.afterIssue (s : State) (fr : Frame) (w : Wave) (i : Instr) (bad : List (Nat × DWord × Cause)) : State :=
  match firstCause bad with
  | none => s.finish fr w i
  | some c => s.trap fr false w (accessTrap fr.act bad c)

/-- The TLBs and the samplers after the accesses of an instruction (10 R287, R301). -/
def State.noteAccess (s : State) (fr : Frame) (vas : List DWord) (k : AccKind) (type : Nat) : State :=
  let ok := vas.filter fun va => (s.locate (some fr.g.core) fr.g.ctx va k fr.priv).isOk
  let s := ok.foldl (fun s va => match s.xlat (some fr.g.core) fr.g.ctx (vaDie va) (vaOffset va) with
    | some x => s.fillTlb (some fr.g.core) fr.g.ctx (vaDie va) (vaOffset va) x
    | none => s) s
  s.sampleAll fr.g.ctx ok fr.g.core type

/-- The lines of ranges that an instruction's records, lists and buffers lie in are requests of their own (10 R301): bytes that
are written as stores, the others as loads (assumption log 51). -/
def State.noteRanges (s : State) (fr : Frame) (l : List (DWord × Nat × AccKind)) : State :=
  l.foldl (fun s e => if e.2.1 = 0 then s else
    s.noteAccess fr (linesIn e.1 e.2.1) e.2.2 (if e.2.2 = .load then 0 else if e.2.2 = .store then 1 else 2)) s
/-- An access instruction: slots without a cause are issued as one operation; an empty participating set performs no
access (06 R158); a counter at 63 holds the instruction (01 R36). `note` is what translating
them leaves. -/
def Access.issue (a : Access) (s : State) (fr : Frame) (i : Instr) (note : State → List DWord → State) :
    State :=
  match fr.look.first a.checks with
  | some r => s.trapAll fr .tag fr.act r 0
  | none =>
    let ts := slotsOf fr.part
    let bad := causesOf a.place ts
    let good := ts.filter fun t => !bad.any fun x => x.1 = t
    if good = [] then s.afterIssue fr (if bad = [] then a.retag fr.w else fr.w) i bad
    else if fr.w.ctr.get a.ctr = 63 then s.holdOn fr
    else ((note s (good.map fun t => (a.place t).1)).pushOp (a.op s fr good)).afterIssue fr (a.retag (fr.w.count a.ctr)) i bad

/-- The address of a slot: pair plus scaled immediate. -/
def Frame.va (fr : Frame) (a : Reg) (imm : BitVec 7) (scale : Nat) (t : Nat) : DWord :=
  fr.v.pair a.toNat t + BitVec.ofInt 64 (imm.toInt * scale)
/-- Where a generic access leads: alignment first, then translation (06 R159). -/
def State.generic (s : State) (fr : Frame) (va : DWord) (n : Nat) (k : AccKind) : DWord × Except Cause Nat :=
  (va, if va.toNat % n != 0 then .error .align else s.locate (some fr.g.core) fr.g.ctx va k fr.priv)

/-- The width, in registers, of a load. -/
def regsOf (n : Nat) : Nat := if n ≤ 4 then 1 else n / 4
/-- The data a store of n bytes takes from registers. -/
def Frame.stored (fr : Frame) (d : Reg) (n t : Nat) : BitVec 128 :=
  if n = 16 then fr.v.quad d.toNat t
  else if n = 8 then (fr.v.pair d.toNat t).setWidth 128
  else (fr.v.reg d.toNat t).setWidth 128

/-- The sampler's type of a load (10 R302). -/
def OpKind.sampled : OpKind → Nat
  | .readOnly _ _ => 3
  | _ => 0
/-- A generic load, acquire load or LDRO. -/
def State.load (s : State) (fr : Frame) (i : Instr) (d a : Reg) (imm : BitVec 7) (n : Nat) (kind : OpKind) : State :=
  let acc : Access :=
    { checks := pairCheck a, place := fun t => s.generic fr (fr.va a imm n t) n .load, kind := kind, ctr := .ld,
      data := fun _ => 0, cmp := fun _ => 0, retag := fun w => w.tagWords d.toNat (regsOf n) (modeEtype fr.v.mode) }
  acc.issue s fr i fun s vas => s.noteAccess fr vas .load kind.sampled
/-- A generic store or release store. -/
def State.storeOp (s : State) (fr : Frame) (i : Instr) (d a : Reg) (imm : BitVec 7) (n : Nat) (rel : Bool) : State :=
  let acc : Access :=
    { checks := pairCheck a, place := fun t => s.generic fr (fr.va a imm n t) n .store, kind := .store n rel,
      ctr := .st, data := fr.stored d n, cmp := fun _ => 0, retag := id }
  acc.issue s fr i fun s vas => s.noteAccess fr vas .store 1

/-! ## Scratchpads (06 R172, R173) -/

/-- The scratch address of a slot. -/
def Frame.scratchVa (fr : Frame) (a : Reg) (imm : BitVec 7) (scale t : Nat) : Word :=
  fr.v.reg a.toNat t + BitVec.ofInt 32 (imm.toInt * scale)
/-- Where a scratchpad access leads. -/
def State.scratchAt (s : State) (fr : Frame) (x : Word) (n : Nat) : DWord × Except Cause Nat :=
  (x.setWidth 64, s.scratch fr.g x n n true)
/-- lds and lds.q. -/
def State.scratchLoad (s : State) (fr : Frame) (i : Instr) (d a : Reg) (imm : BitVec 7) (n : Nat) : State :=
  let acc : Access :=
    { checks := [(a, isInt)], place := fun t => s.scratchAt fr (fr.scratchVa a imm n t) n, kind := .scratchLoad d n,
      ctr := .ld, data := fun _ => 0, cmp := fun _ => 0,
      retag := fun w => w.tagWords d.toNat (regsOf n) (modeEtype fr.v.mode) }
  acc.issue s fr i fun s _ => s
/-- sts and sts.q. -/
def State.scratchStore (s : State) (fr : Frame) (i : Instr) (d a : Reg) (imm : BitVec 7) (n : Nat) : State :=
  let acc : Access :=
    { checks := [(a, isInt)], place := fun t => s.scratchAt fr (fr.scratchVa a imm n t) n, kind := .scratchStore n,
      ctr := .st, data := fr.stored d n, cmp := fun _ => 0, retag := id }
  acc.issue s fr i fun s _ => s

/-! ## Tag tables (06 R174, R175) -/

/-- The status word of an entry. -/
def TagEnt.status (e : TagEnt) : Word :=
  BitVec.ofNat 32 ((if e.valid then 1 else 0) + (if e.pinned then 2 else 0) + (if e.dirty then 4 else 0) + e.owner * 256)
/-- An entry that has never been written. -/
def TagEnt.empty : TagEnt := { valid := false, pinned := false, dirty := false, owner := 0, va := 0 }
/-- An entry of a core. -/
def Core.tagEnt (c : Core) (k : Nat) : TagEnt := c.tags.lookD k TagEnt.empty
/-- An entry replaced. -/
def Core.setTagEnt (c : Core) (k : Nat) (e : TagEnt) : Core := { c with tags := c.tags.put k e }
/-- The page of a VA, as an entry holds it. -/
def tilePage (va : DWord) : DWord := va &&& ~~~0xFFF#64
/-- The slot of the valid entry of a context that holds a VA. -/
def Core.findTile (c : Core) (ctx : Nat) (va : DWord) : Option Nat :=
  (c.tags.find? fun e => e.2.valid && e.2.owner = ctx && e.2.va = tilePage va).map (·.1)
/-- tagl in one slot. -/
def Core.tagLook (c : Core) (core ctx : Nat) (va : DWord) : Word :=
  match c.findTile ctx va with
  | some k => BitVec.ofNat 32 (core % 24 * 2 ^ 27 + k * 4096 + va.toNat % 4096)
  | none => 0xFFFFFFFF
/-- tagi in one slot: the core after it, and the result. -/
def Core.tagInstall (c : Core) (ctx k : Nat) (va : DWord) : Core × Word :=
  let e := c.tagEnt k
  let free := !e.valid || (e.owner = ctx && !e.pinned && !e.dirty)
  let dup := c.tags.any fun x => x.1 != k && x.2.valid && x.2.owner = ctx && x.2.va = tilePage va
  if free && !dup then
    (c.setTagEnt k { valid := true, pinned := false, dirty := false, owner := ctx, va := tilePage va }, 1)
  else (c, 0)
/-- tage in one slot. -/
def Core.tagEvict (c : Core) (ctx k : Nat) : Core × Word :=
  let e := c.tagEnt k
  (if e.valid && e.owner = ctx && !e.pinned then c.setTagEnt k { e with valid := false, pinned := false, dirty := false }
    else c, e.status)
/-- tagp in one slot. -/
def Core.tagPin (c : Core) (ctx k : Nat) (b : Word) : Core × Word :=
  let e := c.tagEnt k
  (if e.valid && e.owner = ctx then
      c.setTagEnt k { e with pinned := b.getLsbD 0, dirty := if b.getLsbD 1 then b.getLsbD 2 else e.dirty }
    else c, e.status)
/-- tagt in one slot. -/
def Core.tagRead (c : Core) (k : Nat) (b : Word) : Word :=
  let e := c.tagEnt k
  if b = 0 then e.status
  else if b = 1 then BitVec.ofNat 32 (e.va.toNat / 4096 % 2 ^ 20 * 4096)
  else if b = 2 then e.va.extractLsb' 32 32
  else 0

/-- The tag-table slot a scratch address names: core field 31 or the issuing core (06 R174). -/
def State.tagSlot (s : State) (fr : Frame) (x : Word) : Except Cause Nat :=
  match s.scratch fr.g x 1 1 false with
  | .error c => .error c
  | .ok key => if scratchCore fr.g.core x = some fr.g.core then .ok (cellOf key / 4096) else .error .prot
/-- A tag-table instruction, one participating slot at a time, ascending; slots with a cause do not take part. -/
def State.tagTable (s : State) (fr : Frame) (i : Instr) (d : Reg) (checks : List (Reg × (Byte → Bool)))
    (place : Nat → DWord × Except Cause Nat) (f : Core → Nat → Nat → Core × Word) : State :=
  match fr.look.first checks with
  | some r => s.trapAll fr .tag fr.act r 0
  | none =>
    let ts := slotsOf fr.part
    let bad := causesOf place ts
    let good := ts.filter fun t => !bad.any fun x => x.1 = t
    let slot : Nat → Nat := fun t => match (place t).2 with
      | .ok k => k
      | .error _ => 0
    let run := good.foldl (fun (p : Core × Tab Word) t => let q := f p.1 (slot t) t; (q.1, p.2.put t q.2))
      (s.core fr.g.core, [])
    let w := fr.w.writeCol d.toNat (maskOf good) fun t => run.2.lookD t 0
    let w := if good = [] && bad != [] then w else w.setTag d.toNat 0x11
    (s.setCore fr.g.core run.1).afterIssue fr w i bad
/-- The slot of a scratch address, PROT for a valid entry of another context when `own`. -/
def State.tagPlace (s : State) (fr : Frame) (r : Reg) (own : Bool) (t : Nat) : DWord × Except Cause Nat :=
  let x := fr.v.reg r.toNat t
  (x.setWidth 64, match s.tagSlot fr x with
    | .error c => .error c
    | .ok k =>
      let e := (s.core fr.g.core).tagEnt k
      if own && e.valid && e.owner != fr.g.ctx then .error .prot else .ok k)

/-- The pins a tagp writes are the program's from then on: the ladle's notes of them are dropped (11 R316). -/
def State.forgetNotes (s : State) (fr : Frame) (a : Reg) : State :=
  let ks := if (fr.look.first [(a, isInt)]).isSome then []
    else (slotsOf fr.part).filterMap fun t => match (s.tagPlace fr a true t).2 with
      | .ok k => if ((s.core fr.g.core).tagEnt k).valid && ((s.core fr.g.core).tagEnt k).owner = fr.g.ctx then some k else none
      | .error _ => none
  { s with
    groups := s.groups.map fun (g : Nat × Group) =>
      if g.2.core = fr.g.core then (g.1, { g.2 with notes := g.2.notes.filter fun k => !ks.contains k }) else g
    contexts := s.contexts.map fun (c : Nat × Context) => (c.1, { c.2 with launches := c.2.launches.map fun (l : Nat × Launch) =>
      (l.1, { l.2 with chunks := l.2.chunks.map fun (x : Chunk) =>
        if x.core = fr.g.core then { x with noted := x.noted.filter fun k => !ks.contains k } else x }) }) }

/-! ## Atomics (06 R176, R177) -/

/-- An atomic of n bytes: its check list in the order d, a, b, its operation, and whether d is compared. -/
def State.atomic (s : State) (fr : Frame) (i : Instr) (d a b : Reg) (n : Nat)
    (checks : List (Reg × (Byte → Bool))) (f : AtomOp) : State :=
  let tag : Byte := if n = 8 then 0x12 else fr.look.res b.toNat
  let acc : Access :=
    { checks := checks, place := fun t => s.generic fr (fr.v.pair a.toNat t) n .atomic, kind := .atomic d n f,
      ctr := if d = 0 then .st else .ld, data := fr.stored b n, cmp := fr.stored d n,
      retag := fun w => w.tagWords d.toNat (regsOf n) tag }
  acc.issue s fr i fun s vas => s.noteAccess fr vas .atomic 2
/-- A 32-bit atomic whose operand has a class of tags. -/
def State.atomic32 (s : State) (fr : Frame) (i : Instr) (d a b : Reg) (ok : Byte → Bool) (f : AtomOp) : State :=
  s.atomic fr i d a b 4 (pairCheck a ++ [(b, ok)]) f
/-- Signed when the resolved tag of b is I32. -/
def Frame.signedBy (fr : Frame) (b : Reg) : Bool := fr.look.res b.toNat = 0x10

/-! ## Fences, waits and barriers (06 R168, R170, R178 to R186) -/

/-- fence: every earlier access of the wave is performed at the MODE.scope it was issued with, before any later one issues
(06 R168; 09 R258); as an acquire it orders what the wave's group has seen (09 R263). -/
def State.fenceAll (s : State) (fr : Frame) (i : Instr) : State :=
  match s.releaseAt fr.gid fr.wid (BitVec.allOnes 64) (modeScope fr.v.mode) with
  | some s => (s.finish fr fr.w i).heed fr.gid fr.wid (BitVec.allOnes 64) s.nextOp
  | none => s.waitOn fr fr.w (.waiting (.fence (modeScope fr.v.mode) s.nextOp))
/-- The instruction is complete, and its fragment's next issue is some cycles later. -/
def State.finishLater (s : State) (fr : Frame) (i : Instr) (cycles : Nat) : State :=
  (s.putWave fr ((fr.w.advance fr.ent { fr.f with st := .ready } (sizeOf4 i / 4) (s.cycle + cycles)).getD fr.w)).moved
/-- fence.ro on a core: its read-only partition has no lines, and returns nothing older than now; a store issued before
now is not passed over (06 R170; 09 R273). -/
def State.emptyRo (s : State) (core : Nat) : State :=
  s.onCore core fun c => { c with ro := [], roSince := s.past.length, roFloors := [], roFence := s.nextOp }
/-- A threshold of waitc: 15 places no condition. -/
def Wave.within (w : Wave) (k : CtrKind) (n : BitVec 4) : Bool := n = 15 || (w.ctr.get k).toNat ≤ n.toNat
/-- waitc. -/
def State.waitCounters (s : State) (fr : Frame) (i : Instr) (tl cp st ld : BitVec 4) : State :=
  if fr.w.within .ld ld && fr.w.within .st st && fr.w.within .cp cp && fr.w.within .tl tl then s.finish fr fr.w i
  else s.awaitCounters fr
/-- The deferred remote fault of a wave is raised at a wait or a read of ctr.xr (06 R192). -/
def State.remoteFault (s : State) (fr : Frame) (e : RemoteFault) : State :=
  s.trap fr false { fr.w with dfr := none }
    { cause := e.cause, mask := e.slots, addr := e.target, recorded := e.slots }
/-- waitr. DEDUCED (assumption log 111): with a deferred remote fault recorded, it traps once its threshold is met. -/
def State.waitCounter (s : State) (fr : Frame) (i : Instr) (a : Reg) (k : CtrKind) : State :=
  match fr.look.first [(a, isInt)] with
  | some r => s.trapAll fr .tag fr.act r 0
  | none =>
    if (fr.v.reg a.toNat fr.u).toNat < (fr.w.ctr.get k).toNat then s.awaitCounters fr
    else match k, fr.w.dfr with
      | .xr, some e => s.remoteFault fr e
      | _, _ => s.finish fr fr.w i
/-- ctrr. -/
def State.readCounter (s : State) (fr : Frame) (i : Instr) (d : Reg) (k : CtrKind) : State :=
  match k, fr.w.dfr with
  | .xr, some e => s.remoteFault fr e
  | _, _ => s.finish fr ((fr.w.writeCol d.toNat fr.act fun _ => (fr.w.ctr.get k).setWidth 32).setTag d.toNat 0x11) i
/-- bar: a release at the wider of group and the MODE.scope it was issued with, then the arrival of F (06 R181; 09 R258). -/
def State.barrierHere (s : State) (fr : Frame) : State :=
  let scope := if modeScope fr.v.mode = 0 then 1 else modeScope fr.v.mode
  match s.releaseAt fr.gid fr.wid fr.act scope with
  | none => s.waitOn fr fr.w (.waiting (.arriving scope s.nextOp))
  | some s => (s.waitOn fr fr.w (.waiting .barrier)).checkBar fr.gid

/-- The object of slot u, or the cause it raises (06 R184). -/
def State.objectOf (s : State) (fr : Frame) (a : Reg) : Except Cause Nat :=
  let va := fr.v.pair a.toNat fr.u
  if va.toNat % 64 != 0 then .error .align else s.locate (some fr.g.core) fr.g.ctx va .atomic fr.priv
/-- A cause raised on slot u alone by an instruction that acts once. -/
def State.trapU (s : State) (fr : Frame) (c : Cause) (addr : DWord) : State :=
  s.trapAll fr c (slotBit fr.u) 0 addr
/-- An arrival as a tracking list enters it: context, object, and the phase the object has now (06 R184). -/
abbrev Arrival := Nat × DWord × Word
/-- An arrival on the object at a key. -/
def State.arrivalOf (s : State) (ctx : Nat) (va : DWord) (key : Nat) : Arrival := (ctx, va, BitVec.ofNat 32 (s.num (key + 0x20) 4))
/-- The tracking list of a core has an entry for an arrival. -/
def Core.tracks (c : Core) (x : Arrival) : Bool := c.track.any fun t => t.ctx = x.1 && t.object = x.2.1 && t.phase = x.2.2
/-- The arrivals under way on a core. -/
def State.arriving (s : State) (core : Nat) : List Arrival :=
  s.ops.filterMap fun e => match e.2.kind with
    | .arrive va key => if e.2.core = core then some (s.arrivalOf e.2.ctx va key) else none
    | _ => none
/-- The tracking list of a core has room for one more entry, whatever entries the arrivals under way come to need: the phase
of an object may change meanwhile (assumption log 107). -/
def State.trackRoom (s : State) (core : Nat) : Bool := (s.core core).track.length + (s.arriving core).length < 64
/-- An arrival needs a 65th entry: neither the tracking list of its core nor an arrival under way there has one for it, and as
things stand those fill the list (06 R184). -/
def State.trackFull (s : State) (core : Nat) (x : Arrival) : Bool :=
  let l := s.arriving core
  !(s.core core).tracks x && !l.contains x &&
    64 ≤ (s.core core).track.length + (l.filter fun y => !(s.core core).tracks y).eraseDups.length
/-- baro.arr: the arrival is an operation of its own; where it might find no room in the tracking list the fragment waits for
it, and where it needs a 65th entry an early assay is requested. -/
def State.arriveAt (s : State) (fr : Frame) (i : Instr) (a : Reg) : State :=
  match fr.look.first (pairCheck a) with
  | some r => s.trapAll fr .tag fr.act r 0
  | none =>
    let va := fr.v.pair a.toNat fr.u
    match s.objectOf fr a with
    | .error c => s.trapU fr c va
    | .ok key =>
      if fr.w.ctr.get .st = 63 then s.holdOn fr
      else if !s.trackRoom fr.g.core then
        ((s.noteAccess fr [va] .atomic 2).onCore fr.g.core fun c =>
          { c with early := c.early || s.trackFull fr.g.core (s.arrivalOf fr.g.ctx va key) }).waitOn fr fr.w
          (.waiting (.room va (modeScope fr.v.mode)))
      else
        let s := s.noteAccess fr [va] .atomic 2
        (s.pushOp
          { gid := fr.gid, wave := fr.wid, ctx := fr.g.ctx, serial := fr.g.serial, core := fr.g.core, ctr := some .st,
            kind := .arrive va key,
            accs := [{ slot := fr.u, va := va, key := key, data := 0, cmp := 0, done := false, grp := false,
                       heed := fr.w.heard.lookD fr.u 0 }],
            scope := modeScope fr.v.mode, promote := false, issued := s.tick, tmo := modeTmo fr.v.mode }).finish
          fr (fr.w.count .st) i
/-- baro.wt. -/
def State.waitObject (s : State) (fr : Frame) (i : Instr) (d a b : Reg) : State :=
  match fr.look.first (pairCheck a ++ [(b, isInt)]) with
  | some r => s.trapAll fr .tag fr.act r 0
  | none =>
    let va := fr.v.pair a.toNat fr.u
    match s.objectOf fr a with
    | .error c => s.trapU fr c va
    | .ok _ =>
      let s := s.noteAccess fr [va] .atomic 0
      let settled := (fr.v.reg b.toNat fr.u).getLsbD 0
      let h := s.objectHolds fr.g.ctx va settled
      if h.1 then (s.finish fr (fr.w.objectResult d fr.act h.2) i).heed fr.gid fr.wid fr.act s.nextOp
      else s.waitOn fr fr.w (.waiting (.object d va settled (s.tick + modeTmo fr.v.mode)))

/-! ## The instructions -/

/-- ldb: Loads a byte zero-extended (06 R164). -/
def execLdb (hold : BitVec 2) (d : Reg) (a : Reg) (imm : BitVec 7) (s : State) : Out :=
  onCoreOnly (.ldb hold d a imm) s fun fr => s.load fr (.ldb hold d a imm) d a imm 1 (.load d 1 false false)

/-- ldbs: Loads a byte sign-extended (06 R164). -/
def execLdbs (hold : BitVec 2) (d : Reg) (a : Reg) (imm : BitVec 7) (s : State) : Out :=
  onCoreOnly (.ldbs hold d a imm) s fun fr => s.load fr (.ldbs hold d a imm) d a imm 1 (.load d 1 true false)

/-- ldh: Loads a halfword zero-extended (06 R164). -/
def execLdh (hold : BitVec 2) (d : Reg) (a : Reg) (imm : BitVec 7) (s : State) : Out :=
  onCoreOnly (.ldh hold d a imm) s fun fr => s.load fr (.ldh hold d a imm) d a imm 2 (.load d 2 false false)

/-- ldhs: Loads a halfword sign-extended (06 R164). -/
def execLdhs (hold : BitVec 2) (d : Reg) (a : Reg) (imm : BitVec 7) (s : State) : Out :=
  onCoreOnly (.ldhs hold d a imm) s fun fr => s.load fr (.ldhs hold d a imm) d a imm 2 (.load d 2 true false)

/-- ld: Loads a 32-bit word (06 R164). -/
def execLd (hold : BitVec 2) (d : Reg) (a : Reg) (imm : BitVec 7) (s : State) : Out :=
  onCoreOnly (.ld hold d a imm) s fun fr => s.load fr (.ld hold d a imm) d a imm 4 (.load d 4 false false)

/-- ldd: Loads 8 bytes into a pair (06 R164). -/
def execLdd (hold : BitVec 2) (d : Reg) (a : Reg) (imm : BitVec 7) (s : State) : Out :=
  onCoreOnly (.ldd hold d a imm) s fun fr => s.load fr (.ldd hold d a imm) d a imm 8 (.load d 8 false false)

/-- ldq: Loads 16 bytes into a quad (06 R164). -/
def execLdq (hold : BitVec 2) (d : Reg) (a : Reg) (imm : BitVec 7) (s : State) : Out :=
  onCoreOnly (.ldq hold d a imm) s fun fr => s.load fr (.ldq hold d a imm) d a imm 16 (.load d 16 false false)

/-- stb: Stores a byte (06 R165). -/
def execStb (hold : BitVec 2) (d : Reg) (a : Reg) (imm : BitVec 7) (s : State) : Out :=
  onCoreOnly (.stb hold d a imm) s fun fr => s.storeOp fr (.stb hold d a imm) d a imm 1 false

/-- sth: Stores a halfword (06 R165). -/
def execSth (hold : BitVec 2) (d : Reg) (a : Reg) (imm : BitVec 7) (s : State) : Out :=
  onCoreOnly (.sth hold d a imm) s fun fr => s.storeOp fr (.sth hold d a imm) d a imm 2 false

/-- st: Stores a word (06 R165). -/
def execSt (hold : BitVec 2) (d : Reg) (a : Reg) (imm : BitVec 7) (s : State) : Out :=
  onCoreOnly (.st hold d a imm) s fun fr => s.storeOp fr (.st hold d a imm) d a imm 4 false

/-- std: Stores a pair (06 R165). -/
def execStd (hold : BitVec 2) (d : Reg) (a : Reg) (imm : BitVec 7) (s : State) : Out :=
  onCoreOnly (.std hold d a imm) s fun fr => s.storeOp fr (.std hold d a imm) d a imm 8 false

/-- stq: Stores a quad (06 R165). -/
def execStq (hold : BitVec 2) (d : Reg) (a : Reg) (imm : BitVec 7) (s : State) : Out :=
  onCoreOnly (.stq hold d a imm) s fun fr => s.storeOp fr (.stq hold d a imm) d a imm 16 false

/-- ld.acq: Word load with acquire semantics at MODE.scope (06 R167). -/
def execLdAcq (hold : BitVec 2) (d : Reg) (a : Reg) (imm : BitVec 7) (s : State) : Out :=
  onCoreOnly (.ldAcq hold d a imm) s fun fr => s.load fr (.ldAcq hold d a imm) d a imm 4 (.load d 4 false true)

/-- ldd.acq: Pair load with acquire semantics (06 R167). -/
def execLddAcq (hold : BitVec 2) (d : Reg) (a : Reg) (imm : BitVec 7) (s : State) : Out :=
  onCoreOnly (.lddAcq hold d a imm) s fun fr => s.load fr (.lddAcq hold d a imm) d a imm 8 (.load d 8 false true)

/-- st.rel: Word store with release semantics (06 R167). -/
def execStRel (hold : BitVec 2) (d : Reg) (a : Reg) (imm : BitVec 7) (s : State) : Out :=
  onCoreOnly (.stRel hold d a imm) s fun fr => s.storeOp fr (.stRel hold d a imm) d a imm 4 true

/-- std.rel: Pair store with release semantics (06 R167). -/
def execStdRel (hold : BitVec 2) (d : Reg) (a : Reg) (imm : BitVec 7) (s : State) : Out :=
  onCoreOnly (.stdRel hold d a imm) s fun fr => s.storeOp fr (.stdRel hold d a imm) d a imm 8 true

/-- ldro: Word load through the read-only partition (06 R169). -/
def execLdro (hold : BitVec 2) (d : Reg) (a : Reg) (imm : BitVec 7) (s : State) : Out :=
  onCoreOnly (.ldro hold d a imm) s fun fr => s.load fr (.ldro hold d a imm) d a imm 4 (.readOnly d 4)

/-- ldro.q: Quad load through the read-only partition (06 R169). -/
def execLdroQ (hold : BitVec 2) (d : Reg) (a : Reg) (imm : BitVec 7) (s : State) : Out :=
  onCoreOnly (.ldroQ hold d a imm) s fun fr => s.load fr (.ldroQ hold d a imm) d a imm 16 (.readOnly d 16)

/-- pref: Requests a line into the owner die's L2 without faulting (06 R171). DEDUCED (assumption log 64): it does not obey the
guard, and every slot of F requests its line. -/
def execPref (hold : BitVec 2) (a : Reg) (imm : BitVec 7) (s : State) : Out :=
  onCoreOnly (.pref hold a imm) s fun fr =>
    match fr.look.first (pairCheck a) with
    | some r => s.trapAll fr .tag fr.act r 0
    | none => (s.noteAccess fr ((slotsOf fr.act).map (fr.va a imm 128)) .load 0).finish fr fr.w (.pref hold a imm)

/-- lds: Loads a word from an isle scratchpad (06 R173). -/
def execLds (hold : BitVec 2) (d : Reg) (a : Reg) (imm : BitVec 7) (s : State) : Out :=
  onCoreOnly (.lds hold d a imm) s fun fr => s.scratchLoad fr (.lds hold d a imm) d a imm 4

/-- lds.q: Loads 16 bytes from a scratchpad (06 R173). -/
def execLdsQ (hold : BitVec 2) (d : Reg) (a : Reg) (imm : BitVec 7) (s : State) : Out :=
  onCoreOnly (.ldsQ hold d a imm) s fun fr => s.scratchLoad fr (.ldsQ hold d a imm) d a imm 16

/-- sts: Stores a word to a scratchpad (06 R173). -/
def execSts (hold : BitVec 2) (d : Reg) (a : Reg) (imm : BitVec 7) (s : State) : Out :=
  onCoreOnly (.sts hold d a imm) s fun fr => s.scratchStore fr (.sts hold d a imm) d a imm 4

/-- sts.q: Stores 16 bytes to a scratchpad (06 R173). -/
def execStsQ (hold : BitVec 2) (d : Reg) (a : Reg) (imm : BitVec 7) (s : State) : Out :=
  onCoreOnly (.stsQ hold d a imm) s fun fr => s.scratchStore fr (.stsQ hold d a imm) d a imm 16

/-- tagl: Looks up a tile VA in the core's tag table (06 R175). -/
def execTagl (hold : BitVec 2) (d : Reg) (a : Reg) (s : State) : Out :=
  onCoreOnly (.tagl hold d a) s fun fr =>
    s.tagTable fr (.tagl hold d a) d (pairCheck a) (fun _ => (0, .ok 0))
    fun c _ t => (c, c.tagLook fr.g.core fr.g.ctx (fr.v.pair a.toNat t))

/-- tagi: Installs a tile VA into a tag-table entry (06 R175). -/
def execTagi (hold : BitVec 2) (d : Reg) (a : Reg) (b : Reg) (s : State) : Out :=
  onCoreOnly (.tagi hold d a b) s fun fr =>
    s.tagTable fr (.tagi hold d a b) d (pairCheck a ++ [(b, isInt)]) (s.tagPlace fr b false)
    fun c k t => c.tagInstall fr.g.ctx k (fr.v.pair a.toNat t)

/-- tage: Evicts an unpinned own tag-table entry (06 R175). -/
def execTage (hold : BitVec 2) (d : Reg) (a : Reg) (s : State) : Out :=
  onCoreOnly (.tage hold d a) s fun fr =>
    s.tagTable fr (.tage hold d a) d [(a, isInt)] (s.tagPlace fr a true) fun c k _ => c.tagEvict fr.g.ctx k

/-- tagp: Sets the pinned and dirty bits of an own entry (06 R175). -/
def execTagp (hold : BitVec 2) (d : Reg) (a : Reg) (b : Reg) (s : State) : Out :=
  onCoreOnly (.tagp hold d a b) s fun fr =>
    (s.forgetNotes fr a).tagTable fr (.tagp hold d a b) d [(a, isInt)] (s.tagPlace fr a true)
    fun c k t => c.tagPin fr.g.ctx k (fr.v.reg b.toNat t)

/-- tagt: Reads a tag-table entry's status or VA (06 R175). -/
def execTagt (hold : BitVec 2) (d : Reg) (a : Reg) (b : Reg) (s : State) : Out :=
  onCoreOnly (.tagt hold d a b) s fun fr =>
    s.tagTable fr (.tagt hold d a b) d [(a, isInt)] (s.tagPlace fr a false)
    fun c k t => (c, c.tagRead k (fr.v.reg b.toNat t))

/-- aadd: Atomic 32-bit add returning the old value (06 R176). -/
def execAadd (hold : BitVec 2) (d : Reg) (a : Reg) (b : Reg) (s : State) : Out :=
  onCoreOnly (.aadd hold d a b) s fun fr => s.atomic32 fr (.aadd hold d a b) d a b isInt .add

/-- amin: Atomic minimum (06 R176). -/
def execAmin (hold : BitVec 2) (d : Reg) (a : Reg) (b : Reg) (s : State) : Out :=
  onCoreOnly (.amin hold d a b) s fun fr => s.atomic32 fr (.amin hold d a b) d a b isInt (.min (fr.signedBy b))

/-- amax: Atomic maximum (06 R176). -/
def execAmax (hold : BitVec 2) (d : Reg) (a : Reg) (b : Reg) (s : State) : Out :=
  onCoreOnly (.amax hold d a b) s fun fr => s.atomic32 fr (.amax hold d a b) d a b isInt (.max (fr.signedBy b))

/-- aand: Atomic AND (06 R176). -/
def execAand (hold : BitVec 2) (d : Reg) (a : Reg) (b : Reg) (s : State) : Out :=
  onCoreOnly (.aand hold d a b) s fun fr => s.atomic32 fr (.aand hold d a b) d a b isAny .and

/-- aor: Atomic OR (06 R176). -/
def execAor (hold : BitVec 2) (d : Reg) (a : Reg) (b : Reg) (s : State) : Out :=
  onCoreOnly (.aor hold d a b) s fun fr => s.atomic32 fr (.aor hold d a b) d a b isAny .or

/-- axor: Atomic XOR (06 R176). -/
def execAxor (hold : BitVec 2) (d : Reg) (a : Reg) (b : Reg) (s : State) : Out :=
  onCoreOnly (.axor hold d a b) s fun fr => s.atomic32 fr (.axor hold d a b) d a b isAny .xor

/-- axch: Atomic exchange (06 R176). -/
def execAxch (hold : BitVec 2) (d : Reg) (a : Reg) (b : Reg) (s : State) : Out :=
  onCoreOnly (.axch hold d a b) s fun fr => s.atomic32 fr (.axch hold d a b) d a b isAny .xch

/-- acas: Atomic 32-bit compare-and-swap that always stores (06 R176). -/
def execAcas (hold : BitVec 2) (d : Reg) (a : Reg) (b : Reg) (s : State) : Out :=
  onCoreOnly (.acas hold d a b) s fun fr =>
    s.atomic fr (.acas hold d a b) d a b 4 ([(d, isAny)] ++ pairCheck a ++ [(b, isAny)]) .cas

/-- aadd64: Atomic 64-bit add (06 R176). -/
def execAadd64 (hold : BitVec 2) (d : Reg) (a : Reg) (b : Reg) (s : State) : Out :=
  onCoreOnly (.aadd64 hold d a b) s fun fr =>
    s.atomic fr (.aadd64 hold d a b) d a b 8 (pairCheck d ++ pairCheck a ++ pairCheck b) .add

/-- acas64: Atomic 64-bit compare-and-swap (06 R176). -/
def execAcas64 (hold : BitVec 2) (d : Reg) (a : Reg) (b : Reg) (s : State) : Out :=
  onCoreOnly (.acas64 hold d a b) s fun fr =>
    s.atomic fr (.acas64 hold d a b) d a b 8 (pairCheck d ++ pairCheck a ++ pairCheck b) .cas

/-- fence: Acquire and release at MODE.scope for the wave (06 R168). -/
def execFence (hold : BitVec 2) (s : State) : Out := onCoreOnly (.fence hold) s fun fr => s.fenceAll fr (.fence hold)

/-- fence.ro: Discards every line of the core's read-only partition (06 R170). -/
def execFenceRo (hold : BitVec 2) (s : State) : Out :=
  onCoreOnly (.fenceRo hold) s fun fr => (s.emptyRo fr.g.core).finishLater fr (.fenceRo hold) 68

/-- waitc: Holds the fragment until four counters reach their thresholds (06 R178). -/
def execWaitc (tl : BitVec 4) (cp : BitVec 4) (st : BitVec 4) (ld : BitVec 4) (s : State) : Out :=
  onCoreOnly (.waitc tl cp st ld) s fun fr => s.waitCounters fr (.waitc tl cp st ld) tl cp st ld

/-- waitr: Holds the fragment until a counter reaches a register threshold; raises a deferred fault (06 R179). -/
def execWaitr (hold : BitVec 2) (a : Reg) (cls : BitVec 7) (s : State) : Out :=
  onCoreOnly (.waitr hold a cls) s fun fr => s.waitCounter fr (.waitr hold a cls) a (ctrOf cls.toNat)

/-- ctrr: Reads a counter into every slot of the fragment (06 R179). -/
def execCtrr (hold : BitVec 2) (d : Reg) (cls : BitVec 7) (s : State) : Out :=
  onCoreOnly (.ctrr hold d cls) s fun fr => s.readCounter fr (.ctrr hold d cls) d (ctrOf cls.toNat)

/-- bar: Arrives the fragment at the group barrier (06 R181). -/
def execBar (hold : BitVec 2) (s : State) : Out := onCoreOnly (.bar hold) s fun fr => s.barrierHere fr

/-- baro.arr: Performs a provisional arrival on a barrier object and tracks it (06 R184). -/
def execBaroArr (hold : BitVec 2) (a : Reg) (s : State) : Out :=
  onCoreOnly (.baroArr hold a) s fun fr => s.arriveAt fr (.baroArr hold a) a

/-- baro.wt: Waits on a barrier object's arrived or settled count (06 R186). -/
def execBaroWt (hold : BitVec 2) (d : Reg) (a : Reg) (b : Reg) (s : State) : Out :=
  onCoreOnly (.baroWt hold d a b) s fun fr => s.waitObject fr (.baroWt hold d a b) d a b

/-! ## The events -/

/-- LOAD_RETURN (06 R161): the data of outstanding load `op` return for the thread slots `slots`. Uses op, slots. -/
def execLoadReturn (s : State) : Out := onEvent (s.loadReturn s.about.op s.about.slots)

/-- STORE_PERFORMED (06 R165): outstanding store or atomic `op` is performed for the thread slots `slots`. Uses op,
slots. -/
def execStorePerformed (s : State) : Out := onEvent (s.storePerformed s.about.op s.about.slots)

/-- EMPTY_ROW_TIMEOUT (06 R166): the slots `slots` of load `op`, waiting on empty rows, time out. Uses op, slots. -/
def execEmptyRowTimeout (s : State) : Out := onEvent (s.emptyTimeout s.about.op s.about.slots)

/-- BARO_WT_TIMEOUT (06 R186): the deadline of a baro.wt passes. Uses gid, wave, ent. -/
def execBaroWtTimeout (s : State) : Out :=
  onEvent (match s.waiting? s.about.gid s.about.wave s.about.ent with
    | some (g, w, f) => match f.st with
      | .waiting (.object d va settled t) =>
        if t ≤ s.tick then
          some (s.completeWith s.about.gid s.about.wave s.about.ent [d.toNat] fun y =>
            y.objectResult d (f.mask &&& w.alive) ((s.objectHolds g.ctx va settled).2 ||| 0x80000000))
        else none
      | _ => none
    | none => none)

/-- TRACKED_ARRIVAL (06 R184): a baro.arr held for room in the tracking list is performed, at the place its object's address
has then; where it has none the instruction is taken again, and raises the cause. Uses gid, wave, ent. -/
def execTrackedArrival (s : State) : Out :=
  onEvent (match s.waiting? s.about.gid s.about.wave s.about.ent with
    | some (g, w, f) => match f.st with
      | .waiting (.room va scope) =>
        match s.locate (some g.core) g.ctx va .atomic w.priv with
        | .error _ => some (s.setWave s.about.gid s.about.wave (w.setFrag s.about.ent { f with st := .ready }))
        | .ok key =>
          match s.releaseAt s.about.gid s.about.wave (f.mask &&& w.alive) scope with
          | none => none
          | some s' =>
            if (s'.core g.core).tracks (s'.arrivalOf g.ctx va key) || s'.trackRoom g.core then
              (s'.trackedArrival g.ctx g.core va key).map fun t => t.complete s.about.gid s.about.wave s.about.ent id
            else if s'.trackFull g.core (s'.arrivalOf g.ctx va key) then s.askAssay g.core
            else none
      | _ => none
    | none => none)

end Sys2Proof.Machine
end

