-- ==== Sys2Proof/Machine/Matrix.lean ====
section
/-! DEFINITION. The matrix side: its queue, weight images, multiplication, accumulators, drains and histograms (02 R62 to
R71; 07 R197 to R215, R222). -/

namespace Sys2Proof.Machine

/-! ## Engine operations (09 R270) -/

/-- The accesses of an engine operation: one for each page of its addresses, in the name of a slot. -/
def pageAccs (slot : Nat) (vas : List Nat) : List SlotAcc :=
  ((vas.map (· / 2 ^ 16)).eraseDups).map fun p =>
    { slot := slot, va := BitVec.ofNat 64 (p * 2 ^ 16), key := 0, data := 0, cmp := 0, done := false, grp := false }
/-- An engine operation of slot u, with the addresses it was translated for. -/
def State.engineOp (s : State) (fr : Frame) (ctr : CtrKind) (kind : OpKind) (vas : List Nat) : Op :=
  { gid := fr.gid, wave := fr.wid, ctx := fr.g.ctx, serial := fr.g.serial, core := fr.g.core, ctr := some ctr, kind := kind,
    accs := pageAccs fr.u vas, scope := 4, promote := false, issued := s.tick, tmo := modeTmo fr.v.mode }
/-- The addresses of the pages of a range. -/
def pageNats (va : DWord) (n : Nat) : List Nat := (pagesOf va n).map (·.toNat)
/-- 16-byte units written in order. -/
def State.putUnits (s : State) (ctx : Nat) : List Nat → List Byte → State
  | [], _ => s
  | k :: r, bs => (s.put ctx k (bs.take 16)).putUnits ctx r (bs.drop 16)
/-- The bytes of 16-byte units. -/
def State.readUnits (s : State) (keys : List Nat) : List Byte := keys.flatMap fun k => s.bytes k 16

/-! ## Formats (02 R69; 07 R203, R204, R208) -/

/-- The tag is a PK16, PK8 or PK4 code. -/
def isNarrow (t : Byte) : Bool := isPk16 t || isI8 t || isI4 t || isB8 t
/-- The element of a tag; 8-bit where it names none. -/
def elemOr (t : Byte) : Elem := (elemOf t).getD (.int 8 false)
/-- Elements of w bits in n bytes, ascending. -/
def unpackBits (w : Nat) (bs : List Byte) : List Nat :=
  let x := numOf bs
  (List.range (8 * bs.length / w)).map fun j => x / 2 ^ (w * j) % 2 ^ w
/-- Elements of w bits as bytes. -/
def packBits (w : Nat) (xs : List Nat) : List Byte :=
  bytesOf (xs.foldr (fun x a => a * 2 ^ w + x % 2 ^ w) 0) (w * xs.length / 8)
/-- The elements of a zero-run payload of w bits each: exactly `left` of them, with nothing left over. -/
def expandRuns (w : Nat) : Nat → Nat → List Byte → Option (List Nat)
  | _, 0, bs => if bs = [] then some [] else none
  | 0, _, _ => none
  | n + 1, left, bs =>
    if bs.length < 4 then none
    else
      let z := numOf (bs.take 2)
      let l := numOf ((bs.drop 2).take 2)
      let size := (l * w + 31) / 32 * 4
      let rest := bs.drop 4
      if rest.length < size || left < z + l then none
      else ((expandRuns w n (left - (z + l)) (rest.drop size))).map fun t =>
        List.replicate z 0 ++ (unpackBits w (rest.take size)).take l ++ t

/-- The fields of an image header. -/
def hdrTag (h : List Byte) : Byte := h.getD 0 0
/-- The length field. -/
def hdrLength (h : List Byte) : Nat := numOf ((h.drop 8).take 4)
/-- The K field. -/
def hdrK (h : List Byte) : Nat := numOf ((h.drop 4).take 2)
/-- The elements of a slot. -/
def WSlot.elements (w : WSlot) : Option (List Nat) :=
  let b := (elemOr w.tag).bits
  if w.enc = 0 then some (unpackBits b w.payload)
  else expandRuns b (w.payload.length + 1) (64 * w.k) w.payload
/-- The image is malformed (07 R204). -/
def imageBad (h payload : List Byte) : Bool :=
  let k := hdrK h
  let len := hdrLength h
  let t := hdrTag h
  h.getD 3 0 != 0 || numOf ((h.drop 6).take 2) != 0 || (h.drop 12).any (· != 0) || 2 ≤ (h.getD 2 0).toNat ||
    k < 32 || 256 < k || k % 32 != 0 || len < 4 || 32768 < len || len % 4 != 0 || !isNarrow t ||
    (if h.getD 2 0 = 0 then len != 64 * k * (elemOr t).bits / 8
      else (expandRuns (elemOr t).bits (payload.length + 1) (64 * k) payload).isNone)
/-- An image loaded as a slot (07 R204, R205). -/
def slotOf (h payload : List Byte) (poison : Bool) : WSlot :=
  if imageBad h payload then
    { tag := if isNarrow (hdrTag h) then 0xFF else hdrTag h, scale := 0, poison := poison, enc := (h.getD 2 0).toNat,
      k := hdrK h, payload := payload }
  else { tag := hdrTag h, scale := h.getD 1 0, poison := poison, enc := (h.getD 2 0).toNat, k := hdrK h,
         payload := payload }
/-- A slot that nothing was loaded into. -/
def WSlot.empty : WSlot := { tag := 0, scale := 0, poison := false, enc := 0, k := 0, payload := [] }
/-- An accumulator at launch. -/
def Accum.zero : Accum := { elems := [], scale := 0, act := 0, poison := false }
/-- A slot of a matrix side. -/
def Matrix.slot (m : Matrix) (t : Nat) : WSlot := m.slots.lookD t WSlot.empty
/-- An accumulator of a matrix side. -/
def Matrix.acc (m : Matrix) (a : Nat) : Accum := m.accs.lookD a Accum.zero
/-- Element (i, n) of an accumulator, encoded. -/
def Accum.elem (a : Accum) (i n : Nat) : Nat := (a.elems.lookD (64 * i + n) 0).toNat
/-- Rows of an accumulator replaced. -/
def Accum.setRows (a : Accum) (rows : Nat → Bool) (f : Nat → Nat → Nat) : Accum :=
  { a with elems := (List.range 4096).filterMap fun j =>
      let x := if rows (j / 64) then f (j / 64) (j % 64) else a.elem (j / 64) (j % 64)
      if x = 0 then none else some (j, BitVec.ofNat 80 x) }
/-- A matrix side changed. -/
def State.onMatrix (s : State) (core : Nat) (f : Matrix → Matrix) : State :=
  s.onCore core fun c => { c with mat := f c.mat }

/-! ## The queue (07 R198, R200, R222) -/

/-- The tiles an entry writes: slots 0 to 3, accumulators 4 to 7. -/
def MWork.writes : MWork → Nat
  | .wbld t _ _ _ => t
  | .wbz t => t
  | .mma a _ _ _ => 4 + a
  | .accz a _ => 4 + a
  | .accsv _ _ => 8
  | .accrs a _ => 4 + a
  | .tdrain _ _ _ _ => 8
  | .tscale sel t _ => if sel = 0 then t else 4 + t
/-- An issue on the matrix side: ILL without it; a wait while an earlier entry writes one of the tiles, the queue or the
counter is full, or the release has not been made. -/
def State.onTiles (s : State) (fr : Frame) (tiles : List Nat) (k : State → State) : State :=
  let m := (s.core fr.g.core).mat
  if m.holder != some fr.gid then s.trapAll fr .ill fr.act 0 0
  else if (m.queue.any fun e => tiles.contains e.work.writes) || 64 ≤ m.queue.length || fr.w.ctr.tl = 63 then s.holdOn fr
  else match s.releaseAt fr.gid fr.wid (BitVec.allOnes 64) 4 with
    | none => s.holdOn fr
    | some s => k s
/-- An entry enters the queue, and its instruction is complete. -/
def State.queueTile (s : State) (fr : Frame) (i : Instr) (work : MWork) (vas : List Nat) : State :=
  let e : MEntry := { gid := fr.gid, wave := fr.wid, ctx := fr.g.ctx, op := s.nextOp, work := work }
  ((s.pushOp (s.engineOp fr .tl .tile vas)).onMatrix fr.g.core fun m => { m with queue := m.queue ++ [e] }).finish fr
    (fr.w.count .tl) i
/-- The oldest entry is over: its count drops, and a side whose group has gone is released with its last entry. -/
def State.popEntry (s : State) (core : Nat) (e : MEntry) : State :=
  let s := s.onMatrix core fun m => { m with queue := m.queue.tail }
  let s := match s.ops.look e.op with
    | some o => s.endOp e.op o
    | none => s
  let m := (s.core core).mat
  if m.queue = [] && (match m.holder with
      | some g => (s.groups.look g).isNone
      | none => false) then s.onMatrix core fun _ => Matrix.empty
  else s
/-- An entry of the wanted kind at the head of the queue completes; a terminated group's results are discarded. -/
def State.entryDone (s : State) (core : Nat) (run : MEntry → Option State) : Option State :=
  match (s.core core).mat.queue with
  | [] => none
  | e :: _ => match run e with
    | none => none
    | some t => some ((if (s.core core).mat.discard then s else t).popEntry core e)
/-- None of some cells is held. -/
def State.cellsFree (s : State) (keys : List Nat) : Bool := !keys.any s.accessHeld

/-! ## What the entries do -/

/-- wbld: the payload is read and becomes the slot. -/
def State.runWbld (s : State) (core : Nat) (e : MEntry) : Option State :=
  match e.work with
  | .wbld t h bad keys =>
    if s.cellsFree keys then
      let payload := (s.readUnits keys).take (Nat.min (hdrLength h) 32768)
      some (s.onMatrix core fun m => { m with slots := m.slots.put t (slotOf h payload (bad || keys.any s.poisoned)) })
    else none
  | _ => none
/-- wbz. -/
def State.runWbz (s : State) (core : Nat) (e : MEntry) : Option State :=
  match e.work with
  | .wbz t => some (s.onMatrix core fun m => { m with slots := m.slots.del t })
  | _ => none
/-- The slots of rows die, at no address (assumption log 28). -/
def State.killRows (s : State) (e : MEntry) (rows : List RowAt) : State :=
  s.killSlots e.gid e.wave (rows.map fun r => (r.slot, 0))
/-- One element of a product: block by block of 32 (02 R64; 07 R209). -/
def mmaElem (k : Int) (blocks : Nat) (a b : Nat → Val) (c : Nat) : Nat :=
  (List.range blocks).foldl (fun c j =>
    accBlock c k ((List.range 32).map fun i => (a (32 * j + i), b (32 * j + i)))) c
/-- mma. -/
def State.runMma (s : State) (core : Nat) (e : MEntry) : Option State :=
  match e.work with
  | .mma a t fmt rows =>
    let m := (s.core core).mat
    let w := m.slot t
    let acc := m.acc a
    if w.poison || acc.poison then some (s.killRows e rows)
    else
      let fa := elemOr fmt
      let fb := elemOr w.tag
      let bs := (w.elements.getD []).toArray
      let k : Int := acc.act.toInt + w.scale.toInt - acc.scale.toInt
      let row : Nat → Nat → Nat := fun i n =>
        match rows.find? fun (r : RowAt) => r.slot = i with
        | none => acc.elem i n
        | some r =>
          let xs := (unpackBits fa.bits (s.bytes r.key (w.k * fa.bits / 8))).toArray
          mmaElem k (w.k / 32) (fun j => fa.read (xs.getD j 0)) (fun j => fb.read (bs.getD (64 * j + n) 0)) (acc.elem i n)
      some (s.onMatrix core fun m => { m with
        accs := m.accs.put a (acc.setRows (fun i => rows.any fun r => r.slot = i) row) })
  | _ => none
/-- accz. -/
def State.runAccz (s : State) (core : Nat) (e : MEntry) : Option State :=
  match e.work with
  | .accz a rows => some (s.onMatrix core fun m =>
      let acc := (m.acc a).setRows (inMask rows) fun _ _ => 0
      { m with accs := m.accs.put a { acc with poison := acc.poison && rows != BitVec.allOnes 64 } })
  | _ => none
/-- The save image of an accumulator (07 R212). -/
def Accum.image (a : Accum) : List Byte :=
  [0x70, a.scale, a.act] ++ List.replicate 61 0 ++
    (List.range 4096).flatMap fun j => bytesOf (a.elem (j / 64) (j % 64)) 10
/-- accsv. -/
def State.runAccsv (s : State) (core : Nat) (e : MEntry) : Option State :=
  match e.work with
  | .accsv a keys =>
    if s.cellsFree keys then
      let acc := (s.core core).mat.acc a
      let s := s.putUnits e.ctx keys acc.image
      some (if acc.poison then keys.foldl State.storePoison s else s)
    else none
  | _ => none
/-- An accumulator from its image. -/
def Accum.ofImage (bs : List Byte) (poison : Bool) : Accum :=
  let arr := bs.toArray
  { elems := (List.range 4096).filterMap fun j =>
      let x := numOf ((List.range 10).map fun o => arr.getD (64 + 10 * j + o) 0)
      if x = 0 then none else some (j, BitVec.ofNat 80 x),
    scale := bs.getD 1 0, act := bs.getD 2 0, poison := poison }
/-- accrs. -/
def State.runAccrs (s : State) (core : Nat) (e : MEntry) : Option State :=
  match e.work with
  | .accrs a keys =>
    if s.cellsFree keys then
      some (s.onMatrix core fun m => { m with
        accs := m.accs.put a (Accum.ofImage (s.readUnits keys) (keys.any s.poisoned)) })
    else none
  | _ => none
/-- The bin of a drained value (02 R71). -/
def histBin : Val → Nat
  | .nan _ => 31
  | .inf _ => 31
  | .fin _ m e =>
    if m = 0 then 0
    else
      let x := expOf m e
      if x ≤ -15 then 1 else if 15 ≤ x then 31 else (x + 16).toNat
/-- A drained element in its output format (07 R213). -/
def drainElem (fmt : Elem) (r : Round) (v : Val) : Res :=
  match fmt with
  | .int w g => toInt w g r v
  | .flt f => f.deliver r { val := v, iv := v.isSig }
/-- tdrain. -/
def State.runTdrain (s : State) (core : Nat) (e : MEntry) : Option State :=
  match e.work with
  | .tdrain a fmt mode rows =>
    let acc := (s.core core).mat.acc a
    if acc.poison then some (s.killRows e rows)
    else
      let f := elemOr fmt
      let r : Round := { rnd := modeRnd mode, sat := modeSat mode, ftz := modeFtz mode }
      let vals : List (RowAt × List Val) := rows.map fun x =>
        (x, (List.range 64).map fun n => (Fmt.acc80.read (acc.elem x.slot n)).scale acc.scale.toInt)
      let outs := vals.map fun x => (x.1, x.2.map (drainElem f r))
      let s := outs.foldl (fun s x =>
        let bs := packBits f.bits (x.2.map (·.bits))
        s.putUnits e.ctx ((List.range (bs.length / 16)).map fun j => x.1.key + 16 * j) bs) s
      let flags := outs.foldl (fun g x => x.2.foldl (fun g y => g ||| y.flags) g) 0
      let bins := vals.foldl (fun t x => x.2.foldl (fun (t : Tab Word) v =>
        let b := histBin v
        let c := t.lookD b 0
        if c = 0xFFFFFFFF then t else t.put b (c + 1)) t) ((s.core core).mat.hists.lookD a [])
      some ((s.onMatrix core fun m => { m with hists := m.hists.put a bins }).onWave e.gid e.wave fun w => w.raise flags)
  | _ => none
/-- tscale. -/
def State.runTscale (s : State) (core : Nat) (e : MEntry) : Option State :=
  match e.work with
  | .tscale sel t x => some (s.onMatrix core fun m =>
      if sel = 0 then { m with slots := m.slots.put t { m.slot t with scale := x } }
      else if sel = 1 then { m with accs := m.accs.put t { m.acc t with scale := x } }
      else { m with accs := m.accs.put t { m.acc t with act := x } })
  | _ => none

/-! ## Issue -/

/-- wbld (07 R205): the header is read and the image checked while the fragment waits. -/
def State.wbldAt (s : State) (fr : Frame) (i : Instr) (tile a : Reg) : State :=
  s.onTiles fr [tile.toNat] fun s =>
    match fr.look.first (pairCheck a) with
    | some r => s.trapAll fr .tag fr.act r 0
    | none =>
      let va := fr.v.pair a.toNat fr.u
      if va.toNat % 16 != 0 then s.trapU fr .align va
      else match s.rangeCause (some fr.g.core) fr.g.ctx va 32 .load fr.priv with
        | some c => s.trapU fr c.1 c.2
        | none =>
          let hk := s.unitKeys (some fr.g.core) fr.g.ctx va 32 16 .load fr.priv
          if !s.cellsFree hk then s.holdOn fr
          else
            let h := s.readUnits hk
            let n := 32 + Nat.min (hdrLength h) 32768
            match s.rangeCause (some fr.g.core) fr.g.ctx va n .load fr.priv with
            | some c => s.trapU fr c.1 c.2
            | none =>
              let keys := s.unitKeys (some fr.g.core) fr.g.ctx va ((n + 15) / 16 * 16) 16 .load fr.priv
              (s.noteAccess fr (linesIn va n) .load 0).queueTile fr i
                (.wbld tile.toNat h (hk.any s.poisoned) (keys.drop 2)) (pageNats va n)
/-- The row of a slot: its address, with the alignment and the extent of 07 R208 and R213. -/
def State.rowPlace (s : State) (fr : Frame) (a : Reg) (n t : Nat) : DWord × Except Cause Nat :=
  let x := fr.v.reg a.toNat t
  (x.setWidth 64, match s.scratch fr.g x 16 n true with
    | .error c => .error c
    | .ok k => if scratchCore fr.g.core x = some fr.g.core then .ok k else .error .prot)
/-- A tile instruction over rows: checks of every participating slot's row, all or nothing. -/
def State.withRows (s : State) (fr : Frame) (a : Reg) (n : Nat) (k : List RowAt → State) : State :=
  match fr.look.first [(a, isInt)] with
  | some r => s.trapAll fr .tag fr.act r 0
  | none =>
    let ts := slotsOf fr.part
    let bad := causesOf (s.rowPlace fr a n) ts
    match firstCause bad with
    | some c => s.trap fr false fr.w { accessTrap fr.act bad c with done := 0 }
    | none => k (ts.map fun t => { slot := t, key := match (s.rowPlace fr a n t).2 with
        | .ok key => key
        | .error _ => 0 })
/-- The integer formats an mma multiplies. -/
def isMatInt (t : Byte) : Bool := isI8 t || isI4 t
/-- The float formats of weights. -/
def isMatFlt (t : Byte) : Bool := isPk16 t || isB8 t
/-- mma (07 R208). -/
def State.mmaAt (s : State) (fr : Frame) (i : Instr) (tile a slot : Reg) : State :=
  if (s.core fr.g.core).mat.holder != some fr.gid then s.trapAll fr .ill fr.act 0 0
  else if fr.part = 0 then s.finish fr fr.w i
  else s.onTiles fr [4 + tile.toNat, slot.toNat] fun s =>
    let w := (s.core fr.g.core).mat.slot slot.toNat
    let fa := modeEtype fr.v.mode
    if !((isMatInt fa && isMatInt w.tag) || ((isFlt fa || isMatFlt fa) && isMatFlt w.tag)) then
      s.trapAll fr .tag fr.act 0 0
    else s.withRows fr a (w.k * (elemOr fa).bits / 8) fun rows =>
      s.queueTile fr i (.mma tile.toNat slot.toNat fa rows) []
/-- accz. -/
def State.acczAt (s : State) (fr : Frame) (i : Instr) (tile : Reg) : State :=
  if (s.core fr.g.core).mat.holder != some fr.gid then s.trapAll fr .ill fr.act 0 0
  else if fr.part = 0 then s.finish fr fr.w i
  else s.onTiles fr [4 + tile.toNat] fun s => s.queueTile fr i (.accz tile.toNat fr.part) []
/-- accsv and accrs. -/
def State.accImage (s : State) (fr : Frame) (i : Instr) (tile a : Reg) (save : Bool) : State :=
  s.onTiles fr [4 + tile.toNat] fun s =>
    match fr.look.first (pairCheck a) with
    | some r => s.trapAll fr .tag fr.act r 0
    | none =>
      let va := fr.v.pair a.toNat fr.u
      let k : AccKind := if save then .store else .load
      if va.toNat % 64 != 0 then s.trapU fr .align va
      else match s.rangeCause (some fr.g.core) fr.g.ctx va 41024 k fr.priv with
        | some c => s.trapU fr c.1 c.2
        | none =>
          let keys := s.unitKeys (some fr.g.core) fr.g.ctx va 41024 16 k fr.priv
          (s.noteAccess fr (linesIn va 41024) k (if save then 1 else 0)).queueTile fr i
            (if save then .accsv tile.toNat keys else .accrs tile.toNat keys) (pageNats va 41024)
/-- tdrain (07 R213). -/
def State.tdrainAt (s : State) (fr : Frame) (i : Instr) (tile a : Reg) : State :=
  if (s.core fr.g.core).mat.holder != some fr.gid then s.trapAll fr .ill fr.act 0 0
  else if fr.part = 0 then s.finish fr fr.w i
  else s.onTiles fr [4 + tile.toNat] fun s =>
    let fd := modeEtype fr.v.mode
    if (elemOf fd).isNone then s.trapAll fr .tag fr.act 0 0
    else s.withRows fr a (8 * (elemOr fd).bits) fun rows =>
      s.queueTile fr i (.tdrain tile.toNat fd fr.v.mode rows) []
/-- tscale (07 R214). -/
def State.tscaleAt (s : State) (fr : Frame) (i : Instr) (tile a sel : Reg) : State :=
  s.onTiles fr [if sel = 0 then tile.toNat else 4 + tile.toNat] fun s =>
    s.queueTile fr i (.tscale sel.toNat tile.toNat ((fr.v.reg a.toNat fr.u).extractLsb' 0 8)) []
/-- histrd and histz (07 R215) act at once. -/
def State.onHist (s : State) (fr : Frame) (k : Matrix → State) : State :=
  let m := (s.core fr.g.core).mat
  if m.holder != some fr.gid then s.trapAll fr .ill fr.act 0 0 else k m

/-! ## The instructions -/

/-- wbld: Checks and queues a weight image load into a slot (07 R205). -/
def execWbld (hold : BitVec 2) (tile : BitVec 7) (a : Reg) (s : State) : Out :=
  onCoreOnly (.wbld hold tile a) s fun fr => s.wbldAt fr (.wbld hold tile a) tile a

/-- wbz: Queues emptying of a weight slot (07 R206). -/
def execWbz (hold : BitVec 2) (tile : BitVec 7) (s : State) : Out :=
  onCoreOnly (.wbz hold tile) s fun fr => s.onTiles fr [tile.toNat] fun s => s.queueTile fr (.wbz hold tile) (.wbz tile.toNat) []

/-- mma: Checks and queues a matrix multiply-accumulate (07 R208). -/
def execMma (hold : BitVec 2) (tile : BitVec 7) (a : Reg) (slot : BitVec 7) (s : State) : Out :=
  onCoreOnly (.mma hold tile a slot) s fun fr => s.mmaAt fr (.mma hold tile a slot) tile a slot

/-- accz: Queues zeroing of accumulator rows (07 R212). -/
def execAccz (hold : BitVec 2) (tile : BitVec 7) (s : State) : Out :=
  onCoreOnly (.accz hold tile) s fun fr => s.acczAt fr (.accz hold tile) tile

/-- accsv: Queues saving an accumulator to memory (07 R212). -/
def execAccsv (hold : BitVec 2) (tile : BitVec 7) (a : Reg) (s : State) : Out :=
  onCoreOnly (.accsv hold tile a) s fun fr => s.accImage fr (.accsv hold tile a) tile a true

/-- accrs: Queues restoring an accumulator from memory (07 R212). -/
def execAccrs (hold : BitVec 2) (tile : BitVec 7) (a : Reg) (s : State) : Out :=
  onCoreOnly (.accrs hold tile a) s fun fr => s.accImage fr (.accrs hold tile a) tile a false

/-- tdrain: Checks and queues a drain of accumulator rows to scratchpad (07 R213). -/
def execTdrain (hold : BitVec 2) (tile : BitVec 7) (a : Reg) (s : State) : Out :=
  onCoreOnly (.tdrain hold tile a) s fun fr => s.tdrainAt fr (.tdrain hold tile a) tile a

/-- tscale: Queues setting a tile scale or activation exponent (07 R214). -/
def execTscale (hold : BitVec 2) (tile : BitVec 7) (a : Reg) (sel : BitVec 7) (s : State) : Out :=
  onCoreOnly (.tscale hold tile a sel) s fun fr => s.tscaleAt fr (.tscale hold tile a sel) tile a sel

/-- histrd: Reads exponent histogram bins at issue (07 R215). -/
def execHistrd (hold : BitVec 2) (d : Reg) (tile : BitVec 7) (s : State) : Out :=
  onCoreOnly (.histrd hold d tile) s fun fr => s.onHist fr fun m =>
    let bins := m.hists.lookD tile.toNat []
    s.finish fr ((fr.w.writeCol d.toNat fr.part fun t => bins.lookD (t % 32) 0).setTag d.toNat 0x11) (.histrd hold d tile)

/-- histz: Clears an exponent histogram at issue (07 R215). -/
def execHistz (hold : BitVec 2) (tile : BitVec 7) (s : State) : Out :=
  onCoreOnly (.histz hold tile) s fun fr => s.onHist fr fun _ =>
    (s.onMatrix fr.g.core fun m => { m with hists := m.hists.del tile.toNat }).finish fr fr.w (.histz hold tile)

/-! ## The events -/

/-- WBLD_ENTRY_DONE (07 R205): the matrix queue's oldest entry, a wbld, completes. Uses core. -/
def execWbldEntryDone (s : State) : Out := onEvent (s.entryDone s.about.core (s.runWbld s.about.core))

/-- WBZ_ENTRY_DONE (07 R206): the matrix queue's oldest entry, a wbz, completes. Uses core. -/
def execWbzEntryDone (s : State) : Out := onEvent (s.entryDone s.about.core (s.runWbz s.about.core))

/-- MMA_ENTRY_DONE (07 R209): the matrix queue's oldest entry, an mma, completes. Uses core. -/
def execMmaEntryDone (s : State) : Out := onEvent (s.entryDone s.about.core (s.runMma s.about.core))

/-- ACCZ_ENTRY_DONE (07 R212): the matrix queue's oldest entry, an accz, completes. Uses core. -/
def execAcczEntryDone (s : State) : Out := onEvent (s.entryDone s.about.core (s.runAccz s.about.core))

/-- ACCSV_ENTRY_DONE (07 R212): the matrix queue's oldest entry, an accsv, completes. Uses core. -/
def execAccsvEntryDone (s : State) : Out := onEvent (s.entryDone s.about.core (s.runAccsv s.about.core))

/-- ACCRS_ENTRY_DONE (07 R212): the matrix queue's oldest entry, an accrs, completes. Uses core. -/
def execAccrsEntryDone (s : State) : Out := onEvent (s.entryDone s.about.core (s.runAccrs s.about.core))

/-- TDRAIN_ENTRY_DONE (07 R213): the matrix queue's oldest entry, a tdrain, completes. Uses core. -/
def execTdrainEntryDone (s : State) : Out := onEvent (s.entryDone s.about.core (s.runTdrain s.about.core))

/-- TSCALE_ENTRY_DONE (07 R214): the matrix queue's oldest entry, a tscale, completes. Uses core. -/
def execTscaleEntryDone (s : State) : Out := onEvent (s.entryDone s.about.core (s.runTscale s.about.core))

end Sys2Proof.Machine
end

