-- ==== Sys2Proof/Machine/Copy.lean ====
section
/-! DEFINITION. The copy engine and layout copies with their registration (07 R216 to R221; 10 R286, R299). -/

namespace Sys2Proof.Machine

/-! ## Copy addresses (07 R216) -/

/-- The form of a copy address: virtual, or a scratch address. -/
def copyScratch (x : DWord) : Except Cause Bool :=
  if x.extractLsb' 48 4 = 0 then .ok false
  else if x.extractLsb' 48 16 = 0x000F then .ok true
  else .error .page
/-- The pieces of a scratch range, cut at slots: offsets in the range and sizes. -/
def slotPieces (x n : Nat) : List (Nat × Nat) :=
  if n = 0 then []
  else (List.range ((x % 4096 + n + 4095) / 4096)).map fun j =>
    let lo := if j = 0 then 0 else 4096 * j - x % 4096
    (lo, Nat.min n (4096 * (j + 1) - x % 4096) - lo)
/-- The first cause a range of a copy raises, with its address. -/
def State.copyCause (s : State) (fr : Frame) (x : DWord) (n : Nat) (k : AccKind) : Option (Cause × DWord) :=
  match copyScratch x with
  | .error c => some (c, x)
  | .ok true =>
    worst ((slotPieces (x.toNat % 2 ^ 32) n).filterMap fun p =>
      match s.scratch fr.g (x.extractLsb' 0 32 + BitVec.ofNat 32 p.1) 1 p.2 true with
      | .ok _ => none
      | .error c => some (c, x + BitVec.ofNat 64 p.1))
  | .ok false => s.rangeCause (some fr.g.core) fr.g.ctx x n k fr.priv
/-- The units of a range that raises no cause. -/
def State.copyUnits (s : State) (fr : Frame) (x : DWord) (n : Nat) (k : AccKind) : List (Nat × Nat) :=
  let keys := match copyScratch x with
    | .ok true => (List.range (n / 16)).map fun j =>
        match s.scratch fr.g (x.extractLsb' 0 32 + BitVec.ofNat 32 (16 * j)) 16 16 false with
        | .ok key => key
        | .error _ => 0
    | _ => s.unitKeys (some fr.g.core) fr.g.ctx x n 16 k fr.priv
  (keys.zipIdx).map fun e => (x.toNat + 16 * e.2, e.1)
/-- The address is in a scratchpad. -/
def isCopyScratch (x : DWord) : Bool := x.extractLsb' 48 4 != 0

/-- Which of several causes a copy reports: the first of 01 R41, at its lowest address. -/
def copyFirst (l : List (Cause × DWord)) : Option (Cause × DWord) :=
  l.foldl (fun best x => match best with
    | none => some x
    | some b => if x.1.rank < b.1.rank || (x.1.rank = b.1.rank && x.2.toNat < b.2.toNat) then some x else some b) none
/-- The causes of the addresses of a copy and of its ranges. -/
def State.copyCauses (s : State) (fr : Frame) (bases : List DWord) (l : List (DWord × Nat × AccKind)) :
    Option (Cause × DWord) :=
  copyFirst ((bases.filterMap fun x => if x.toNat % 16 != 0 then some (Cause.align, x) else none) ++
    l.filterMap fun e => s.copyCause fr e.1 e.2.1 e.2.2)

/-- The lines a copy is translated for are noted in TLBs and samplers. -/
def State.noteCopy (s : State) (fr : Frame) (l : List (DWord × Nat × AccKind)) : State :=
  s.noteAccess fr ((l.filter fun e => !(isCopyScratch e.1 || e.2.1 = 0)).flatMap fun e => linesIn e.1 e.2.1) .load 4

/-- A copy instruction: tag checks, the addresses, their ranges, whether lengths and shape break their limits,
whether nothing is to be copied, and the operation. -/
def State.copyIssue (s : State) (fr : Frame) (i : Instr) (checks : List (Reg × (Byte → Bool)))
    (bases : List DWord) (ends : List (DWord × Nat × AccKind)) (bad none' : Bool) (kind : State → OpKind) : State :=
  match fr.look.first checks with
  | some r => s.trapAll fr .tag fr.act r 0
  | none =>
    match s.copyCauses fr bases ends with
    | some c => s.trapU fr c.1 c.2
    | none =>
      if bad then s.trapU fr .align 0
      else if none' then s.finish fr fr.w i
      else if fr.w.ctr.cp = 63 then s.holdOn fr
      else match s.releaseAt fr.gid fr.wid (BitVec.allOnes 64) 4 with
        | none => s.holdOn fr
        | some s =>
          let vas := ends.flatMap fun e => if isCopyScratch e.1 then [e.1.toNat] else pageNats e.1 e.2.1
          ((s.noteCopy fr ends).pushOp (s.engineOp fr .cp (kind s) vas)).finish fr (fr.w.count .cp) i

/-- cpy. -/
def State.cpyAt (s : State) (fr : Frame) (i : Instr) (d a b : Reg) : State :=
  let dst := fr.v.pair d.toNat fr.u
  let src := fr.v.pair a.toNat fr.u
  let n := (fr.v.reg b.toNat fr.u).toNat
  s.copyIssue fr i (pairCheck d ++ pairCheck a ++ [(b, isInt)]) [dst, src] [(dst, n, .store), (src, n, .load)]
    (n % 16 != 0) (n = 0) fun s =>
    .copy (n / 16) { scratch := isCopyScratch src, units := s.copyUnits fr src n .load }
      { scratch := isCopyScratch dst, units := s.copyUnits fr dst n .store }
/-- cpy2d. -/
def State.cpy2dAt (s : State) (fr : Frame) (i : Instr) (d a b : Reg) : State :=
  let dst := fr.v.pair d.toNat fr.u
  let src := fr.v.pair a.toNat fr.u
  let q := fr.v.quad b.toNat fr.u
  let w := (q.extractLsb' 0 32).toNat
  let h := (q.extractLsb' 32 32).toNat
  let sp := (q.extractLsb' 64 32).toNat
  let dp := (q.extractLsb' 96 32).toNat
  let rows : DWord → Nat → AccKind → List (DWord × Nat × AccKind) := fun x p k =>
    if w = 0 || h = 0 then [(x, 0, k)]
    else (List.range h).map fun r => (x + BitVec.ofNat 64 (r * p), w, k)
  let bad := w % 16 != 0 || sp % 16 != 0 || dp % 16 != 0 || 65535 < h
  s.copyIssue fr i (pairCheck d ++ pairCheck a ++ (List.range 4).map fun j => (b + BitVec.ofNat 7 j, isInt))
    [dst, src] (rows dst dp .store ++ rows src sp .load) bad (w = 0 || h = 0) fun s =>
    .copy (w / 16)
      { scratch := isCopyScratch src, units := (rows src sp .load).flatMap fun e => s.copyUnits fr e.1 w .load }
      { scratch := isCopyScratch dst, units := (rows dst dp .store).flatMap fun e => s.copyUnits fr e.1 w .store }
/-- cpfill. -/
def State.cpfillAt (s : State) (fr : Frame) (i : Instr) (d a b : Reg) : State :=
  let dst := fr.v.pair d.toNat fr.u
  let n := (fr.v.reg b.toNat fr.u).toNat
  s.copyIssue fr i (pairCheck d ++ [(b, isInt)]) [dst] [(dst, n, .store)] (n % 16 != 0) (n = 0) fun s =>
    .fill (fr.v.reg a.toNat fr.u) { scratch := isCopyScratch dst, units := s.copyUnits fr dst n .store }

/-! ## Completion (07 R217, R218) -/

/-- One unit written: poison goes on to memory; to a scratchpad it becomes zeros, and slot u dies at the source. -/
def State.copyUnit (s : State) (o : Op) (src dst : Nat × Nat) (bs : List Byte) (bad : Bool) : State :=
  if !bad then s.put o.ctx dst.2 bs
  else if isScratch dst.2 then
    (s.put o.ctx dst.2 (List.replicate 16 0)).killSlots o.gid o.wave
      [(match o.accs.head? with
        | some a => a.slot
        | none => 0, BitVec.ofNat 64 src.1)]
  else (s.put o.ctx dst.2 bs).storePoison dst.2
/-- Rows of units copied, each row read before it is written. -/
def State.copyRows (s : State) (o : Op) (row : Nat) : Nat → List (Nat × Nat) → List (Nat × Nat) → State
  | 0, _, _ => s
  | n + 1, src, dst =>
    let data := (src.take row).map fun x => (x, s.bytes x.2 16, !isScratch x.2 && s.poisoned x.2)
    let s := (data.zip (dst.take row)).foldl (fun s e => s.copyUnit o e.1.1 e.2 e.1.2.1 e.1.2.2) s
    s.copyRows o row n (src.drop row) (dst.drop row)
/-- COPY_COMPLETE; the copy of a terminated group writes nothing (11 R326). -/
def State.copyComplete (s : State) (id : Nat) : Option State :=
  match s.ops.look id with
  | none => none
  | some o => match o.kind with
    | .copy row src dst =>
      if s.cellsFree ((src.units ++ dst.units).map (·.2)) then
        let s := if o.void then s else s.copyRows o row (src.units.length / row) src.units dst.units
        some (s.endOp id o)
      else none
    | .fill x dst =>
      if s.cellsFree (dst.units.map (·.2)) then
        let bs := bytesOf (x.toNat * (1 + 2 ^ 32 + 2 ^ 64 + 2 ^ 96)) 16
        let s := if o.void then s else dst.units.foldl (fun s e => s.put o.ctx e.2 bs) s
        some (s.endOp id o)
      else none
    | _ => none

/-! ## Registration (10 R286, R299) -/

/-- What the owner die finds for the pages of a region: all in tier 0, one missing, or one elsewhere. -/
inductive Pages where
  | ok (frames : List Nat)
  | missing
  | elsewhere
  deriving DecidableEq, Repr

/-- The pages of a range of n bytes from a 64 KiB-aligned address. -/
def State.pagesAt (s : State) (die ctx : Nat) (va : DWord) (n : Nat) : Pages :=
  let l := (List.range (n / 65536)).map fun j =>
    match s.walk die ctx (vaOffset va + 65536 * j) with
    | .leaf x => some x
    | _ => none
  if l.any (·.isNone) then .missing
  else if l.any fun x => match x with
      | some x => x.tier != 0
      | none => false then .elsewhere
  else .ok (l.map fun x => match x with
    | some x => x.frame / 65536 * 65536 + (if x.bl then 1 else 0)
    | none => 0)
/-- The frames lie bank-local on a pseudo-channel and stack ID from a row base (10 R286). -/
def bankLocal (die stack pch sid rowBase : Nat) (frames : List Nat) : Bool :=
  rowBase % 4 = 0 && stack / 4 = die && (frames.zipIdx).all fun e =>
    e.1 % 2 = 1 && rowBase / 4 + e.2 ≤ 8191 &&
      e.1 / 65536 = stack % 4 * 2 ^ 21 + pch * 2 ^ 15 + sid * 2 ^ 13 + rowBase / 4 + e.2
/-- The frame lies bank-local on a pseudo-channel and stack ID that has lost a bank (14 R374). -/
def State.movedFrame (s : State) (die frame : Nat) : Bool :=
  let f := frame / 65536
  frame % 2 = 1 && (s.stack (4 * die + f / 2 ^ 21 % 4)).moved.any fun m => m.1 = f / 2 ^ 13 % 4 && m.2.1 = f / 2 ^ 15 % 64
/-- What a context has registered on a die: address and bytes of every region and of every part of an index. -/
def State.registered (s : State) (die ctx : Nat) : List (Nat × Nat) :=
  let d := s.die die
  ((d.regions.filter fun r => r.ctx = ctx).map fun r => (r.va.toNat, r.bytes)) ++
    (d.indexes.filter fun x => x.ctx = ctx).flatMap fun x =>
      [(x.vectors, x.vecFrames), (x.metaVa, x.metaFrames), (x.adj, x.adjFrames)].filterMap fun p =>
        if p.2 = [] then none else some (p.1.toNat / 65536 * 65536, 65536 * p.2.length)
/-- What registration pins: the registered ranges, and the page of each index's descriptor (12 R336). -/
def State.pinned (s : State) (die ctx : Nat) : List (Nat × Nat) :=
  s.registered die ctx ++ ((s.die die).indexes.filter fun x => x.ctx = ctx).map fun x => (x.va.toNat / 65536 * 65536, 65536)
/-- How many registrations a die holds. -/
def Die.registrations (d : Die) : Nat := d.regions.length + d.indexes.length
/-- A running bank program, or an accepted command, works on a region. -/
def State.regionInUse (s : State) (ctx : Nat) (va : DWord) : Bool :=
  (s.engines.any fun e => match e.2.prog with
    | some p => p.launch.ctx = ctx && p.launch.regVa = va
    | none => false) ||
  s.commands.any fun e => e.2.ctx = ctx && e.2.accepted && e.2.region = some va

/-! ## Layout copies (07 R219 to R221) -/

/-- A word of a shape record. -/
def shapeWord (h : List Byte) (o : Nat) : Nat := numOf ((h.drop o).take 4)
/-- A doubleword of a shape record. -/
def shapeDouble (h : List Byte) (o : Nat) : Nat := numOf ((h.drop o).take 8)
/-- Element bytes. -/
def shapeElem (h : List Byte) : Nat := 2 ^ (shapeWord h 4 / 256 % 4)
/-- The kind. -/
def shapeKind (h : List Byte) : Nat := shapeWord h 4 % 256
/-- Rows. -/
def shapeRows (h : List Byte) : Nat := shapeWord h 8
/-- Columns. -/
def shapeCols (h : List Byte) : Nat := shapeWord h 0x0C
/-- The record is malformed. -/
def shapeBad (h : List Byte) : Bool :=
  let e := shapeElem h
  shapeWord h 4 / 1024 != 0 || shapeWord h 0x14 != 0 || shapeWord h 0x28 / 4096 != 0 || (h.drop 0x34).any (· != 0) ||
    2 < shapeKind h || 4 < e || 1048576 < shapeRows h || shapeCols h < 1 || 65536 < shapeCols h ||
    shapeWord h 0x10 < shapeCols h * e || shapeWord h 0x10 % e != 0 || shapeDouble h 0x18 % 65536 != 0 ||
    shapeDouble h 0x20 % 65536 != 0
/-- Column words of a bank. -/
def shapeWords (h : List Byte) : Nat :=
  let w := 32 / shapeElem h
  if shapeKind h = 1 then shapeRows h * ((shapeCols h + 16 * w - 1) / (16 * w))
  else (shapeRows h + 15) / 16 * ((shapeCols h + w - 1) / w)
/-- Bytes the layout needs. -/
def shapeNeeds (h : List Byte) : Nat :=
  if shapeKind h = 0 then shapeRows h * shapeCols h * shapeElem h else 16 * ((shapeWords h + 31) / 32) * 1024
/-- The byte of the region where element (i, j) begins (07 R220; 10 R286). -/
def shapePlace (h : List Byte) (i j : Nat) : Nat :=
  let e := shapeElem h
  let c := shapeCols h
  let w := 32 / e
  let at' : Nat → Nat → Nat → Nat := fun b q p => 16384 * (q / 32) + 1024 * b + 32 * (q % 32) + p * e
  if shapeKind h = 0 then (i * c + j) * e
  else if shapeKind h = 1 then at' (j / w % 16) (i * ((c + 16 * w - 1) / (16 * w)) + j / (16 * w)) (j % w)
  else at' (i % 16) (i / 16 * ((c + w - 1) / w) + j / w) (j % w)

/-- The cell of a byte of a source whose lines are resolved. -/
def lineKey (src : List (Nat × Nat)) (va : Nat) : Nat := Tab.lookD src (va / 128) 0 + va % 128
/-- The matrix written into its region in the record's layout. -/
def State.layOut (s : State) (ctx die : Nat) (h : List Byte) (frames : List Nat) (from' : Nat) (src : List (Nat × Nat)) :
    State :=
  let e := shapeElem h
  let elems : List (Nat × Nat) := (List.range (shapeRows h)).flatMap fun i =>
    (List.range (shapeCols h)).map fun j => (shapePlace h i j, from' + i * shapeWord h 0x10 + j * e)
  let data := elems.map fun x =>
    (x.1, (List.range e).map fun o => s.byte (lineKey src (x.2 + o)),
      (List.range e).any fun o => s.poisonedIn (lineKey src (x.2 + o)) 1)
  let words := (elems.map fun x => x.1 / 32).eraseDups
  let s := words.foldl (fun s q => s.store ctx (framesKey die frames (32 * q)) (List.replicate 32 0)) s
  let s := data.foldl (fun s x => s.store ctx (framesKey die frames x.1) x.2.1) s
  data.foldl (fun s x => if x.2.2 then s.storePoison (framesKey die frames x.1) else s) s

/-- The region a record describes. -/
def shapeRegion (ctx : Nat) (h : List Byte) (frames : List Nat) : Region :=
  let p := shapeWord h 0x28
  { ctx := ctx, va := BitVec.ofNat 64 (shapeDouble h 0x18), bytes := shapeDouble h 0x20, kind := shapeKind h,
    layout := BitVec.ofNat 32 (shapeWord h 0), stack := p / 64 % 16, pch := p % 64, sid := p / 1024 % 4,
    rowBase := shapeWord h 0x2C, frames := frames }
/-- The state after a cprt's work, and its status (07 R221; 10 R299). -/
def State.cprtRun (s : State) (o : Op) (h : List Byte) (from' : Nat) (src : List (Nat × Nat)) : State × Nat :=
  let va := BitVec.ofNat 64 (shapeDouble h 0x18)
  let bytes := shapeDouble h 0x20
  let die := vaDie va
  let exact : Region → Bool := fun r => r.ctx = o.ctx && r.va = va && r.bytes = bytes
  let old := (s.die die).regions.find? exact
  let others := (s.registered die o.ctx).filter fun x => !(x.1 = va.toNat && x.2 = bytes && old.isSome)
  let reg := shapeRegion o.ctx h []
  if shapeBad h then (s, 0x80000001)
  else if shapeRows h = 0 then
    if old.isNone then (s, 0x80000004)
    else if s.regionInUse o.ctx va then (s, 0x80000005)
    else (s.onDie die fun d => { d with regions := d.regions.filter fun r => !exact r }, 1)
  else if bytes < shapeNeeds h then (s, 0x80000003)
  else match s.pagesAt die o.ctx va bytes with
    | .missing => (s, 0x80000003)
    | .elsewhere => (s, 0x80000002)
    | .ok frames =>
      if shapeKind h != 0 && (!bankLocal die reg.stack reg.pch reg.sid reg.rowBase frames ||
          frames.any (s.movedFrame die)) then (s, 0x80000002)
      else if (others.any fun x => x.1 < va.toNat + bytes && va.toNat < x.1 + x.2) ||
          (old.isNone && 8192 ≤ (s.die die).registrations) then (s, 0x80000004)
      else if s.regionInUse o.ctx va then (s, 0x80000005)
      else
        let reg := shapeRegion o.ctx h frames
        let s := (s.layOut o.ctx die h frames from' src).dropRegion die reg
        (s.onDie die fun d => { d with regions := (d.regions.filter fun r => !exact r) ++ [reg] }, 1)
/-- CPRT_COMPLETE; that of a terminated group registers and writes nothing (11 R326). -/
def State.cprtComplete (s : State) (id : Nat) : Option State :=
  match s.ops.look id with
  | none => none
  | some o => match o.kind with
    | .layout h key from' src =>
      if s.cellsFree (key :: src.map (·.2)) then
        let r := s.cprtRun o h from'.toNat src
        some ((if o.void then s else r.1.put o.ctx (key + 0x30) (bytesOf r.2 4)).endOp id o)
      else none
    | _ => none
/-- The cells of the 128-byte lines of a source row that raises no cause, by line number. -/
def State.rowLines (s : State) (fr : Frame) (x : DWord) (n : Nat) : List (Nat × Nat) :=
  let lines := (List.range ((x.toNat % 128 + n + 127) / 128)).map fun j => x.toNat / 128 + j
  if isCopyScratch x then
    match s.scratch fr.g (x.extractLsb' 0 32) 1 n false with
    | .ok k => lines.map fun l => (l, k + 128 * l - x.toNat)
    | .error _ => []
  else lines.filterMap fun l =>
    match s.locate (some fr.g.core) fr.g.ctx (BitVec.ofNat 64 (128 * l)) .load fr.priv with
    | .ok k => some (l, k)
    | .error _ => none
/-- cprt: its wave's accesses before it are released, the record is read, and every range checked, while the fragment waits.
The record is checked for the status it will receive (assumption log 29). -/
def State.cprtAt (s : State) (fr : Frame) (i : Instr) (a b : Reg) : State :=
  match fr.look.first (pairCheck a ++ pairCheck b) with
  | some r => s.trapAll fr .tag fr.act r 0
  | none =>
    let va := fr.v.pair a.toNat fr.u
    let src := fr.v.pair b.toNat fr.u
    match if va.toNat % 64 != 0 then some (.align, va) else s.copyCause fr va 64 .store with
    | some c => s.trapU fr c.1 c.2
    | none =>
      let key := ((s.copyUnits fr va 64 .store).map (·.2)).headD 0
      if !s.cellsFree [key] then s.holdOn fr
      else match s.releaseAt fr.gid fr.wid (BitVec.allOnes 64) 4 with
        | none => s.holdOn fr
        | some s =>
          let h := s.bytes key 64
          let n := shapeCols h * shapeElem h
          let rows := (List.range (shapeRows h)).map fun r => (src + BitVec.ofNat 64 (r * shapeWord h 0x10))
          let region := BitVec.ofNat 64 (shapeDouble h 0x18)
          match copyFirst (rows.filterMap (fun x => s.copyCause fr x n .load) ++
              (s.rangeCause (some fr.g.core) fr.g.ctx region (shapeDouble h 0x20) .store fr.priv).toList) with
          | some c => s.trapU fr c.1 c.2
          | none =>
            if fr.w.ctr.cp = 63 then s.holdOn fr
            else
              let keys : List (Nat × Nat) := (rows.flatMap fun x => s.rowLines fr x n).foldl (fun t e => Tab.put t e.1 e.2) []
              let vas := va.toNat :: (keys.map fun e => 128 * e.1) ++ pageNats region (shapeDouble h 0x20)
              (((s.noteRanges fr [(va, 64, .load)]).noteCopy fr (rows.map fun x => (x, n, .load))).pushOp
                (s.engineOp fr .cp (.layout h key src keys) vas)).finish fr (fr.w.count .cp) i

/-! ## The instructions -/

/-- cpy: Checks and starts a linear copy (07 R217). -/
def execCpy (hold : BitVec 2) (d : Reg) (a : Reg) (b : Reg) (s : State) : Out :=
  onCoreOnly (.cpy hold d a b) s fun fr => s.cpyAt fr (.cpy hold d a b) d a b

/-- cpy2d: Checks and starts a two-dimensional copy (07 R217). -/
def execCpy2d (hold : BitVec 2) (d : Reg) (a : Reg) (b : Reg) (s : State) : Out :=
  onCoreOnly (.cpy2d hold d a b) s fun fr => s.cpy2dAt fr (.cpy2d hold d a b) d a b

/-- cpfill: Checks and starts a pattern fill (07 R217). -/
def execCpfill (hold : BitVec 2) (d : Reg) (a : Reg) (b : Reg) (s : State) : Out :=
  onCoreOnly (.cpfill hold d a b) s fun fr => s.cpfillAt fr (.cpfill hold d a b) d a b

/-- cprt: Reads a shape record and starts a layout copy and registration (07 R221). -/
def execCprt (hold : BitVec 2) (a : Reg) (b : Reg) (s : State) : Out :=
  onCoreOnly (.cprt hold a b) s fun fr => s.cprtAt fr (.cprt hold a b) a b

/-! ## The events -/

/-- COPY_COMPLETE (07 R217): copy or fill `op` completes. Uses op. -/
def execCopyComplete (s : State) : Out := onEvent (s.copyComplete s.about.op)

/-- CPRT_COMPLETE (07 R221): layout copy `op` completes. Uses op. -/
def execCprtComplete (s : State) : Out := onEvent (s.cprtComplete s.about.op)

end Sys2Proof.Machine
end

