-- ==== Sys2Proof/Machine/Float.lean ====
section
/-! DEFINITION. FP32 and packed 16-bit arithmetic, elementary functions, float compares, dot products and conversions
(04 R109 to R117). -/

namespace Sys2Proof.Machine

/-! ## FP32 (04 R109 to R112) -/

/-- A two-source FP32 instruction. -/
def float2 (d a b : Reg) (tag : Byte) (f : Round → Nat → Nat → Res) : VecOp :=
  vecOp d (fun _ => [(a, isFlt), (b, isFlt)]) (fun _ => tag) fun v t =>
    .ofRes (f v.round (v.reg a.toNat t).toNat (v.reg b.toNat t).toNat)
/-- A one-source FP32 instruction. -/
def float1 (d a : Reg) (f : Round → Nat → Res) : VecOp :=
  vecOp d (fun _ => [(a, isFlt)]) (fun _ => 0x20) fun v t => .ofRes (f v.round (v.reg a.toNat t).toNat)
/-- fma. -/
def opFma (d a b : Reg) : VecOp :=
  vecOp d (fun _ => [(d, isFlt), (a, isFlt), (b, isFlt)]) (fun _ => 0x20) fun v t =>
    .ofRes (Fmt.f32.fmaR v.round (v.reg d.toNat t).toNat (v.reg a.toNat t).toNat (v.reg b.toNat t).toNat)
/-- A result without flags. -/
def Res.plain (x : Nat) : Res := { bits := x, flags := 0 }
/-- The sign bit cleared. -/
def clearSign (x : Nat) : Nat := x % 2 ^ 31
/-- The sign bit inverted. -/
def flipSign (x : Nat) : Nat := if x < 2 ^ 31 then x + 2 ^ 31 else x - 2 ^ 31

/-! ## Packed 16-bit arithmetic (04 R113) -/

/-- The reference operand: the first source that is not v0. -/
def firstSource : List Reg → Reg
  | [] => 0
  | r :: rs => if r = 0 then firstSource rs else r
/-- The tag that decides the element format, F16X2 when every source is v0. -/
def halfTag (v : View) (ref : Reg) : Byte := if ref = 0 then 0x21 else v.res ref.toNat
/-- The element format of a tag. -/
def halfFmt (t : Byte) : Fmt := if t = 0x22 then .b16 else .f16
/-- A packed 16-bit instruction over the sources in check order; `f` takes the elements of d, a and b. -/
def half (d a b : Reg) (readsD : Bool) (f : Fmt → Round → Nat → Nat → Nat → Res) : VecOp :=
  let ref := firstSource (if readsD then [a, b, d] else [a, b])
  let accept : View → Reg → Reg × (Byte → Bool) := fun v r => (r, if r = ref then isPk16 else fun t => t = v.res ref.toNat)
  vecOp d (fun v => (if readsD then [d, a, b] else [a, b]).map (accept v)) (fun v => halfTag v ref) fun v t =>
    let g := halfFmt (halfTag v ref)
    let e : Reg → Nat → Nat := fun r k => packedElem (v.reg r.toNat t).toNat 16 k
    let lo := f g v.round (e d 0) (e a 0) (e b 0)
    let hi := f g v.round (e d 1) (e a 1) (e b 1)
    { bits := BitVec.ofNat 64 (lo.bits + hi.bits * 2 ^ 16), flags := lo.flags ||| hi.flags }

/-! ## Dot products (04 R114; 02 R65) -/

/-- How a dot product sums: as integers or as floats. -/
inductive DotClass where
  | int | flt
  deriving DecidableEq, Repr

/-- The class of a tag for a form of w-bit elements; none where the form has no such elements. -/
def dotClass (w : Nat) (t : Byte) : Option DotClass :=
  if w = 16 then (if isPk16 t then some .flt else none)
  else if w = 8 then (if isI8 t then some .int else if isB8 t then some .flt else none)
  else if isI4 t then some .int else none
/-- The class of the instruction: of the first of a and b that is not v0, else of d (assumption log 25). -/
def dotClassOf (w : Nat) (v : View) (d a b : Reg) : Option DotClass :=
  let r := firstSource [a, b]
  if r != 0 then dotClass w (v.res r.toNat)
  else if w = 16 then some .flt else if w = 4 then some .int
  else if d != 0 && isFlt (v.res d.toNat) then some .flt else some .int
/-- The element type of a source; v0 reads as zeros whatever the type. -/
def dotElem (v : View) (r : Reg) : Elem := if r = 0 then .int 8 false else (elemOf (v.res r.toNat)).getD (.int 8 false)
/-- The elements of a source of a lane. -/
def dotVals (w : Nat) (v : View) (r : Reg) (t : Nat) : List Nat :=
  (List.range (32 / w)).map fun k => packedElem (v.reg r.toNat t).toNat w k
/-- An integer element. -/
def elemInt (e : Elem) (x : Nat) : Int :=
  match e with
  | .int w s => intOf w s x
  | .flt _ => 0
/-- A dot product. -/
def dot (w : Nat) (d a b : Reg) : VecOp :=
  vecOp d (fun v =>
      let c := dotClassOf w v d a b
      [(d, fun t => match c with
          | some .int => isInt t
          | some .flt => isFlt t
          | none => isInt t || isFlt t),
       (a, fun t => (dotClass w t).isSome), (b, fun t => (dotClass w t).isSome && dotClass w t = c)])
    (fun v => match dotClassOf w v d a b with
      | some .int => v.res d.toNat
      | _ => 0x20)
    fun v t =>
      let xs := dotVals w v a t
      let ys := dotVals w v b t
      match dotClassOf w v d a b with
      | some .int =>
        let g := v.res d.toNat = 0x10
        v.fit g ((xs.zip ys).foldl (fun z p => z + elemInt (dotElem v a) p.1 * elemInt (dotElem v b) p.2)
          (v.int g d t))
      | _ =>
        .ofRes (Fmt.f32.deliver v.round (exactDot v.round.down (Fmt.f32.read (v.reg d.toNat t).toNat)
          ((xs.zip ys).map fun p => ((dotElem v a).read p.1, (dotElem v b).read p.2))))

/-! ## Conversions (04 R115 to R117) -/

/-- The element types of the source and of MODE.etype. -/
def convTypes (v : View) (a : Reg) : Option (Elem × Elem) :=
  match elemOf (v.res a.toNat), elemOf (modeEtype v.mode) with
  | some x, some y => some (x, y)
  | _, _ => none
/-- The first failing register of a conversion: a when its tag fails or the element widths do not fit. DESIGN CHOICE
(assumption log 57): v0 as the source is U32, and fails where MODE.etype lies in another class or has a width that does not
fit (01 R28; 04 R92, R115 to R117). -/
def convCheck (v : View) (a b : Reg) (fits : Nat → Nat → Bool) : Option Nat :=
  if !v.ok (a, isAny) then some a.toNat
  else match convTypes v a with
    | some (x, y) => if fits x.bits y.bits then v.first [(b, isInt)] else some a.toNat
    | none => some a.toNat
/-- A conversion instruction: which pairs of element widths it takes, and its result. -/
def conv (d a b : Reg) (fits : Nat → Nat → Bool) (f : View → Elem → Elem → Nat → LaneRes) : VecOp :=
  { d := d, wide := false, guarded := true, check := fun v => convCheck v a b fits,
    tag := fun v => some (modeEtype v.mode),
    val := fun v t => match convTypes v a with
      | some (x, y) => f v x y t
      | none => .of 0 }
/-- cvt: every element, within a class. -/
def opCvt (d a : Reg) : VecOp :=
  conv d a 0 (· == ·) fun v x y t =>
    let rs := (List.range (32 / x.bits)).map fun k => convert v.round x y (packedElem (v.reg a.toNat t).toNat x.bits k)
    { bits := BitVec.ofNat 64 (rs.foldr (fun r z => z * 2 ^ x.bits + r.bits % 2 ^ x.bits) 0),
      flags := rs.foldl (fun g r => g ||| r.flags) 0 }
/-- pack: one value into one element of d. -/
def opPack (d a b : Reg) : VecOp :=
  conv d a b (fun x y => x = 32 && y != 32) fun v x y t =>
    let r := convert v.round x y (v.reg a.toNat t).toNat
    let k := (v.reg b.toNat t).toNat % (32 / y.bits)
    { bits := BitVec.ofNat 64 (setPacked (v.reg d.toNat t).toNat y.bits k r.bits), flags := r.flags }
/-- unpk: one element of a. -/
def opUnpk (d a b : Reg) : VecOp :=
  conv d a b (fun x y => x != 32 && y = 32) fun v x y t =>
    let k := (v.reg b.toNat t).toNat % (32 / x.bits)
    .ofRes (convert v.round x y (packedElem (v.reg a.toNat t).toNat x.bits k))

/-! ## The instructions -/

/-- fadd: FP32 addition rounded once under MODE (04 R109). -/
def execFadd (hold : BitVec 2) (d : Reg) (a : Reg) (b : Reg) (s : State) : Out :=
  vec (.fadd hold d a b) (float2 d a b 0x20 fun r => Fmt.f32.add r false) s

/-- fsub: FP32 subtraction rounded once (04 R109). -/
def execFsub (hold : BitVec 2) (d : Reg) (a : Reg) (b : Reg) (s : State) : Out :=
  vec (.fsub hold d a b) (float2 d a b 0x20 fun r => Fmt.f32.add r true) s

/-- fmul: FP32 multiplication rounded once (04 R109). -/
def execFmul (hold : BitVec 2) (d : Reg) (a : Reg) (b : Reg) (s : State) : Out :=
  vec (.fmul hold d a b) (float2 d a b 0x20 fun r => Fmt.f32.mulR r) s

/-- fma: Fused FP32 multiply-add into d (04 R109). -/
def execFma (hold : BitVec 2) (d : Reg) (a : Reg) (b : Reg) (s : State) : Out := vec (.fma hold d a b) (opFma d a b) s

/-- fmin: Delivers the lesser FP32 operand unchanged (04 R110). -/
def execFmin (hold : BitVec 2) (d : Reg) (a : Reg) (b : Reg) (s : State) : Out :=
  vec (.fmin hold d a b) (float2 d a b 0x20 fun _ => Fmt.f32.pick false) s

/-- fmax: Delivers the greater FP32 operand unchanged (04 R110). -/
def execFmax (hold : BitVec 2) (d : Reg) (a : Reg) (b : Reg) (s : State) : Out :=
  vec (.fmax hold d a b) (float2 d a b 0x20 fun _ => Fmt.f32.pick true) s

/-- fabs: Clears the sign bit (04 R110). -/
def execFabs (hold : BitVec 2) (d : Reg) (a : Reg) (s : State) : Out :=
  vec (.fabs hold d a) (float1 d a fun _ x => .plain (clearSign x)) s

/-- fneg: Inverts the sign bit (04 R110). -/
def execFneg (hold : BitVec 2) (d : Reg) (a : Reg) (s : State) : Out :=
  vec (.fneg hold d a) (float1 d a fun _ x => .plain (flipSign x)) s

/-- frcp: Correctly rounded FP32 reciprocal (04 R111). -/
def execFrcp (hold : BitVec 2) (d : Reg) (a : Reg) (s : State) : Out :=
  vec (.frcp hold d a) (float1 d a fun r => elementary r .rcp) s

/-- frsq: Correctly rounded reciprocal square root (04 R111). -/
def execFrsq (hold : BitVec 2) (d : Reg) (a : Reg) (s : State) : Out :=
  vec (.frsq hold d a) (float1 d a fun r => elementary r .rsq) s

/-- fsqrt: Correctly rounded square root (04 R111). -/
def execFsqrt (hold : BitVec 2) (d : Reg) (a : Reg) (s : State) : Out :=
  vec (.fsqrt hold d a) (float1 d a fun r => elementary r .sqrt) s

/-- fexp2: Correctly rounded power of two (04 R111). -/
def execFexp2 (hold : BitVec 2) (d : Reg) (a : Reg) (s : State) : Out :=
  vec (.fexp2 hold d a) (float1 d a fun r => elementary r .exp2) s

/-- flog2: Correctly rounded base-2 logarithm (04 R111). -/
def execFlog2 (hold : BitVec 2) (d : Reg) (a : Reg) (s : State) : Out :=
  vec (.flog2 hold d a) (float1 d a fun r => elementary r .log2) s

/-- fseq: FP32 equality compare (04 R112). -/
def execFseq (hold : BitVec 2) (d : Reg) (a : Reg) (b : Reg) (s : State) : Out :=
  vec (.fseq hold d a b) (float2 d a b 0x11 fun _ => Fmt.f32.compare .eq) s

/-- fsne: FP32 inequality compare (04 R112). -/
def execFsne (hold : BitVec 2) (d : Reg) (a : Reg) (b : Reg) (s : State) : Out :=
  vec (.fsne hold d a b) (float2 d a b 0x11 fun _ => Fmt.f32.compare .ne) s

/-- fslt: FP32 less-than compare (04 R112). -/
def execFslt (hold : BitVec 2) (d : Reg) (a : Reg) (b : Reg) (s : State) : Out :=
  vec (.fslt hold d a b) (float2 d a b 0x11 fun _ => Fmt.f32.compare .lt) s

/-- fsle: FP32 less-or-equal compare (04 R112). -/
def execFsle (hold : BitVec 2) (d : Reg) (a : Reg) (b : Reg) (s : State) : Out :=
  vec (.fsle hold d a b) (float2 d a b 0x11 fun _ => Fmt.f32.compare .le) s

/-- dot2: Exact dot product of two 16-bit pairs added to d (04 R114). -/
def execDot2 (hold : BitVec 2) (d : Reg) (a : Reg) (b : Reg) (s : State) : Out :=
  vec (.dot2 hold d a b) (dot 16 d a b) s

/-- dot4: Exact dot product of four 8-bit elements added to d (04 R114). -/
def execDot4 (hold : BitVec 2) (d : Reg) (a : Reg) (b : Reg) (s : State) : Out :=
  vec (.dot4 hold d a b) (dot 8 d a b) s

/-- dot8: Exact dot product of eight 4-bit integers added to d (04 R114). -/
def execDot8 (hold : BitVec 2) (d : Reg) (a : Reg) (b : Reg) (s : State) : Out :=
  vec (.dot8 hold d a b) (dot 4 d a b) s

/-- hadd: Packed 16-bit addition (04 R113). -/
def execHadd (hold : BitVec 2) (d : Reg) (a : Reg) (b : Reg) (s : State) : Out :=
  vec (.hadd hold d a b) (half d a b false fun f r _ x y => f.add r false x y) s

/-- hsub: Packed 16-bit subtraction (04 R113). -/
def execHsub (hold : BitVec 2) (d : Reg) (a : Reg) (b : Reg) (s : State) : Out :=
  vec (.hsub hold d a b) (half d a b false fun f r _ x y => f.add r true x y) s

/-- hmul: Packed 16-bit multiplication (04 R113). -/
def execHmul (hold : BitVec 2) (d : Reg) (a : Reg) (b : Reg) (s : State) : Out :=
  vec (.hmul hold d a b) (half d a b false fun f r _ x y => f.mulR r x y) s

/-- hfma: Packed 16-bit fused multiply-add (04 R113). -/
def execHfma (hold : BitVec 2) (d : Reg) (a : Reg) (b : Reg) (s : State) : Out :=
  vec (.hfma hold d a b) (half d a b true fun f r z x y => f.fmaR r z x y) s

/-- hmin: Packed 16-bit minimum (04 R113). -/
def execHmin (hold : BitVec 2) (d : Reg) (a : Reg) (b : Reg) (s : State) : Out :=
  vec (.hmin hold d a b) (half d a b false fun f _ _ x y => f.pick false x y) s

/-- hmax: Packed 16-bit maximum (04 R113). -/
def execHmax (hold : BitVec 2) (d : Reg) (a : Reg) (b : Reg) (s : State) : Out :=
  vec (.hmax hold d a b) (half d a b false fun f _ _ x y => f.pick true x y) s

/-- cvt: Converts elements of a into MODE.etype within one class (04 R115). -/
def execCvt (hold : BitVec 2) (d : Reg) (a : Reg) (s : State) : Out := vec (.cvt hold d a) (opCvt d a) s

/-- pack: Converts a into one element of packed d (04 R116). -/
def execPack (hold : BitVec 2) (d : Reg) (a : Reg) (b : Reg) (s : State) : Out :=
  vec (.pack hold d a b) (opPack d a b) s

/-- unpk: Converts one element of packed a into a 32-bit format (04 R117). -/
def execUnpk (hold : BitVec 2) (d : Reg) (a : Reg) (b : Reg) (s : State) : Out :=
  vec (.unpk hold d a b) (opUnpk d a b) s

end Sys2Proof.Machine
end

