-- ==== Sys2Proof/Machine/Integer.lean ====
section
/-! DEFINITION. Integer arithmetic, logic, shifts, bit fields, pair arithmetic, compares, moves, constants and the
uniform forms (04 R95 to R108). -/

namespace Sys2Proof.Machine

/-! ## The second source -/

/-- The second source of an instruction: a register, or an immediate extended to 32 bits (04 R105). -/
inductive Src where
  | reg (r : Reg)
  | imm (x : Word)
  deriving DecidableEq, Repr

/-- Its register; an immediate takes no part in the choice of 04 R92. -/
def Src.num : Src → Reg
  | .reg r => r
  | .imm _ => 0
/-- Its value in a lane. -/
def Src.val (b : Src) (v : View) (t : Nat) : Word :=
  match b with
  | .reg r => v.reg r.toNat t
  | .imm x => x
/-- A signed immediate. -/
def simm (k : BitVec 7) : Src := .imm (k.signExtend 32)
/-- An unsigned immediate. -/
def uimm (k : BitVec 7) : Src := .imm (k.setWidth 32)
/-- The tag of the chosen operand: v0 stands for U32. -/
def View.resChosen (v : View) (a : Reg) (b : Src) : Byte := v.res (chosen a b.num)

/-! ## Arithmetic (04 R95 to R97) -/

/-- A two-source arithmetic instruction: the exact result of two integers, fitted. -/
def arith (d a : Reg) (b : Src) (f : Int → Int → Int) : VecOp :=
  vecOp d (fun _ => [(a, isInt), (b.num, isInt)]) (fun v => intTag (v.signed a b.num)) fun v t =>
    let g := v.signed a b.num
    v.fit g (f (v.int g a t) (intOf 32 g (b.val v t).toNat))
/-- The high half of a product. -/
def mulHigh (x y : Int) : Int := x * y / (2 ^ 32 : Nat)
/-- The lesser. -/
def lesser (x y : Int) : Int := if x < y then x else y
/-- The greater. -/
def greater (x y : Int) : Int := if x < y then y else x
/-- mad: z + x × y. -/
def opMad (d a b : Reg) : VecOp :=
  vecOp d (fun _ => [(d, isInt), (a, isInt), (b, isInt)]) (fun v => intTag (v.signed a b)) fun v t =>
    let g := v.signed a b
    v.fit g (v.int g d t + v.int g a t * v.int g b t)
/-- A one-source arithmetic instruction: signed by a alone; `f` of the value as a signed or an unsigned integer. -/
def unary (d a : Reg) (f : Int → Int) : VecOp :=
  vecOp d (fun _ => [(a, isInt)]) (fun v => intTag (v.signed a 0)) fun v t =>
    let g := v.signed a 0
    v.fit g (f (v.int g a t))
/-- divu: the quotient, all ones for a zero divisor. -/
def divideU (x y : Word) : Word := if y = 0 then BitVec.allOnes 32 else x / y
/-- divs: truncated; a zero divisor and the overflow as 04 R97 states. -/
def divideS (sat : Bool) (x y : Word) : Word :=
  if y = 0 then (if x.msb then 0x80000000 else 0x7FFFFFFF)
  else if x = 0x80000000 && y = BitVec.allOnes 32 then (if sat then 0x7FFFFFFF else 0x80000000)
  else x.sdiv y
/-- A division. -/
def opDiv (d a b : Reg) (tag : Byte) (f : Bool → Word → Word → Word) : VecOp :=
  vecOp d (fun _ => [(a, isInt), (b, isInt)]) (fun _ => tag) fun v t =>
    .of (f (modeSat v.mode) (v.reg a.toNat t) (v.reg b.toNat t))

/-! ## Logic, shifts and bit fields (04 R98 to R100) -/

/-- A two-source bitwise instruction. -/
def logic (d a : Reg) (b : Src) (f : Word → Word → Word) : VecOp :=
  vecOp d (fun _ => [(a, isAny), (b.num, isAny)]) (fun v => v.resChosen a b) fun v t =>
    .of (f (v.reg a.toNat t) (b.val v t))
/-- A one-source bitwise instruction whose result keeps the resolved tag of a. -/
def bits1 (d a : Reg) (f : Word → Word) : VecOp :=
  vecOp d (fun _ => [(a, isAny)]) (fun v => v.res a.toNat) fun v t => .of (f (v.reg a.toNat t))
/-- A bit count, tagged U32. -/
def countOp (d a : Reg) (f : Word → Nat) : VecOp :=
  vecOp d (fun _ => [(a, isAny)]) (fun _ => 0x11) fun v t => .of (BitVec.ofNat 32 (f (v.reg a.toNat t)))
/-- The number of 1 bits. -/
def popCount (x : Word) : Nat := ((List.range 32).filter fun j => x.getLsbD j).length
/-- The number of leading zero bits. -/
def leadZeros (x : Word) : Nat := ((List.range 32).takeWhile fun j => !x.getLsbD (31 - j)).length
/-- Bit i moves to bit 31 − i. -/
def bitReverse (x : Word) : Word :=
  (List.range 32).foldl (fun y j => if x.getLsbD j then y ||| (1#32 <<< (31 - j)) else y) 0
/-- A shift or rotate: signedness by 04 R92, value, amount. -/
def shift (d a : Reg) (b : Src) (f : Bool → Word → Nat → Word) : VecOp :=
  vecOp d (fun _ => [(a, isAny), (b.num, isInt)]) (fun v => v.res a.toNat) fun v t =>
    .of (f (v.signed a b.num) (v.reg a.toNat t) (b.val v t).toNat)
/-- Left shift. -/
def shiftLeft (_ : Bool) (x : Word) (n : Nat) : Word := if 32 ≤ n then 0 else x <<< n
/-- Right shift, arithmetic when signed. -/
def shiftRight (signed : Bool) (x : Word) (n : Nat) : Word :=
  if signed then x.sshiftRight (if 32 ≤ n then 32 else n) else if 32 ≤ n then 0 else x >>> n
/-- Rotations. -/
def rotateLeft (_ : Bool) (x : Word) (n : Nat) : Word := x.rotateLeft (n % 32)
/-- To the right. -/
def rotateRight (_ : Bool) (x : Word) (n : Nat) : Word := x.rotateRight (n % 32)
/-- The position and the length of a field, truncated at bit 31. -/
def fieldOf (b : Word) : Nat × Nat :=
  let pos := (b.extractLsb' 0 5).toNat
  let len := (b.extractLsb' 8 6).toNat
  (pos, if 32 - pos < len then 32 - pos else len)
/-- bfe of a value. -/
def extractField (signed : Bool) (x b : Word) : Word :=
  let f := fieldOf b
  let y := x.toNat / 2 ^ f.1 % 2 ^ f.2
  if f.2 = 0 then 0 else BitVec.ofInt 32 (intOf f.2 signed y)
/-- bfi into a value. -/
def insertField (z x b : Word) : Word :=
  let f := fieldOf b
  let m := BitVec.ofNat 32 ((2 ^ f.2 - 1) * 2 ^ f.1)
  (z &&& ~~~m) ||| ((x <<< f.1) &&& m)
/-- bfe. -/
def opBfe (d a b : Reg) : VecOp :=
  vecOp d (fun _ => [(a, isAny), (b, isInt)]) (fun v => intTag (v.signed a b)) fun v t =>
    .of (extractField (v.signed a b) (v.reg a.toNat t) (v.reg b.toNat t))
/-- bfi. -/
def opBfi (d a b : Reg) : VecOp :=
  vecOp d (fun _ => [(d, isAny), (a, isAny), (b, isInt)]) (fun v => v.res d.toNat) fun v t =>
    .of (insertField (v.reg d.toNat t) (v.reg a.toNat t) (v.reg b.toNat t))

/-! ## Pairs (04 R101) -/

/-- A 64-bit integer result fitted to the I64 range. -/
def fit64 (v : View) (x : Int) : DWord := BitVec.ofNat 64 (fitInt 64 true (modeSat v.mode) x)
/-- add64 and sub64. -/
def arith64 (d a b : Reg) (f : Int → Int → Int) : VecOp :=
  pairOp d (pairCheck a ++ pairCheck b) fun v t => fit64 v (f (v.pair a t).toInt (v.pair b t).toInt)
/-- shl64 and shr64: the amount is the whole unsigned value of b. -/
def shift64 (d a b : Reg) (f : DWord → Nat → DWord) : VecOp :=
  pairOp d (pairCheck a ++ [(b, isInt)]) fun v t =>
    let n := (v.reg b.toNat t).toNat
    if 64 ≤ n then 0 else f (v.pair a t) n
/-- addx: b extended by its own tag. -/
def opAddx (d a b : Reg) : VecOp :=
  pairOp d (pairCheck a ++ [(b, isInt)]) fun v t =>
    let x := v.reg b.toNat t
    v.pair a t + (if v.res b.toNat = 0x10 then x.signExtend 64 else x.setWidth 64)
/-- addi64. -/
def opAddi64 (d a : Reg) (k : BitVec 7) : VecOp :=
  pairOp d (pairCheck a) fun v t => fit64 v ((v.pair a t).toInt + k.toInt)

/-! ## Compares, sel and moves (04 R102 to R107) -/

/-- 1 or 0. -/
def bit01 (b : Bool) : LaneRes := .of (if b then 1 else 0)
/-- A compare of bit patterns. -/
def compareBits (d a : Reg) (b : Src) (f : Word → Word → Bool) : VecOp :=
  vecOp d (fun _ => [(a, isAny), (b.num, isAny)]) (fun _ => 0x11) fun v t => bit01 (f (v.reg a.toNat t) (b.val v t))
/-- A compare of integers, signed by 04 R92. -/
def compareInt (d a : Reg) (b : Src) (f : Int → Int → Bool) : VecOp :=
  vecOp d (fun _ => [(a, isInt), (b.num, isInt)]) (fun _ => 0x11) fun v t =>
    let g := v.signed a b.num
    bit01 (f (v.int g a t) (intOf 32 g (b.val v t).toNat))
/-- sel: every live active slot takes a where it passes the guard, b elsewhere. -/
def opSel (d a b : Reg) : VecOp :=
  { d := d, wide := false, guarded := false,
    check := fun v => v.first [(b, if a = 0 then isAny else fun t => t = v.res a.toNat)],
    tag := fun v => some (v.res (chosen a b)),
    val := fun v t => .of (v.reg (if v.passes t then a.toNat else b.toNat) t) }
/-- mov: bits and tag as they are. -/
def opMov (d a : Reg) : VecOp := vecOp d (fun _ => []) (fun v => v.tag a.toNat) fun v t => .of (v.reg a.toNat t)
/-- A constant with a tag. -/
def constant (d : Reg) (tag : View → Byte) (x : Word) : VecOp := vecOp d (fun _ => []) tag fun _ _ => .of x
/-- movh: the tag stays. -/
def opMovh (d : Reg) (imm : BitVec 16) : VecOp :=
  { d := d, wide := false, guarded := true, check := fun _ => none, tag := fun _ => none,
    val := fun v t => .of (imm ++ (v.reg d.toNat t).extractLsb' 0 16) }
/-- addl: signed by the resolved tag of d. -/
def opAddl (d : Reg) (lit : Word) : VecOp :=
  vecOp d (fun _ => [(d, isInt)]) (fun v => intTag (v.signed d 0)) fun v t =>
    let g := v.signed d 0
    v.fit g (v.int g d t + intOf 32 g lit.toNat)
/-- andl and orl. -/
def logicLit (d : Reg) (f : Word → Word) : VecOp :=
  vecOp d (fun _ => [(d, isAny)]) (fun v => v.res d.toNat) fun v t => .of (f (v.reg d.toNat t))

/-! ## The instructions -/

/-- add: Adds two integer registers per live active slot, wrapping or saturating under MODE.sat (04 R95). -/
def execAdd (hold : BitVec 2) (d : Reg) (a : Reg) (b : Reg) (s : State) : Out :=
  vec (.add hold d a b) (arith d a (.reg b) (· + ·)) s

/-- sub: Subtracts b from a per slot, wrapping or saturating (04 R95). -/
def execSub (hold : BitVec 2) (d : Reg) (a : Reg) (b : Reg) (s : State) : Out :=
  vec (.sub hold d a b) (arith d a (.reg b) (· - ·)) s

/-- mul: Multiplies two integers per slot, keeping the fitted 32-bit result (04 R95). -/
def execMul (hold : BitVec 2) (d : Reg) (a : Reg) (b : Reg) (s : State) : Out :=
  vec (.mul hold d a b) (arith d a (.reg b) (· * ·)) s

/-- mulh: Writes the high 32 bits of the integer product per slot (04 R95). -/
def execMulh (hold : BitVec 2) (d : Reg) (a : Reg) (b : Reg) (s : State) : Out :=
  vec (.mulh hold d a b) (arith d a (.reg b) mulHigh) s

/-- mad: Adds the product of a and b to the prior d per slot (04 R95). -/
def execMad (hold : BitVec 2) (d : Reg) (a : Reg) (b : Reg) (s : State) : Out := vec (.mad hold d a b) (opMad d a b) s

/-- divu: Unsigned truncating division, giving all ones on division by zero (04 R97). -/
def execDivu (hold : BitVec 2) (d : Reg) (a : Reg) (b : Reg) (s : State) : Out :=
  vec (.divu hold d a b) (opDiv d a b 0x11 fun _ => divideU) s

/-- divs: Signed truncating division with fixed results for zero divisors and overflow (04 R97). -/
def execDivs (hold : BitVec 2) (d : Reg) (a : Reg) (b : Reg) (s : State) : Out :=
  vec (.divs hold d a b) (opDiv d a b 0x10 divideS) s

/-- min: Writes the lesser of two integers per slot (04 R95). -/
def execMin (hold : BitVec 2) (d : Reg) (a : Reg) (b : Reg) (s : State) : Out :=
  vec (.min hold d a b) (arith d a (.reg b) lesser) s

/-- max: Writes the greater of two integers per slot (04 R95). -/
def execMax (hold : BitVec 2) (d : Reg) (a : Reg) (b : Reg) (s : State) : Out :=
  vec (.max hold d a b) (arith d a (.reg b) greater) s

/-- abs: Writes the absolute value of a per slot (04 R96). -/
def execAbs (hold : BitVec 2) (d : Reg) (a : Reg) (s : State) : Out :=
  vec (.abs hold d a) (unary d a fun x => (x.natAbs : Int)) s

/-- neg: Writes the negation of a per slot (04 R96). -/
def execNeg (hold : BitVec 2) (d : Reg) (a : Reg) (s : State) : Out := vec (.neg hold d a) (unary d a fun x => -x) s

/-- and: Bitwise AND of two registers per slot (04 R98). -/
def execAnd (hold : BitVec 2) (d : Reg) (a : Reg) (b : Reg) (s : State) : Out :=
  vec (.and hold d a b) (logic d a (.reg b) (· &&& ·)) s

/-- or: Bitwise OR of two registers per slot (04 R98). -/
def execOr (hold : BitVec 2) (d : Reg) (a : Reg) (b : Reg) (s : State) : Out :=
  vec (.or hold d a b) (logic d a (.reg b) (· ||| ·)) s

/-- xor: Bitwise XOR of two registers per slot (04 R98). -/
def execXor (hold : BitVec 2) (d : Reg) (a : Reg) (b : Reg) (s : State) : Out :=
  vec (.xor hold d a b) (logic d a (.reg b) (· ^^^ ·)) s

/-- not: Bitwise complement of a per slot (04 R98). -/
def execNot (hold : BitVec 2) (d : Reg) (a : Reg) (s : State) : Out := vec (.not hold d a) (bits1 d a fun x => ~~~x) s

/-- andn: Writes a AND NOT b per slot (04 R98). -/
def execAndn (hold : BitVec 2) (d : Reg) (a : Reg) (b : Reg) (s : State) : Out :=
  vec (.andn hold d a b) (logic d a (.reg b) fun x y => x &&& ~~~y) s

/-- shl: Shifts a left by the amount in b per slot (04 R99). -/
def execShl (hold : BitVec 2) (d : Reg) (a : Reg) (b : Reg) (s : State) : Out :=
  vec (.shl hold d a b) (shift d a (.reg b) shiftLeft) s

/-- shr: Shifts a right, arithmetic or logical by signedness, per slot (04 R99). -/
def execShr (hold : BitVec 2) (d : Reg) (a : Reg) (b : Reg) (s : State) : Out :=
  vec (.shr hold d a b) (shift d a (.reg b) shiftRight) s

/-- rotl: Rotates a left by b mod 32 per slot (04 R99). -/
def execRotl (hold : BitVec 2) (d : Reg) (a : Reg) (b : Reg) (s : State) : Out :=
  vec (.rotl hold d a b) (shift d a (.reg b) rotateLeft) s

/-- rotr: Rotates a right by b mod 32 per slot (04 R99). -/
def execRotr (hold : BitVec 2) (d : Reg) (a : Reg) (b : Reg) (s : State) : Out :=
  vec (.rotr hold d a b) (shift d a (.reg b) rotateRight) s

/-- popc: Counts the one bits of a per slot (04 R98). -/
def execPopc (hold : BitVec 2) (d : Reg) (a : Reg) (s : State) : Out := vec (.popc hold d a) (countOp d a popCount) s

/-- clz: Counts the leading zero bits of a per slot (04 R98). -/
def execClz (hold : BitVec 2) (d : Reg) (a : Reg) (s : State) : Out := vec (.clz hold d a) (countOp d a leadZeros) s

/-- brev: Reverses the bit order of a per slot (04 R98). -/
def execBrev (hold : BitVec 2) (d : Reg) (a : Reg) (s : State) : Out := vec (.brev hold d a) (bits1 d a bitReverse) s

/-- bfe: Extracts a bit field of a, sign- or zero-extended (04 R100). -/
def execBfe (hold : BitVec 2) (d : Reg) (a : Reg) (b : Reg) (s : State) : Out := vec (.bfe hold d a b) (opBfe d a b) s

/-- bfi: Inserts the low bits of a into a field of d (04 R100). -/
def execBfi (hold : BitVec 2) (d : Reg) (a : Reg) (b : Reg) (s : State) : Out := vec (.bfi hold d a b) (opBfi d a b) s

/-- add64: Adds two 64-bit pairs per slot (04 R101). -/
def execAdd64 (hold : BitVec 2) (d : Reg) (a : Reg) (b : Reg) (s : State) : Out :=
  vec (.add64 hold d a b) (arith64 d a b (· + ·)) s

/-- sub64: Subtracts two 64-bit pairs per slot (04 R101). -/
def execSub64 (hold : BitVec 2) (d : Reg) (a : Reg) (b : Reg) (s : State) : Out :=
  vec (.sub64 hold d a b) (arith64 d a b (· - ·)) s

/-- shl64: Shifts a 64-bit pair left by a 32-bit amount (04 R101). -/
def execShl64 (hold : BitVec 2) (d : Reg) (a : Reg) (b : Reg) (s : State) : Out :=
  vec (.shl64 hold d a b) (shift64 d a b (· <<< ·)) s

/-- shr64: Shifts a 64-bit pair right logically (04 R101). -/
def execShr64 (hold : BitVec 2) (d : Reg) (a : Reg) (b : Reg) (s : State) : Out :=
  vec (.shr64 hold d a b) (shift64 d a b (· >>> ·)) s

/-- seq: Writes 1 where the bit patterns of a and b are equal (04 R102). -/
def execSeq (hold : BitVec 2) (d : Reg) (a : Reg) (b : Reg) (s : State) : Out :=
  vec (.seq hold d a b) (compareBits d a (.reg b) (· == ·)) s

/-- sne: Writes 1 where the bit patterns of a and b differ (04 R102). -/
def execSne (hold : BitVec 2) (d : Reg) (a : Reg) (b : Reg) (s : State) : Out :=
  vec (.sne hold d a b) (compareBits d a (.reg b) (· != ·)) s

/-- slt: Writes 1 where a is less than b (04 R102). -/
def execSlt (hold : BitVec 2) (d : Reg) (a : Reg) (b : Reg) (s : State) : Out :=
  vec (.slt hold d a b) (compareInt d a (.reg b) (· < ·)) s

/-- sle: Writes 1 where a is at most b (04 R102). -/
def execSle (hold : BitVec 2) (d : Reg) (a : Reg) (b : Reg) (s : State) : Out :=
  vec (.sle hold d a b) (compareInt d a (.reg b) (· ≤ ·)) s

/-- sel: Selects a where the guard passes and b elsewhere (04 R103). -/
def execSel (hold : BitVec 2) (d : Reg) (a : Reg) (b : Reg) (s : State) : Out := vec (.sel hold d a b) (opSel d a b) s

/-- mov: Copies a and its unresolved tag to d (04 R104). -/
def execMov (hold : BitVec 2) (d : Reg) (a : Reg) (s : State) : Out := vec (.mov hold d a) (opMov d a) s

/-- addx: Adds an extended 32-bit value to a 64-bit pair (04 R101). -/
def execAddx (hold : BitVec 2) (d : Reg) (a : Reg) (b : Reg) (s : State) : Out :=
  vec (.addx hold d a b) (opAddx d a b) s

/-- addi: Adds a signed immediate per slot (04 R105). -/
def execAddi (hold : BitVec 2) (d : Reg) (a : Reg) (imm : BitVec 7) (s : State) : Out :=
  vec (.addi hold d a imm) (arith d a (simm imm) (· + ·)) s

/-- muli: Multiplies by a signed immediate per slot (04 R105). -/
def execMuli (hold : BitVec 2) (d : Reg) (a : Reg) (imm : BitVec 7) (s : State) : Out :=
  vec (.muli hold d a imm) (arith d a (simm imm) (· * ·)) s

/-- andi: ANDs with an unsigned immediate per slot (04 R105). -/
def execAndi (hold : BitVec 2) (d : Reg) (a : Reg) (imm : BitVec 7) (s : State) : Out :=
  vec (.andi hold d a imm) (logic d a (uimm imm) (· &&& ·)) s

/-- ori: ORs with an unsigned immediate per slot (04 R105). -/
def execOri (hold : BitVec 2) (d : Reg) (a : Reg) (imm : BitVec 7) (s : State) : Out :=
  vec (.ori hold d a imm) (logic d a (uimm imm) (· ||| ·)) s

/-- xori: XORs with an unsigned immediate per slot (04 R105). -/
def execXori (hold : BitVec 2) (d : Reg) (a : Reg) (imm : BitVec 7) (s : State) : Out :=
  vec (.xori hold d a imm) (logic d a (uimm imm) (· ^^^ ·)) s

/-- shli: Shifts left by an immediate amount (04 R105). -/
def execShli (hold : BitVec 2) (d : Reg) (a : Reg) (imm : BitVec 7) (s : State) : Out :=
  vec (.shli hold d a imm) (shift d a (uimm imm) shiftLeft) s

/-- shri: Shifts right by an immediate amount (04 R105). -/
def execShri (hold : BitVec 2) (d : Reg) (a : Reg) (imm : BitVec 7) (s : State) : Out :=
  vec (.shri hold d a imm) (shift d a (uimm imm) shiftRight) s

/-- rotli: Rotates left by an immediate amount (04 R105). -/
def execRotli (hold : BitVec 2) (d : Reg) (a : Reg) (imm : BitVec 7) (s : State) : Out :=
  vec (.rotli hold d a imm) (shift d a (uimm imm) rotateLeft) s

/-- seqi: Compares a with an immediate for equality (04 R105). -/
def execSeqi (hold : BitVec 2) (d : Reg) (a : Reg) (imm : BitVec 7) (s : State) : Out :=
  vec (.seqi hold d a imm) (compareBits d a (simm imm) (· == ·)) s

/-- snei: Compares a with an immediate for inequality (04 R105). -/
def execSnei (hold : BitVec 2) (d : Reg) (a : Reg) (imm : BitVec 7) (s : State) : Out :=
  vec (.snei hold d a imm) (compareBits d a (simm imm) (· != ·)) s

/-- slti: Writes 1 where a is below an immediate (04 R105). -/
def execSlti (hold : BitVec 2) (d : Reg) (a : Reg) (imm : BitVec 7) (s : State) : Out :=
  vec (.slti hold d a imm) (compareInt d a (simm imm) (· < ·)) s

/-- slei: Writes 1 where a is at most an immediate (04 R105). -/
def execSlei (hold : BitVec 2) (d : Reg) (a : Reg) (imm : BitVec 7) (s : State) : Out :=
  vec (.slei hold d a imm) (compareInt d a (simm imm) (· ≤ ·)) s

/-- mini: Writes the lesser of a and an immediate (04 R105). -/
def execMini (hold : BitVec 2) (d : Reg) (a : Reg) (imm : BitVec 7) (s : State) : Out :=
  vec (.mini hold d a imm) (arith d a (simm imm) lesser) s

/-- maxi: Writes the greater of a and an immediate (04 R105). -/
def execMaxi (hold : BitVec 2) (d : Reg) (a : Reg) (imm : BitVec 7) (s : State) : Out :=
  vec (.maxi hold d a imm) (arith d a (simm imm) greater) s

/-- addi64: Adds a sign-extended immediate to a 64-bit pair (04 R101). -/
def execAddi64 (hold : BitVec 2) (d : Reg) (a : Reg) (imm : BitVec 7) (s : State) : Out :=
  vec (.addi64 hold d a imm) (opAddi64 d a imm) s

/-- movk: Writes a zero-extended 16-bit constant tagged U32 (04 R106). -/
def execMovk (d : Reg) (imm : BitVec 16) (s : State) : Out :=
  vec (.movk d imm) (constant d (fun _ => 0x11) (imm.setWidth 32)) s

/-- movh: Replaces the high half of d with a 16-bit constant (04 R106). -/
def execMovh (d : Reg) (imm : BitVec 16) (s : State) : Out := vec (.movh d imm) (opMovh d imm) s

/-- lit: Writes a 32-bit literal word tagged MODE.etype (04 R107). -/
def execLit (d : Reg) (lit : Word) (s : State) : Out :=
  vec (.lit d lit) (constant d (fun v => modeEtype v.mode) lit) s

/-- addl: Adds a 32-bit literal to d (04 R107). -/
def execAddl (d : Reg) (lit : Word) (s : State) : Out := vec (.addl d lit) (opAddl d lit) s

/-- andl: ANDs d with a 32-bit literal (04 R107). -/
def execAndl (d : Reg) (lit : Word) (s : State) : Out := vec (.andl d lit) (logicLit d (· &&& lit)) s

/-- orl: ORs d with a 32-bit literal (04 R107). -/
def execOrl (d : Reg) (lit : Word) (s : State) : Out := vec (.orl d lit) (logicLit d (· ||| lit)) s

/-- add.u: Uniform add computed once in slot u and written to every live slot (04 R108). -/
def execAddU (hold : BitVec 2) (d : Reg) (a : Reg) (b : Reg) (s : State) : Out :=
  vec (.addU hold d a b) (arith d a (.reg b) (· + ·)) s

/-- sub.u: Uniform subtract (04 R108). -/
def execSubU (hold : BitVec 2) (d : Reg) (a : Reg) (b : Reg) (s : State) : Out :=
  vec (.subU hold d a b) (arith d a (.reg b) (· - ·)) s

/-- mul.u: Uniform multiply (04 R108). -/
def execMulU (hold : BitVec 2) (d : Reg) (a : Reg) (b : Reg) (s : State) : Out :=
  vec (.mulU hold d a b) (arith d a (.reg b) (· * ·)) s

/-- and.u: Uniform AND (04 R108). -/
def execAndU (hold : BitVec 2) (d : Reg) (a : Reg) (b : Reg) (s : State) : Out :=
  vec (.andU hold d a b) (logic d a (.reg b) (· &&& ·)) s

/-- or.u: Uniform OR (04 R108). -/
def execOrU (hold : BitVec 2) (d : Reg) (a : Reg) (b : Reg) (s : State) : Out :=
  vec (.orU hold d a b) (logic d a (.reg b) (· ||| ·)) s

/-- xor.u: Uniform XOR (04 R108). -/
def execXorU (hold : BitVec 2) (d : Reg) (a : Reg) (b : Reg) (s : State) : Out :=
  vec (.xorU hold d a b) (logic d a (.reg b) (· ^^^ ·)) s

/-- shl.u: Uniform left shift (04 R108). -/
def execShlU (hold : BitVec 2) (d : Reg) (a : Reg) (b : Reg) (s : State) : Out :=
  vec (.shlU hold d a b) (shift d a (.reg b) shiftLeft) s

/-- shr.u: Uniform right shift (04 R108). -/
def execShrU (hold : BitVec 2) (d : Reg) (a : Reg) (b : Reg) (s : State) : Out :=
  vec (.shrU hold d a b) (shift d a (.reg b) shiftRight) s

/-- min.u: Uniform minimum (04 R108). -/
def execMinU (hold : BitVec 2) (d : Reg) (a : Reg) (b : Reg) (s : State) : Out :=
  vec (.minU hold d a b) (arith d a (.reg b) lesser) s

/-- max.u: Uniform maximum (04 R108). -/
def execMaxU (hold : BitVec 2) (d : Reg) (a : Reg) (b : Reg) (s : State) : Out :=
  vec (.maxU hold d a b) (arith d a (.reg b) greater) s

/-- seq.u: Uniform bit-pattern equality (04 R108). -/
def execSeqU (hold : BitVec 2) (d : Reg) (a : Reg) (b : Reg) (s : State) : Out :=
  vec (.seqU hold d a b) (compareBits d a (.reg b) (· == ·)) s

/-- slt.u: Uniform less-than compare (04 R108). -/
def execSltU (hold : BitVec 2) (d : Reg) (a : Reg) (b : Reg) (s : State) : Out :=
  vec (.sltU hold d a b) (compareInt d a (.reg b) (· < ·)) s

/-- mov.u: Uniform move (04 R108). -/
def execMovU (hold : BitVec 2) (d : Reg) (a : Reg) (s : State) : Out := vec (.movU hold d a) (opMov d a) s

/-- add64.u: Uniform 64-bit add (04 R108). -/
def execAdd64U (hold : BitVec 2) (d : Reg) (a : Reg) (b : Reg) (s : State) : Out :=
  vec (.add64U hold d a b) (arith64 d a b (· + ·)) s

/-- addi.u: Uniform add immediate (04 R108). -/
def execAddiU (hold : BitVec 2) (d : Reg) (a : Reg) (imm : BitVec 7) (s : State) : Out :=
  vec (.addiU hold d a imm) (arith d a (simm imm) (· + ·)) s

/-- shli.u: Uniform shift left immediate (04 R108). -/
def execShliU (hold : BitVec 2) (d : Reg) (a : Reg) (imm : BitVec 7) (s : State) : Out :=
  vec (.shliU hold d a imm) (shift d a (uimm imm) shiftLeft) s

end Sys2Proof.Machine
end

