-- ==== Sys2Proof/Machine/Cross.lean ====
section
/-! DEFINITION. Tags, MODE and STAT, and the cross-lane instructions (01 R33, R43; 04 R118 to R128). -/

namespace Sys2Proof.Machine

/-! ## Tags and control registers (01 R33, R43; 04 R118 to R121) -/

/-- tagw on a core: the tag alone, when it issues. -/
def Frame.retag (fr : Frame) (i : Instr) (d : Reg) (code : Byte) (s : State) : State :=
  s.finish fr (fr.w.setTag d.toNat code) i

/-- The value of a selector (01 R43). -/
def Wave.control (w : Wave) (sel : Nat) : Word :=
  match sel with
  | 0x00 => w.mode
  | 0x01 => w.statWord
  | 0x08 => w.tpc.extractLsb' 0 32
  | 0x09 => w.tpc.extractLsb' 32 32
  | 0x0A => w.tmask.extractLsb' 0 32
  | 0x0B => w.tmask.extractLsb' 32 32
  | 0x0C => w.tcause
  | 0x0D => w.taddr.extractLsb' 0 32
  | 0x0E => w.taddr.extractLsb' 32 32
  | 0x0F => w.tstat
  | _ => 0

/-- The low or the high half of a 64-bit register replaced. -/
def setHalf (x : DWord) (high : Bool) (y : Word) : DWord :=
  if high then y ++ x.extractLsb' 0 32 else x.extractLsb' 32 32 ++ y

/-- A write to a selector other than MODE; a read-only register ignores it. Once a handler has written cr.TMASK, tret
resumes the slots of it that are in F (01 R43; 05 R150). -/
def Wave.setControl (w : Wave) (sel : Nat) (x : Word) : Wave :=
  match sel with
  | 0x01 => { w with stat := w.stat &&& ~~~(x &&& 0x1F) }
  | 0x08 => { w with tpc := setHalf w.tpc false x }
  | 0x09 => { w with tpc := setHalf w.tpc true x }
  | 0x0A => { w with tmask := setHalf w.tmask false x, adopted := false }
  | 0x0B => { w with tmask := setHalf w.tmask true x, adopted := false }
  | _ => w

/-- The MODE values refused on a wave of so many registers (01 R33). -/
def waveModeBad (regs : Nat) (m : Word) : Bool := modeRefused m || (modeGuard m != 0 && regs ≤ modeGuard m)

/-- A write of MODE: refused values raise MODE. -/
def State.writeMode (s : State) (fr : Frame) (i : Instr) (x : Word) : State :=
  if waveModeBad fr.g.regs x then s.trapAll fr .mode fr.act 0 0
  else s.finish fr { fr.w with mode := x } i

/-- setm: the value is read in slot u. -/
def State.writeControl (s : State) (fr : Frame) (i : Instr) (a sel : Reg) : State :=
  let x := fr.v.reg a.toNat fr.u
  if sel = 0 then s.writeMode fr i x else s.finish fr (fr.w.setControl sel.toNat x) i

/-- A value written to every live active slot whatever the guard, tagged U32. -/
def everyLane (d : Reg) (x : Word) : VecOp :=
  { d := d, wide := false, guarded := false, check := fun _ => none, tag := fun _ => some 0x11, val := fun _ _ => .of x }

/-- stat: STAT as it stood to the slots that pass the guard; the bits of v[a] of the lowest of them clear it. -/
def State.readClear (s : State) (fr : Frame) (i : Instr) (d a : Reg) : State :=
  let w := fr.w.commit (constant d (fun _ => 0x11) 0) fr.part (fun _ => fr.v.statWord.setWidth 64) (some 0x11)
  let clear := match lowest fr.part with
    | some u => fr.v.reg a.toNat u &&& 0x1F
    | none => 0
  s.finish fr { w with stat := w.stat &&& ~~~clear } i

/-! ## Cross-lane operations (04 R122 to R128) -/

/-- A vote; no tag is checked. -/
def vote (d : Reg) (f : View → Bool) : VecOp := vecOp d (fun _ => []) (fun _ => 0x11) fun v _ => bit01 (f v)
/-- The slots of P with a nonzero value. -/
def ballot (a : Reg) (v : View) : List Nat := v.lanes.filter fun t => v.reg a.toNat t != 0
/-- vote.bal. -/
def opBallot (d a : Reg) : VecOp := pairOp d [] fun v _ => maskOf (ballot a v)
/-- A value from slot s where it is available, the prior d elsewhere. -/
def fetchLane (v : View) (d a : Reg) (src : Int) (t : Nat) : LaneRes :=
  .of (if 0 ≤ src && v.avail src.toNat then v.reg a.toNat src.toNat else v.reg d.toNat t)
/-- A shuffle: the source slot of t from t and the unsigned value of b. -/
def shuffle (d a b : Reg) (f : Nat → Nat → Int) : VecOp :=
  vecOp d (fun _ => [(b, isInt)]) (fun v => v.tag a.toNat) fun v t => fetchLane v d a (f t (v.reg b.toNat t).toNat) t
/-- bcast. -/
def opBcast (d a b : Reg) : VecOp :=
  vecOp d (fun _ => [(b, isInt)]) (fun v => v.tag a.toNat) fun v t =>
    fetchLane v d a ((v.reg b.toNat (v.lanes.headD 0)).toNat : Nat) t

/-- How a reduction combines. -/
inductive Redu where
  | add | min | max
  deriving DecidableEq, Repr

/-- The combination of FP32 values: one exact sum rounded once, or the lesser or greater of all by 04 R110; any
signalling NaN is invalid. -/
def reduFloat (k : Redu) (r : Round) (xs : List Nat) : Res :=
  let vs := xs.map Fmt.f32.read
  match k with
  | .add => Fmt.f32.deliver r (exactSum r.down vs)
  | _ =>
    if vs.any Val.isSig then { bits := Fmt.f32.nan, flags := flagIV }
    else match xs with
      | [] => .plain 0
      | x :: rest =>
        .plain (rest.foldl (fun y z => (Fmt.f32.pick (k = .max) y z).bits)
          (if (Fmt.f32.read x).isNan then Fmt.f32.nan else x))
/-- The combination of integers. -/
def reduInt (k : Redu) (xs : List Int) : Int :=
  match k, xs with
  | .add, xs => xs.foldl (· + ·) 0
  | .min, x :: rest => rest.foldl lesser x
  | .max, x :: rest => rest.foldl greater x
  | _, [] => 0
/-- The combination of the values of some lanes of a. -/
def combine (k : Redu) (a : Reg) (v : View) (ts : List Nat) : LaneRes :=
  if a != 0 && isFlt (v.res a.toNat) then .ofRes (reduFloat k v.round (ts.map fun t => (v.reg a.toNat t).toNat))
  else
    let g := v.signed a 0
    v.fit g (reduInt k (ts.map fun t => v.int g a t))
/-- A reduction over P. -/
def reduce (d a : Reg) (k : Redu) : VecOp :=
  vecOp d (fun _ => [(a, fun t => isInt t || isFlt t)]) (fun v => v.res a.toNat) fun v _ => combine k a v v.lanes
/-- The inclusive sum of the slots of P up to a slot. -/
def prefixSum (a : Reg) (v : View) (t : Nat) : LaneRes := combine .add a v (v.lanes.filter fun s => s ≤ t)
/-- prefx: inclusive sums over the slots of P up to each. An invalid sum of one slot is invalid for all of P, as for
redu.add (04 R126, R127). -/
def opPrefix (d a : Reg) : VecOp :=
  vecOp d (fun _ => [(a, fun t => isInt t || isFlt t)]) (fun v => v.res a.toNat) fun v t =>
    let r := prefixSum a v t
    if v.lanes.any fun s => hasIV (prefixSum a v s).flags then { r with flags := r.flags ||| flagIV } else r

/-- The bit offset of a field of the work identifier (01 R11). -/
def fieldOffset (w : List Nat) (n : Nat) : Nat := (w.take n).foldl (· + ·) 0
/-- A field of a work identifier; a field of width 0 reads 0. -/
def idField (w : List Nat) (n : Nat) (id : DWord) : Word :=
  BitVec.ofNat 32 (id.toNat / 2 ^ fieldOffset w n % 2 ^ w.getD n 0)
/-- The field widths of the launch of a group. -/
def State.widths (s : State) (g : Group) : List Nat :=
  match s.launchOf g with
  | some l => l.hdr.w
  | none => [6]
/-- An identity read: U32, one value for each slot. -/
def identity (d : Reg) (f : View → Nat → Word) : VecOp := vecOp d (fun _ => []) (fun _ => 0x11) fun v t => .of (f v t)

/-! ## The instructions -/

/-- tagw: Sets a register's wave-wide format tag (04 R118). -/
def execTagw (d : Reg) (code : BitVec 8) (s : State) : Out :=
  onUnit (.tagw d code) s (fun fr => fr.retag (.tagw d code) d code s)
    (fun e p => s.setProg e ((p.setTag d.toNat code).advance 1)) fun id _ _ => s.endWalker id 0x01

/-- tagr: Reads a register's tag into every live active slot (04 R119). -/
def execTagr (hold : BitVec 2) (d : Reg) (a : Reg) (s : State) : Out :=
  vec (.tagr hold d a) (vecOp d (fun _ => []) (fun _ => 0x11) fun v _ => .of ((v.tag a.toNat).setWidth 32)) s

/-- setm: Writes slot u's value to a selected control register (04 R120). -/
def execSetm (hold : BitVec 2) (a : Reg) (sel : BitVec 7) (s : State) : Out :=
  onCoreOnly (.setm hold a sel) s fun fr => s.writeControl fr (.setm hold a sel) a sel

/-- setmi: Writes a literal word to MODE (04 R120). -/
def execSetmi (lit : Word) (s : State) : Out := onCoreOnly (.setmi lit) s fun fr => s.writeMode fr (.setmi lit) lit

/-- getm: Reads a selected control register into every live active slot (04 R120). -/
def execGetm (hold : BitVec 2) (d : Reg) (sel : BitVec 7) (s : State) : Out :=
  onCoreOnly (.getm hold d sel) s fun fr => (everyLane d (fr.v.control sel.toNat)).core (.getm hold d sel) s fr

/-- stat: Reads STAT into passing slots and clears the selected flags (04 R121). -/
def execStat (hold : BitVec 2) (d : Reg) (a : Reg) (s : State) : Out :=
  onCoreOnly (.stat hold d a) s fun fr => s.readClear fr (.stat hold d a) d a

/-- vote.any: Writes 1 if any participating slot holds nonzero a (04 R123). -/
def execVoteAny (hold : BitVec 2) (d : Reg) (a : Reg) (s : State) : Out :=
  vec (.voteAny hold d a) (vote d fun v => !(ballot a v).isEmpty) s

/-- vote.all: Writes 1 if every participating slot holds nonzero a (04 R123). -/
def execVoteAll (hold : BitVec 2) (d : Reg) (a : Reg) (s : State) : Out :=
  vec (.voteAll hold d a) (vote d fun v => v.lanes.all fun t => v.reg a.toNat t != 0) s

/-- vote.bal: Writes the 64-bit ballot mask to pair d (04 R123). -/
def execVoteBal (hold : BitVec 2) (d : Reg) (a : Reg) (s : State) : Out := vec (.voteBal hold d a) (opBallot d a) s

/-- shfl.idx: Reads a from the slot indexed by b, else keeps the fill value (04 R124). -/
def execShflIdx (hold : BitVec 2) (d : Reg) (a : Reg) (b : Reg) (s : State) : Out :=
  vec (.shflIdx hold d a b) (shuffle d a b fun _ n => (n : Int)) s

/-- shfl.up: Reads a from slot t minus b (04 R124). -/
def execShflUp (hold : BitVec 2) (d : Reg) (a : Reg) (b : Reg) (s : State) : Out :=
  vec (.shflUp hold d a b) (shuffle d a b fun t n => (t : Int) - n) s

/-- shfl.dn: Reads a from slot t plus b (04 R124). -/
def execShflDn (hold : BitVec 2) (d : Reg) (a : Reg) (b : Reg) (s : State) : Out :=
  vec (.shflDn hold d a b) (shuffle d a b fun t n => (t : Int) + n) s

/-- shfl.xor: Reads a from slot t xor b (04 R124). -/
def execShflXor (hold : BitVec 2) (d : Reg) (a : Reg) (b : Reg) (s : State) : Out :=
  vec (.shflXor hold d a b) (shuffle d a b fun t n => (t ^^^ n : Nat)) s

/-- bcast: Broadcasts a from the slot named by b in slot u (04 R125). -/
def execBcast (hold : BitVec 2) (d : Reg) (a : Reg) (b : Reg) (s : State) : Out :=
  vec (.bcast hold d a b) (opBcast d a b) s

/-- redu.add: Exact sum over the participating set, rounded once (04 R126). -/
def execReduAdd (hold : BitVec 2) (d : Reg) (a : Reg) (s : State) : Out := vec (.reduAdd hold d a) (reduce d a .add) s

/-- redu.min: Minimum over the participating set (04 R126). -/
def execReduMin (hold : BitVec 2) (d : Reg) (a : Reg) (s : State) : Out := vec (.reduMin hold d a) (reduce d a .min) s

/-- redu.max: Maximum over the participating set (04 R126). -/
def execReduMax (hold : BitVec 2) (d : Reg) (a : Reg) (s : State) : Out := vec (.reduMax hold d a) (reduce d a .max) s

/-- prefx: Inclusive prefix sum over the participating set (04 R127). -/
def execPrefx (hold : BitVec 2) (d : Reg) (a : Reg) (s : State) : Out := vec (.prefx hold d a) (opPrefix d a) s

/-- wid: Reads a field of the work identifier (04 R128). -/
def execWid (hold : BitVec 2) (d : Reg) (fld : BitVec 7) (s : State) : Out :=
  onCoreOnly (.wid hold d fld) s fun fr =>
    (identity d fun v t => idField (s.widths fr.g) fld.toNat (v.slotId t)).core (.wid hold d fld) s fr

/-- lane: Writes each slot's number (04 R128). -/
def execLane (hold : BitVec 2) (d : Reg) (s : State) : Out :=
  vec (.lane hold d) (identity d fun _ t => BitVec.ofNat 32 t) s

/-- maskr: Writes the fragment's active mask to pair d (04 R128). -/
def execMaskr (hold : BitVec 2) (d : Reg) (s : State) : Out := vec (.maskr hold d) (pairOp d [] fun v _ => v.mask) s

/-- liver: Writes the wave's live mask to pair d (04 R128). -/
def execLiver (hold : BitVec 2) (d : Reg) (s : State) : Out := vec (.liver hold d) (pairOp d [] fun v _ => v.live) s

end Sys2Proof.Machine
end

