-- ==== Sys2Proof/Machine/Remote.lean ====
section
/-! DEFINITION. The X instructions, their packets at this device's ends of the fabric, and the causeway (06 R188 to R196;
13 R349, R352 to R360; 14 R385). -/

namespace Sys2Proof.Machine

/-! ## Descriptors and targets (06 R188) -/

/-- A member of the gang of a group, resident on this device. -/
def State.memberGroup (s : State) (g : Group) (m : Nat) : Option (Nat × Group) :=
  s.groups.find? fun e => e.2.sameGang g && e.2.member = m && e.2.present
/-- The die of the core of a gang member: known on this device, a free value elsewhere (assumption log 27). -/
def State.memberDie (s : State) (g : Group) (m : Nat) : Nat :=
  match s.memberGroup g m with
  | some e => dieOfCore e.2.core
  | none => (Config.memberDie s.progress m).toNat
/-- The member index of a kind-1 descriptor. -/
def descMember (x : Word) : Nat := (x.extractLsb' 0 16).toNat
/-- The xop of a descriptor. -/
def descXop (x : Word) : Nat := (x.extractLsb' 26 4).toNat
/-- The descriptor is kind 1. -/
def descKind (x : Word) : Bool := x.extractLsb' 30 2 = 1
/-- The descriptor raises XPEER; `xat` tells that the instruction reads its xop. -/
def State.descBad (s : State) (g : Group) (xat : Bool) (x : Word) : Bool :=
  x.getLsbD 31 || x.extractLsb' 16 10 != 0 || 7 ≤ descXop x || (!xat && descXop x != 0) ||
    (if descKind x then s.gangSize g = 1 || s.gangSize g ≤ descMember x
      else x.extractLsb' 12 4 != 0 || 4 ≤ (x.extractLsb' 9 3).toNat)

/-- The address a cause names, and a deferred fault records (06 R192; 17 R418). -/
def xAddr (x : Word) (off : DWord) : DWord :=
  if descKind x then x ++ off.extractLsb' 0 32
  else x.extractLsb' 0 9 ++ x.extractLsb' 9 3 ++ 0#4 ++ off.extractLsb' 0 48
/-- The cause of a slot, in the order of 01 R41: the whole access lies at its target, aligned. -/
def State.xCause (s : State) (fr : Frame) (xat : Bool) (n : Nat) (x : Word) (off : DWord) : Option Cause :=
  if off.toNat % n != 0 then some .align
  else if s.descBad fr.g xat x then some .xpeer
  else if !descKind x then (if off.extractLsb' 48 16 != 0 then some .page else none)
  else if fr.g.size * 4096 ≤ off.toNat then some .prot
  else if !fr.g.attached then some .cwDetached
  else if fr.g.gone.contains (descMember x) || (descMember x = fr.g.member && !fr.g.present) then some .cwDeparted
  else none

/-! ## Packets (06 R189; 13 R356) -/

/-- The n-th set bit of a mask of straits. -/
def nthStrait (m : Word) (n : Nat) : Option Nat := ((List.range 32).filter fun j => m.getLsbD j)[n]?
/-- The egress entry of a device under a generation (13 R358). -/
def State.egress (s : State) (gen : Bool) (dev : Nat) : Word :=
  (if gen then s.dev.egt1 else s.dev.egt0).lookD dev 0xFFFFFFFF
/-- The strait of a packet (13 R349); none refuses it. -/
def chooseStrait (core dev die : Nat) (mask : Word) : Option Nat :=
  let pref := mask &&& (0xFF#32 <<< (8 * die))
  let cand := if pref != 0 then pref else mask
  if cand = 0 then none
  else nthStrait cand ((core + dev) % ((List.range 32).filter fun j => cand.getLsbD j).length)
/-- The target device and die of a descriptor. -/
def State.descTarget (s : State) (g : Group) (x : Word) : Nat × Nat :=
  if descKind x then
    (match s.launchOf g with
      | some l => l.hdr.memberDevice (descMember x)
      | none => 0, s.memberDie g (descMember x))
  else ((x.extractLsb' 0 9).toNat, (x.extractLsb' 9 3).toNat)

/-- The request of a slot: its descriptor, its offset and its data. -/
structure XReq where
  slot : Nat
  desc : Word
  off : DWord
  data : BitVec 128
  deriving DecidableEq, Repr

/-- The place of a request's 64 KiB block: the full VA of kind 0, the window offset of kind 1. -/
def XReq.block (x : XReq) : DWord := (if descKind x.desc then x.off else xAddr x.desc x.off) &&& ~~~0xFFFF#64
/-- Chunks of at most 32, in order. -/
def chunks32 : Nat → List XReq → List (List XReq)
  | 0, _ => []
  | _, [] => []
  | n + 1, x :: r => (x :: r).take 32 :: chunks32 n ((x :: r).drop 32)
/-- The values of a list, each once, ascending. -/
def ascending (l : List Nat) : List Nat := l.eraseDups.mergeSort (· ≤ ·)
/-- The groups of requests that become packets: by descriptor, ascending, then by block, then 32 at a time. -/
def packetGroups (l : List XReq) : List (List XReq) :=
  (ascending (l.map fun x => x.desc.toNat)).flatMap fun d =>
    let run := l.filter fun x => x.desc.toNat = d
    ((run.map XReq.block).eraseDups).flatMap fun b => chunks32 64 (run.filter fun x => x.block = b)
/-- The packet of a group of requests of one descriptor and block; its request slot and generation come at injection. -/
def State.makePart (s : State) (fr : Frame) (ptype : Nat) (l : List XReq) : XPart :=
  let x := l.headD { slot := 0, desc := 0, off := 0, data := 0 }
  let t := s.descTarget fr.g x.desc
  { pkt :=
      { ptype := BitVec.ofNat 4 ptype, xop := if ptype = 4 then x.desc.extractLsb' 26 4 else 0, gen := false,
        kind := descKind x.desc,
        scope := if 4 ≤ ptype then BitVec.ofNat 3 (modeScope fr.v.mode) else 0, ctx := BitVec.ofNat 6 fr.g.ctx,
        sdev := BitVec.ofNat 9 s.dev.devnum, score := BitVec.ofNat 11 fr.g.core, rslot := 0, desc := x.desc,
        tdev := BitVec.ofNat 9 t.1, tdie := BitVec.ofNat 3 t.2, base := x.block, key := 0,
        entries := l.map fun y => { off := y.off.extractLsb' 0 16, data := y.data, poison := false },
        refused := 0, cause := 0, tag := 0, strait := 0, zeros := true },
    slots := l.map (·.slot), answered := false }

/-! ## Deferred remote faults and answers (06 R192; 13 R357) -/

/-- A deferred remote fault gains slots; the first cause and target stay. -/
def Wave.deferRemote (w : Wave) (c : Cause) (slots : DWord) (target : DWord) : Wave :=
  match w.dfr with
  | some e => { w with dfr := some { e with slots := e.slots ||| slots } }
  | none => { w with dfr := some { cause := c, slots := slots, target := target } }
/-- A packet of an operation has its answer; the operation ends with its last. -/
def State.answered (s : State) (id : Nat) (o : Op) (j : Nat) : State :=
  match o.kind with
  | .remote d n parts =>
    let parts := (parts.zipIdx).map fun x => if x.2 = j then { x.1 with answered := true } else x.1
    let o := { o with kind := .remote d n parts }
    if parts.all (·.answered) then (s.setOp id o).endOp id o else s.setOp id o
  | _ => s
/-- Refused entries of a packet: their slots are recorded for a later trap. -/
def State.refuse (s : State) (o : Op) (part : XPart) (bad : List (Nat × PacketEntry)) (c : Cause) : State :=
  match bad.head? with
  | none => s
  | some x =>
    s.onWave o.gid o.wave fun w => w.deferRemote c (maskOf (bad.map (·.1)))
      (xAddr part.pkt.desc (if descKind part.pkt.desc then part.pkt.base + x.2.off.setWidth 64
        else (part.pkt.base + x.2.off.setWidth 64).extractLsb' 0 48 |>.setWidth 64))

/-! ## Injection (06 R190; 13 R349, R353, R358, R360) -/

/-- The lowest free request slot of a core for a device. -/
def Core.freeSlot (c : Core) (dev : Nat) : Option Nat :=
  (List.range 8).find? fun k => !c.reqs.any fun r => r.dev = dev && r.slot = k
/-- The strait a packet would take now, if the device's tables and the switch's have a route for it. -/
def State.routeOf (s : State) (core : Nat) (p : Packet) : Option Nat :=
  match chooseStrait core p.tdev.toNat p.tdie.toNat (s.egress s.dev.fabGen p.tdev.toNat) with
  | none => none
  | some k => if ((s.switch k).route s.dev.fabGen p.tdev.toNat).getLsbD 9 then some k else none
/-- A packet may go now: the port of its strait is up, or the tables refuse it (assumption log 92). -/
def State.mayGo (s : State) (core : Nat) (p : Packet) : Bool :=
  match s.routeOf core p with
  | some k => !(s.port k).down
  | none => true
/-- Packet j of an operation holds a request slot. -/
def State.reqOf (s : State) (core id j : Nat) : Option ReqSlot :=
  (s.core core).reqs.find? fun r => r.op = id && r.pkt = j
/-- The strait number of a request slot whose packet has not been sent. -/
def notSent : Nat := 32
/-- A packet takes a free request slot of its device, if there is one. -/
def State.takeSlot (s : State) (core id j : Nat) (p : Packet) : Option State :=
  ((s.core core).freeSlot p.tdev.toNat).map fun k =>
    s.onCore core fun c => { c with
      reqs := c.reqs ++ [{ dev := p.tdev.toNat, slot := k, op := id, pkt := j, strait := notSent }] }
/-- The packet is an atomic: an acquire and a release. -/
def XPart.atomic (x : XPart) : Bool := x.pkt.ptype = 4 || x.pkt.ptype = 5
/-- The accesses an X packet waits for (06 R191; 09 R260, R265, R267): earlier acquires of its slots; for an atomic at isle
scope or wider every earlier access, at wave or group scope every one but stores; and, for such a wide atomic and for any packet
to this device's own memory, the stores of the group that its slots have acquired. -/
def State.xOrdered (s : State) (id : Nat) (o : Op) (part : XPart) : Bool :=
  let own := !part.pkt.kind && part.pkt.tdev.toNat = s.dev.devnum
  part.slots.all (fun t => (s.earlier o.gid o.wave t id).all fun x =>
    !x.1.kind.acquires && (!part.atomic || (o.narrow && x.1.kind.isStore))) &&
    (!(own || (part.atomic && !o.narrow)) || (s.groupPending o.gid).all fun x =>
      (o.accs.filter fun a => part.slots.contains a.slot).all fun a => a.heed ≤ x.2.2.seen)
/-- A narrow atomic leaves the earlier stores of its slots inside the group (09 R265). -/
def State.xReleases (s : State) (id : Nat) (o : Op) (part : XPart) : State :=
  if part.atomic && o.narrow then part.slots.foldl (fun s t => s.groupStores o.gid o.wave t id) s else s
/-- A packet that holds a request slot is sent, or refused by the routing tables. -/
def State.sendPart (s : State) (core id : Nat) (o : Op) (part : XPart) (r : ReqSlot) : State :=
  let p := { part.pkt with gen := s.dev.fabGen, rslot := BitVec.ofNat 3 r.slot }
  match s.routeOf core p with
  | some k =>
    (s.onCore core fun c => { c with reqs := c.reqs.map fun q => if q = r then { r with strait := k } else q }).inject k
      { p with strait := BitVec.ofNat 5 k } 0
  | none =>
    ((s.onCore core fun c => { c with reqs := c.reqs.filter fun q => q != r }).refuse o part
      (part.slots.zip part.pkt.entries) .xpeer).answered id o r.pkt

/-- A packet of the queue of a core moves: it takes a request slot, and is sent as soon as its order lets it. `ahead`
lists the devices that earlier packets of the queue wait for. -/
def State.pushPacket (s : State) (core : Nat) (ahead : List Nat) (id j : Nat) : Option State :=
  match s.ops.look id with
  | none => none
  | some o => match o.kind with
    | .remote _ _ parts =>
      match parts[j]? with
      | none => none
      | some part =>
        let dev := part.pkt.tdev.toNat
        let s1 : Option State := match s.reqOf core id j with
          | some _ => some s
          | none => if ahead.contains dev then none else s.takeSlot core id j part.pkt
        match s1 with
        | none => none
        | some s1 =>
          match s1.reqOf core id j with
          | none => none
          | some r =>
            if s1.xOrdered id o part && s1.mayGo core part.pkt then
              some (((s1.xReleases id o part).onCore core fun c =>
                { c with waitQ := c.waitQ.filter fun q => q != (id, j) }).sendPart core id o part r)
            else if (s.reqOf core id j).isSome then none else some s1
    | _ => none
/-- The devices the queue of a core waits for, with each packet the devices of the packets before it. -/
def State.queueAhead (s : State) (core : Nat) : List Nat → List (Nat × Nat) → List (List Nat × Nat × Nat)
  | _, [] => []
  | acc, (id, j) :: r =>
    let acc' := match s.ops.look id with
      | some { kind := .remote _ _ parts, .. } => match parts[j]? with
        | some p => if (s.reqOf core id j).isSome then acc else p.pkt.tdev.toNat :: acc
        | none => acc
      | _ => acc
    (acc, id, j) :: s.queueAhead core acc' r
/-- The first packet of the queue that can move does. -/
def State.sendNext (s : State) (core : Nat) : Option State :=
  (s.queueAhead core [] (s.core core).waitQ).findSome? fun q => s.pushPacket core q.1 q.2.1 q.2.2
/-- Every packet of the queue that can move does. -/
def State.drainQueue (s : State) (core : Nat) : Nat → State
  | 0 => s
  | n + 1 => match s.sendNext core with
    | some t => t.drainQueue core n
    | none => s

/-! ## The X instructions (06 R188 to R191) -/

/-- The pair of offsets of a slot. -/
def Frame.xreq (fr : Frame) (a b : Reg) (data : Nat → BitVec 128) (t : Nat) : XReq :=
  { slot := t, desc := fr.v.reg a.toNat t, off := fr.v.pair b.toNat t, data := data t }
/-- The slots whose run of an xat does not accept the tag of d: INT for xop 0 to 2, ANY for the others (06 R191). -/
def xatMisfits (fr : Frame) (d : Reg) (l : List XReq) : List XReq :=
  l.filter fun x => !fr.look.ok (d, if descXop x.desc ≤ 2 then isInt else isAny)
/-- An X instruction: packet type, bytes, words it returns, tag checks, data and the tags it writes at issue. No slot's
packet leaves when any slot has a cause. -/
def State.xIssue (s : State) (fr : Frame) (i : Instr) (ptype n : Nat) (d a b : Reg) (words : Nat)
    (checks : List (Reg × (Byte → Bool))) (data : Nat → BitVec 128) (retag : Wave → Wave) : State :=
  let l := (slotsOf fr.part).map (fr.xreq a b data)
  let misfits := xatMisfits fr d l
  if ptype = 4 && misfits != [] then s.trapAll fr .tag (maskOf (misfits.map (·.slot))) d.toNat 0
  else match fr.look.first (checks ++ [(a, isInt)] ++ pairCheck b) with
  | some r => s.trapAll fr .tag fr.act r 0
  | none =>
    let bad := l.filterMap fun x => (s.xCause fr (ptype = 4) n x.desc x.off).map fun c => (x.slot, xAddr x.desc x.off, c)
    match firstCause bad with
    | some c => s.trap fr false fr.w { accessTrap fr.act bad c with done := 0 }
    | none =>
      if l = [] then s.finish fr (retag fr.w) i
      else
        let parts := ((packetGroups l).map (s.makePart fr ptype)).map fun (x : XPart) =>
          if ptype = 4 then { x with pkt := { x.pkt with tag := fr.look.res d.toNat } } else x
        let first := match parts.head? with
          | some p => p.pkt.tdev.toNat
          | none => 0
        if fr.w.ctr.xr = 63 || ((s.core fr.g.core).freeSlot first).isNone then s.holdOn fr
        else
          let id := s.nextOp
          let s := s.pushOp
            { gid := fr.gid, wave := fr.wid, ctx := fr.g.ctx, serial := fr.g.serial, core := fr.g.core, ctr := some .xr,
              kind := .remote d words parts,
              accs := l.map fun x => { slot := x.slot, va := xAddr x.desc x.off, key := 0, data := x.data, cmp := 0,
                                       done := false, grp := false, heed := fr.w.heard.lookD x.slot 0 },
              scope := modeScope fr.v.mode, promote := modePromote fr.v.mode, issued := s.tick, tmo := modeTmo fr.v.mode }
          let fr' := { fr with w := retag (fr.w.count .xr) }
          let s := s.putWave fr fr'.w
          let s := (s.onCore fr.g.core fun c => { c with
            waitQ := c.waitQ ++ (List.range parts.length).map fun j => (id, j) }).drainQueue fr.g.core 128
          match s.wave? fr.gid fr.wid with
          | none => s
          | some w => if s.slotsHeld id then s.finish fr w i else s.waitOn fr w (.waiting (.slots id))

/-- xld and xld.q. -/
def State.xload (s : State) (fr : Frame) (i : Instr) (d a b : Reg) (n : Nat) : State :=
  s.xIssue fr i (if n = 4 then 0 else 1) n d a b (n / 4) [] (fun _ => 0) fun w =>
    w.tagWords d.toNat (n / 4) (modeEtype fr.v.mode)
/-- xst and xst.q. -/
def State.xstore (s : State) (fr : Frame) (i : Instr) (d a b : Reg) (n : Nat) : State :=
  s.xIssue fr i (if n = 4 then 2 else 3) n d a b 0 [] (fr.stored d n) fun w => w
/-- xat. -/
def State.xatomic (s : State) (fr : Frame) (i : Instr) (d a b : Reg) : State :=
  s.xIssue fr i 4 4 d a b 1 [] (fr.stored d 4) fun w => w.setTag d.toNat (fr.look.res d.toNat)
/-- xcas: the compared value is v[d], the new one v[d+1]. -/
def State.xcompare (s : State) (fr : Frame) (i : Instr) (d a b : Reg) : State :=
  s.xIssue fr i 5 4 d a b 1 [(d, isAny)] (fr.stored d 8) fun w => w.setTag d.toNat (fr.look.res d.toNat)

/-! ## A request arrives (06 R191, R192; 13 R356, R357; 14 R385) -/

/-- Bytes of an entry's access. -/
def packetBytes (p : Packet) : Nat := if p.ptype = 1 || p.ptype = 3 then 16 else 4
/-- The bit of an xop, or compare-and-swap. -/
def packetAtom (p : Packet) (signed : Bool) : AtomOp :=
  if p.ptype = 5 then .cas
  else match p.xop.toNat with
    | 0 => .add | 1 => .min signed | 2 => .max signed | 3 => .and | 4 => .or | 5 => .xor
    | _ => .xch
/-- The operation of this device that a request packet belongs to. -/
def State.senderOp (s : State) (p : Packet) : Option (Nat × Op) :=
  if p.sdev.toNat = s.dev.devnum then
    ((s.core p.score.toNat).reqs.find? fun r => r.dev = p.tdev.toNat && r.slot = p.rslot.toNat).bind
      fun r => (s.ops.look r.op).map fun o => (r.op, o)
  else none
/-- The group of this device that sent a request packet, resident or saved. -/
def State.senderGroup (s : State) (p : Packet) : Option Group :=
  (s.senderOp p).bind fun o => match s.groups.look o.2.gid with
    | some g => some g
    | none => s.saved.look o.2.gid
/-- A group is the member a kind-1 packet names: that of the sender's gang; for a sender elsewhere the member of its context
on the target die (assumption log 26). -/
def State.isTarget (s : State) (p : Packet) (g : Group) : Bool :=
  g.member = descMember p.desc && g.present && match s.senderGroup p with
    | some h => g.sameGang h
    | none => g.ctx = p.ctx.toNat && s.gangSize g != 1 && dieOfCore g.core = p.tdie.toNat
/-- The group whose window a kind-1 packet names. -/
def State.windowOf (s : State) (p : Packet) : Option (Nat × Group) := s.groups.find? fun e => s.isTarget p e.2
/-- The member a kind-1 packet names is saved: the packet waits until it is back. -/
def State.targetSaved (s : State) (p : Packet) : Bool :=
  p.kind && (s.windowOf p).isNone && s.saved.any fun e => s.isTarget p e.2
/-- Where an entry leads, or why it is refused. -/
def State.xPlace (s : State) (p : Packet) (e : PacketEntry) : Except Cause Nat :=
  let va := p.base + e.off.setWidth 64
  if p.kind then
    match s.windowOf p with
    | none => .error .cwDeparted
    | some g => if g.2.size * 4096 < va.toNat + packetBytes p then .error .prot
      else .ok (scratchKey g.2.core (g.2.base * 4096 + va.toNat))
  else
    match s.locate none p.ctx.toNat va
        (if p.ptype.toNat ≤ 1 then .load else if p.ptype.toNat ≤ 3 then .store else .atomic) false with
    | .error c => .error (if c = .xpeer then .page else c)
    | .ok k =>
      if p.sdev.toNat != s.dev.devnum && !((s.die (vaDie va)).rdev.lookD p.ctx.toNat 0).getLsbD p.sdev.toNat then
        .error .prot
      else .ok k
/-- The signedness of a minimum or maximum travels as the resolved tag of xat's d (assumption log 26). -/
def packetSigned (p : Packet) : Bool := p.tag = 0x10
/-- The narrow release that an atomic packet of this device is. -/
def State.narrowPacket (s : State) (p : Packet) : List NarrowRel :=
  match s.senderOp p with
  | some (id, o) =>
    if o.narrow then [{ op := id, core := o.core, gid := o.gid, wave := o.wave, scope := o.scope, seen := s.progress }] else []
  | none => []
/-- The bytes of a place continue the release sequences they did, with one more release (09 R262, R265, R266). -/
def State.keepNarrow (s : State) (key : Nat) (mine : List NarrowRel) (old : List (List NarrowRel)) : State :=
  (old.zipIdx).foldl (fun s x =>
    if mine ++ x.1 = [] then s else { s with narrow := s.narrow.put (key + x.2) (mine ++ x.1) }) s
/-- One entry performed at its place: the state after it and the value it returns. -/
def State.xPerform (s : State) (p : Packet) (e : PacketEntry) (key : Nat) : State × PacketEntry :=
  let n := packetBytes p
  let ret : Nat → Bool → PacketEntry := fun x bad => { off := e.off, data := BitVec.ofNat 128 x, poison := bad }
  if p.ptype.toNat ≤ 1 then
    if s.poisonedIn key n then (s, ret 0 true) else (s, ret (s.num key n) false)
  else if p.ptype.toNat ≤ 3 then (s.put p.ctx.toNat key (bytesOf e.data.toNat n), ret 0 false)
  else if s.poisonedIn key n then (s, ret 0 true)
  else
    let m := s.num key 4
    let x := (e.data.extractLsb' 0 32).toNat
    let new := if p.ptype = 5 then (if m = x then (e.data.extractLsb' 32 32).toNat else m)
      else (packetAtom p (packetSigned p)).apply 4 m x 0
    let old := (List.range 4).map fun j => s.narrow.lookD (key + j) []
    ((s.put p.ctx.toNat key (bytesOf new 4)).keepNarrow key (s.narrowPacket p) old, ret m false)
/-- The entries of a packet performed in order: the state, the returned entries, and the mask and first cause of the
refused ones. -/
def State.xEntries (s : State) (p : Packet) : Nat → List PacketEntry → State × List PacketEntry × Word × Nat
  | _, [] => (s, [], 0, 0)
  | j, e :: r =>
    match s.xPlace p e with
    | .ok k =>
      let x := s.xPerform p e k
      let y := x.1.xEntries p (j + 1) r
      (y.1, x.2 :: y.2.1, y.2.2)
    | .error c =>
      let y := s.xEntries p (j + 1) r
      (y.1, { off := e.off, data := 0, poison := false } :: y.2.1, y.2.2.1 ||| (1#32 <<< j), c.code)
/-- The response to a packet, sent back on the strait it came on. -/
def State.respond (s : State) (p : Packet) (entries : List PacketEntry) (refused : Word) (cause : Nat) (tag : Byte) :
    State :=
  let q : Packet := { p with
    ptype := 8, gen := s.dev.fabGen, key := 0, entries := entries, refused := refused,
    cause := BitVec.ofNat 8 cause, tag := tag, tdev := BitVec.ofNat 9 s.dev.devnum }
  s.inject p.strait.toNat q (if p.ptype = 1 then 16 else if p.ptype = 2 || p.ptype = 3 then 0 else 4)
/-- An atomic packet of this device's is held back at a place: by a promotion, or by stores that a release it reads orders
(09 R261, R262, R266). -/
def State.xPromoting (s : State) (p : Packet) (key : Nat) : Bool :=
  4 ≤ p.ptype.toNat && match s.senderOp p with
    | some (_, o) => (o.promote && !s.promotedAt o key 4) || !s.syncedAt o key 4
    | none => false
/-- An X access arrives. -/
def State.xAccess (s : State) (p : Packet) : Option State :=
  let held := p.entries.any fun e => match s.xPlace p e with
    | .ok k => s.accessHeld k || s.xPromoting p k
    | .error _ => false
  if held then none
  else
    let dies := p.entries.map fun e => p.base + e.off.setWidth 64
    let ok := dies.filter fun va => !p.kind && (s.locate none p.ctx.toNat va .load false).isOk
    let type := if p.sdev.toNat != s.dev.devnum then 5 else if p.ptype.toNat ≤ 1 then 0
      else if p.ptype.toNat ≤ 3 then 1 else 2
    let s := s.noteDie p.ctx.toNat ok p.score.toNat type p.sdev.toNat
    let r := s.xEntries p 0 p.entries
    some (r.1.respond p r.2.1 r.2.2.1 r.2.2.2 0)

/-! ## Exchanges (06 R196; 13 R355) -/

/-- Half of an exchange has not run out of time (06 R196). -/
def State.halfLives (s : State) (o : Op) : Bool :=
  match o.kind with
  | .exchange _ _ _ _ deadline => s.tick < deadline
  | _ => false
/-- The first-issued live half of a group that names a member with a key. -/
def State.firstHalf (s : State) (gid partner : Nat) (k : BitVec 16) : Option (Nat × Op) :=
  s.ops.find? fun e => e.2.gid = gid && s.halfLives e.2 && match e.2.kind with
    | .exchange _ _ m key _ => m = partner && key = k
    | _ => false
/-- The member that sent a half: known from its operation on this device; elsewhere, the member of its device. -/
def State.halfSender (s : State) (p : Packet) (g : Group) : Nat :=
  match s.senderGroup p with
  | some h => h.member
  | none => ((List.range (s.gangSize g)).find? fun m => match s.launchOf g with
      | some l => l.hdr.memberDevice m = p.sdev.toNat
      | none => false).getD 0
/-- A half of this device comes in turn: it lives, and is the first of its direction and key (06 R196). Those of another
device come in the order they arrive (assumption log 26). -/
def State.inTurn (s : State) (p : Packet) : Bool :=
  match s.senderOp p with
  | none => p.sdev.toNat != s.dev.devnum
  | some (id, o) => match o.kind with
    | .exchange _ _ partner key _ => (s.firstHalf o.gid partner key).map (·.1) = some id
    | _ => false
/-- Values and tag of the partner written in the slots of both sets; the half is over. -/
def State.pairHalf (s : State) (id : Nat) (o : Op) (entries : List PacketEntry) (tag : Byte) : State :=
  match o.kind with
  | .exchange d part _ _ _ =>
    let s := (s.unlatch o.gid o.wave [d.toNat]).onWave o.gid o.wave fun w =>
      (entries.foldl (fun w e => if part.slots.contains e.off.toNat && inMask w.alive e.off.toNat then
        w.setReg d.toNat e.off.toNat (e.data.extractLsb' 0 32) else w) w).setTag d.toNat tag
    s.discardHalf id o
  | _ => s
/-- The entries and the tag of a half. -/
def Op.half (o : Op) : List PacketEntry × Byte :=
  match o.kind with
  | .exchange _ part _ _ _ => (part.pkt.entries, part.pkt.tag)
  | _ => ([], 0)
/-- The answer to a half: for each of its entries the partner's value, or, in a slot that only it has, its own (13 R357). -/
def pairedEntries (mine theirs : List PacketEntry) : List PacketEntry :=
  mine.map fun e => (theirs.find? fun x => x.off = e.off).getD e
/-- Two halves meet: the one in a packet and a waiting one of this device. A sender on this device is written in the
same step; a sender elsewhere gets the response. -/
def State.meet (s : State) (p : Packet) (id : Nat) (o : Op) : State :=
  let other := s.senderOp p
  let s := s.pairHalf id o p.entries p.tag
  match other with
  | some x => s.pairHalf x.1 x.2 o.half.1 o.half.2
  | none => s.respond p (pairedEntries p.entries o.half.1) 0 0 o.half.2
/-- The refusal mask of every entry of a packet. -/
def allRefused (p : Packet) : Word := BitVec.ofNat 32 (2 ^ Nat.min p.entries.length 32 - 1)
/-- A half is answered with its refusal; without a cause the answer is a retry notice (assumption log 92). -/
def State.refuseHalf (s : State) (p : Packet) (cause : Nat) : State :=
  s.respond p (p.entries.map fun e => { e with data := 0 }) (allRefused p) cause 0
/-- A half arrives: it pairs at once, waits in the pairing table, or is sent back when the table is full; a member that
has withdrawn refuses it. -/
def State.halfArrives (s : State) (p : Packet) : State :=
  match s.windowOf p with
  | none => s.refuseHalf p 0x08
  | some g =>
    match s.firstHalf g.1 (s.halfSender p g.2) p.key with
    | some x => s.meet p x.1 x.2
    | none => if (s.core g.2.core).pairs.length < 64 then
        s.onCore g.2.core fun c => { c with pairs := c.pairs ++ [p] }
      else s.refuseHalf p 0
/-- A half that has not paired yet meets the first fitting one of its own core's pairing table: of its gang, from its
partner, with its key, and in turn. -/
def State.pairFromTable (s : State) (gid id : Nat) (o : Op) : State :=
  match s.groups.look gid, o.kind with
  | some g, .exchange _ _ partner key _ =>
    match (s.core g.core).pairs.find? (fun p => p.key = key && s.isTarget p g && s.halfSender p g = partner && s.inTurn p) with
    | some p => (s.onCore g.core fun c => { c with pairs := c.pairs.erase p }).meet p id o
    | none => s
  | _, _ => s

/-- A request packet has the form 13 R356 gives its type: fields stated as zero are zero, the type is no reserved one, and
counts, slot numbers, operations and tags lie in their ranges (assumption log 92). -/
def packetForm (p : Packet) : Bool :=
  let t := p.ptype.toNat
  p.zeros && t ≤ 6 && 1 ≤ p.entries.length && p.entries.length ≤ (if t = 6 then 64 else 32) &&
    (if t = 4 then p.xop.toNat ≤ 6 else p.xop = 0) && (t = 6 || p.key = 0) && (4 ≤ t || p.scope = 0) &&
    p.base.extractLsb' 0 16 = 0 && (t != 6 || (p.kind && assignedTag p.tag && p.entries.all fun e => e.off.toNat < 64))
/-- X_REQUEST_ARRIVAL: a request of this device must be in flight; one from another device is the environment's. Its strait is
up. A malformed packet is discarded and answered with a lost notice. -/
def State.xArrival (s : State) (p : Packet) : Option State :=
  let own := p.sdev.toNat = s.dev.devnum
  let t := if own then s.leaves p else (s.enters p.strait.toNat p.gen).settleSwitch p.strait.toNat
  if p.tdev.toNat != s.dev.devnum || (own && !s.net.contains p) || (s.port p.strait.toNat).down || p.ptype = 7 ||
      (8 ≤ p.ptype.toNat && p.ptype.toNat ≤ 10) || s.targetSaved p then none
  else if !packetForm p then some (t.inject p.strait.toNat { lostPacket p with gen := s.dev.fabGen } 0)
  else if p.ptype.toNat ≤ 5 then t.xAccess p
  else if own && !s.inTurn p then none
  else some (t.halfArrives p)

/-! ## A response is accepted (06 R192; 13 R357) -/

/-- The values of the entries that were not refused. -/
def State.takeEntries (s : State) (o : Op) (part : XPart) (p : Packet) : State :=
  let l := (part.slots.zip p.entries).zipIdx
  let good : List (Nat × PacketEntry) := (l.filter fun x => !p.refused.getLsbD x.2).map (·.1)
  let s : State := match o.kind with
    | .remote d n _ =>
      let dead := good.filter fun (x : Nat × PacketEntry) => x.2.poison && n != 0
      let s := good.foldl (fun (s : State) (x : Nat × PacketEntry) =>
        if x.2.poison || n = 0 || !s.slotAlive o.gid o.wave x.1 then s
        else s.onWave o.gid o.wave fun w =>
          w.writeWords d.toNat x.1 ((List.range n).map fun j => x.2.data.extractLsb' (32 * j) 32)) s
      s.killSlots o.gid o.wave (dead.map fun (x : Nat × PacketEntry) => (x.1, xAddr part.pkt.desc (part.pkt.base + x.2.off.setWidth 64)))
    | _ => s
  let bad : List (Nat × PacketEntry) :=
    (((part.slots.zip part.pkt.entries).zipIdx).filter fun x => p.refused.getLsbD x.2).map (·.1)
  s.refuse o part bad (causeOf p.cause.toNat)
/-- The slots of an atomic acquire what their group has seen (06 R191; 09 R262). -/
def State.xAcquired (s : State) (id : Nat) (o : Op) (part : XPart) : State :=
  if part.pkt.ptype = 4 || part.pkt.ptype = 5 then s.heed o.gid o.wave (maskOf part.slots) id else s
/-- The response answers a packet of this device's: the right kind, an answer for every entry, refusals with a cause. -/
def packetAnswers (p : Packet) (part : XPart) : Bool :=
  p.ptype = 8 && p.entries.length = part.pkt.entries.length && p.refused.toNat < 2 ^ part.pkt.entries.length &&
    (p.refused = 0 || p.cause = 5 || p.cause = 6 || p.cause = 8 || p.cause = 0x0E)
/-- The half of a waiting fragment has been answered: paired; to be sent again; its partner is withdrawn, which ends the
wait in CW_DEPARTED; or refused by routing, which is recorded under 06 R192 while the fragment goes on. -/
def State.halfAnswered (s : State) (id : Nat) (o : Op) (part : XPart) (d : Reg) (partner : Nat) (key : BitVec 16)
    (deadline : Nat) (p : Packet) : Option State :=
  if p.refused = 0 then
    (if s.tick < deadline && assignedTag p.tag then some (s.pairHalf id o p.entries p.tag) else none)
  else if p.cause = 0 then
    some (s.setOp id { o with kind := .exchange d { part with answered := true } partner key deadline })
  else if p.cause = 8 then
    match s.groups.look o.gid with
    | some g => some (s.setGroup o.gid { g with gone := if g.gone.contains partner then g.gone else partner :: g.gone })
    | none => some (s.discardHalf id o)
  else some ((s.refuse o part (part.slots.zip part.pkt.entries) (causeOf p.cause.toNat)).discardHalf id o)
/-- X_RESPONSE_ACCEPT. -/
def State.xResponse (s : State) (p : Packet) : Option State :=
  let core := p.score.toNat
  if p.sdev.toNat != s.dev.devnum || (p.tdev.toNat = s.dev.devnum && !s.net.contains p) || p.ptype != 8 ||
      (s.port p.strait.toNat).down then none
  else match (s.core core).reqs.find? (fun r => r.dev = p.tdev.toNat && r.slot = p.rslot.toNat && r.strait != notSent) with
    | none => none
    | some r =>
      match s.ops.look r.op with
      | none => none
      | some o =>
        let s1 := if p.tdev.toNat = s.dev.devnum then s.leaves p
          else (s.enters p.strait.toNat p.gen).settleSwitch p.strait.toNat
        match o.kind with
        | .remote _ _ parts =>
          match parts[r.pkt]? with
          | none => none
          | some part =>
            if packetAnswers p part then
              let s2 := ((s1.dropRequest core r).takeEntries o part p).xAcquired r.op o part
              match s2.ops.look r.op with
              | some o => some (s2.answered r.op o r.pkt)
              | none => some s2
            else none
        | .exchange d part partner key deadline => s1.halfAnswered r.op o part d partner key deadline p
        | _ => none

/-! ## The causeway (06 R193 to R196) -/

/-- The attached state of a group is cleared, which its peers learn. -/
def State.detach (s : State) (gid : Nat) : State :=
  match s.groups.look gid with
  | none => s
  | some g => if g.attached then (s.setGroup gid { g with attached := false }).tellGang g g.member false else s
/-- cwdet and cwleave. -/
def State.cwDetach (s : State) (fr : Frame) (i : Instr) (leave : Bool) : State :=
  if s.gangSize fr.g = 1 then s.trapAll fr .xpeer fr.act 0 0
  else match s.releaseAt fr.gid fr.wid fr.act 5 with
    | none => s.holdOn fr
    | some s =>
      let done : State → State := fun s =>
        match s.wave? fr.gid fr.wid with
        | some w => s.finish fr w i
        | none => s
      if !fr.g.attached then done (if leave then s.withdraw fr.gid else s)
      else
        let before := s.nextOp
        let s := s.detach fr.gid
        if s.ops.any fun e => e.2.gid = fr.gid && e.2.causeway then
          match s.wave? fr.gid fr.wid with
          | some w => s.waitOn fr w (.waiting (.detach before leave))
          | none => s
        else done (if leave then s.withdraw fr.gid else s)

/-- The cause of a cwxch, from the descriptors of F and the states of the members. DEDUCED (assumption log 70): a descriptor of
kind 0 names no member and raises XPEER. -/
def State.exchangeCause (s : State) (fr : Frame) (a : Reg) : Option Cause :=
  let x := fr.v.reg a.toNat fr.u
  if (slotsOf fr.act).any fun t => fr.v.reg a.toNat t != x then some .xpeer
  else if !descKind x || s.descBad fr.g false x || descMember x = fr.g.member then some .xpeer
  else if !fr.g.attached then some .cwDetached
  else if fr.g.gone.contains (descMember x) then some .cwDeparted
  else none
/-- cwxch: a half that waits for its partner's. DESIGN CHOICE (assumption log 112): its deadline and its place among the halves
of its direction and key count from when the release is made and the half leaves, not from the first try. -/
def State.exchange (s : State) (fr : Frame) (i : Instr) (d a b : Reg) : State :=
  match fr.look.first [(a, isInt)] with
  | some r => s.trapAll fr .tag fr.act r 0
  | none =>
    let x := fr.v.reg a.toNat fr.u
    match s.exchangeCause fr a with
    | some c => s.trapAll fr c fr.act 0 (x ++ 0#32)
    | none =>
      let part0 := s.makePart fr 6 ((slotsOf fr.act).map fun t => { slot := t, desc := x, off := 0, data := 0 })
      let key := (fr.v.reg b.toNat fr.u).extractLsb' 0 16
      match s.releaseAt fr.gid fr.wid fr.act 5, (s.core fr.g.core).freeSlot part0.pkt.tdev.toNat with
      | some s, some k =>
        let p := { part0.pkt with
          key := key, rslot := BitVec.ofNat 3 k, gen := s.dev.fabGen, base := 0, tag := fr.look.res d.toNat,
          entries := (slotsOf fr.act).map fun t =>
            { off := BitVec.ofNat 16 t, data := (fr.v.reg d.toNat t).setWidth 128, poison := false } }
        match s.routeOf fr.g.core p with
        | none => s.finish fr (fr.w.deferRemote .xpeer fr.act (x ++ 0#32)) i
        | some strait =>
          let id := s.nextOp
          let up := !(s.port strait).down
          let p := { p with strait := BitVec.ofNat 5 strait }
          let o : Op :=
            { gid := fr.gid, wave := fr.wid, ctx := fr.g.ctx, serial := fr.g.serial, core := fr.g.core, ctr := none,
              kind := .exchange d { part0 with pkt := p, answered := !up } (descMember x) key (s.tick + modeTmo fr.v.mode),
              accs := [], scope := modeScope fr.v.mode, promote := false, issued := s.tick, tmo := modeTmo fr.v.mode }
          let s := (s.pushOp o).onCore fr.g.core fun c => { c with
            reqs := c.reqs ++ [{ dev := p.tdev.toNat, slot := k, op := id, pkt := 0, strait := if up then strait else notSent }] }
          ((if up then s.inject strait p 0 else s).waitOn fr fr.w (.waiting (.exchange id))).pairFromTable fr.gid id o
      | _, _ => s.holdOn fr

/-- PAIR_TIMEOUT: the deadline has passed; the half is discarded and the cause raised. -/
def State.pairTimeout (s : State) (gid wid ent : Nat) : Option State :=
  match ({ s with cur := .wave gid wid ent } : State).frame? with
  | none => none
  | some fr => match fr.f.st with
    | .waiting (.exchange id) =>
      match s.ops.look id with
      | some o => match o.kind with
        | .exchange _ part _ _ deadline =>
          if fr.f.suspended || s.tick < deadline then none
          else some ((s.discardHalf id o).trap fr false fr.w
            { cause := .pairTimeout, mask := maskOf part.slots, addr := 0 })
        | _ => none
      | none => none
    | _ => none

/-- CWXCH_RETRY: a half refused for a full pairing table is sent again 2^10 ticks after it was last sent, under the tables of
now: a strait that is down lets it wait, tables without a route refuse it (13 R355, R360). -/
def State.retryHalf (s : State) (id : Nat) : Option State :=
  match s.ops.look id with
  | none => none
  | some o => match o.kind with
    | .exchange d part partner key deadline =>
      if !part.answered || s.tick < o.issued + 1024 || deadline ≤ s.tick || !s.mayGo o.core part.pkt then none
      else match (s.core o.core).reqs.find? (fun r => r.op = id), s.routeOf o.core part.pkt with
        | some r, some k =>
          let p := { part.pkt with gen := s.dev.fabGen, strait := BitVec.ofNat 5 k }
          let o := { o with issued := s.tick, kind := OpKind.exchange d { part with pkt := p, answered := false } partner key deadline }
          some (((s.setOp id o).onCore o.core fun c =>
            { c with reqs := c.reqs.map fun q => if q = r then { r with strait := k } else q }).inject k p 0)
        | some _, none => some ((s.refuse o part (part.slots.zip part.pkt.entries) .xpeer).discardHalf id o)
        | none, _ => none
    | _ => none

/-- CW_WITHDRAWAL_NOTICE: the group learns, within 2^10 ticks, that a member was withdrawn at tick `since`, or has only
detached or ended (06 R193). -/
def State.memberNotice (s : State) (gid m : Nat) (only : Bool) (since : Nat) : Option State :=
  match s.groups.look gid with
  | none => none
  | some g =>
    if m = g.member || s.gangSize g ≤ m || s.tick < since || (!only && since + 1024 < s.tick) then none
    else some ((s.setGroup gid { g with
      left := if g.left.contains m then g.left else m :: g.left,
      gone := if only || g.gone.contains m then g.gone else m :: g.gone }).releaseHeld)

/-- A half of another device's member that waits in a pairing table here is discarded there (06 R196): it leaves the
table (assumption log 48). -/
def State.halfNotice (s : State) (p : Packet) : Option State :=
  if p.sdev.toNat = s.dev.devnum then none
  else (s.cores.find? fun e => e.2.pairs.contains p).map fun e =>
    s.onCore e.1 fun c => { c with pairs := c.pairs.erase p }

/-! ## The instructions -/

/-- xld: Remote 4-byte load from another device or member (06 R191). -/
def execXld (hold : BitVec 2) (d : Reg) (a : Reg) (b : Reg) (s : State) : Out :=
  onCoreOnly (.xld hold d a b) s fun fr => s.xload fr (.xld hold d a b) d a b 4

/-- xld.q: Remote 16-byte load (06 R191). -/
def execXldQ (hold : BitVec 2) (d : Reg) (a : Reg) (b : Reg) (s : State) : Out :=
  onCoreOnly (.xldQ hold d a b) s fun fr => s.xload fr (.xldQ hold d a b) d a b 16

/-- xst: Remote 4-byte store (06 R191). -/
def execXst (hold : BitVec 2) (d : Reg) (a : Reg) (b : Reg) (s : State) : Out :=
  onCoreOnly (.xst hold d a b) s fun fr => s.xstore fr (.xst hold d a b) d a b 4

/-- xst.q: Remote 16-byte store (06 R191). -/
def execXstQ (hold : BitVec 2) (d : Reg) (a : Reg) (b : Reg) (s : State) : Out :=
  onCoreOnly (.xstQ hold d a b) s fun fr => s.xstore fr (.xstQ hold d a b) d a b 16

/-- xat: Remote atomic update selected by xop (06 R191). -/
def execXat (hold : BitVec 2) (d : Reg) (a : Reg) (b : Reg) (s : State) : Out :=
  onCoreOnly (.xat hold d a b) s fun fr => s.xatomic fr (.xat hold d a b) d a b

/-- xcas: Remote compare-and-swap (06 R191). -/
def execXcas (hold : BitVec 2) (d : Reg) (a : Reg) (b : Reg) (s : State) : Out :=
  onCoreOnly (.xcas hold d a b) s fun fr => s.xcompare fr (.xcas hold d a b) d a b

/-- cwdet: Detaches the group from the causeway after its accesses respond (06 R194). -/
def execCwdet (hold : BitVec 2) (s : State) : Out :=
  onCoreOnly (.cwdet hold) s fun fr => s.cwDetach fr (.cwdet hold) false

/-- cwleave: Detaches and withdraws the member's window (06 R195). -/
def execCwleave (hold : BitVec 2) (s : State) : Out :=
  onCoreOnly (.cwleave hold) s fun fr => s.cwDetach fr (.cwleave hold) true

/-- cwxch: Exchanges a register with a partner member as one operation (06 R196). -/
def execCwxch (hold : BitVec 2) (d : Reg) (a : Reg) (b : Reg) (s : State) : Out :=
  onCoreOnly (.cwxch hold d a b) s fun fr => s.exchange fr (.cwxch hold d a b) d a b

/-! ## The events -/

/-- X_PACKET_SEND (06 R190): the first packet of a core's request queue takes a request slot and is sent. Uses core.
-/
def execXPacketSend (s : State) : Out := onEvent (s.sendNext s.about.core)

/-- X_REQUEST_ARRIVAL (13 R356): a request packet arrives at this device. Uses pkt. -/
def execXRequestArrival (s : State) : Out := onEvent (s.about.pkt.bind s.xArrival)

/-- X_RESPONSE_ACCEPT (06 R192): a response packet is accepted at the requesting core. Uses pkt. -/
def execXResponseAccept (s : State) : Out := onEvent (s.about.pkt.bind s.xResponse)

/-- CWXCH_RETRY (13 R355): a cwxch refused for a full pairing table is sent again. Uses op. -/
def execCwxchRetry (s : State) : Out := onEvent (s.retryHalf s.about.op)

/-- CW_WITHDRAWAL_NOTICE (06 R193, R196): notice that member `member` of the gang of group `gid` was withdrawn, or that
the half `pkt` was discarded by the device that sent it. Uses gid, member, flag, value (the tick of the withdrawal); or
pkt. -/
def execCwWithdrawalNotice (s : State) : Out :=
  onEvent (match s.about.pkt with
    | some p => s.halfNotice p
    | none => s.memberNotice s.about.gid s.about.member s.about.flag s.about.value.toNat)

/-- PAIR_TIMEOUT (06 R196): the deadline of a cwxch passes. Uses gid, wave, ent. -/
def execPairTimeout (s : State) : Out := onEvent (s.pairTimeout s.about.gid s.about.wave s.about.ent)

end Sys2Proof.Machine
end

