-- ==== Sys2Proof/Machine/Near.lean ====
section
/-! DEFINITION. The near-memory engines: microprogram stores, bank launches, and the instructions of bank programs (08 R229
to R234, R238 to R245). -/

namespace Sys2Proof.Machine

/-! ## Operands of commands (08 R238) -/

/-- A cause raised on slot u by the value an operand holds. -/
def State.badName (s : State) (fr : Frame) (x : Word) : State := s.trapU fr .prot (x.setWidth 64)
/-- A command is held while its counter is full or its release has not been made. -/
def State.submit (s : State) (fr : Frame) (k : State → State) : State :=
  if fr.w.ctr.nm = 63 then s.holdFast fr else s.afterRelease fr (slotBit fr.u) k
/-- The cause of a record of n bytes at an address. -/
def State.recordCause (s : State) (fr : Frame) (va : DWord) (align n : Nat) (k : AccKind) : Option (Cause × DWord) :=
  if va.toNat % align != 0 then some (.align, va) else s.rangeCause (some fr.g.core) fr.g.ctx va n k fr.priv
/-- The bytes of a record that raises no cause. -/
def State.recordBytes (s : State) (fr : Frame) (va : DWord) (n : Nat) : List Byte :=
  s.readUnits (s.unitKeys (some fr.g.core) fr.g.ctx va n 16 .load fr.priv)
/-- A little-endian field of a record. -/
def field (h : List Byte) (o n : Nat) : Nat := numOf ((h.drop o).take n)
/-- The result of an instruction that acts once: F receives it, tagged U32. -/
def State.answer (s : State) (fr : Frame) (i : Instr) (d : Reg) (x : Nat) : State :=
  s.finish fr (fr.w.objectResult d fr.act (BitVec.ofNat 32 x)) i

/-! ## Microprogram stores (08 R239 to R242) -/

/-- A program runs on the engine. -/
def Engine.running (g : Engine) : Bool := g.prog.isSome
/-- nmld. -/
def State.nmldAt (s : State) (fr : Frame) (i : Instr) (d a : Reg) : State :=
  match fr.look.first ([(d, isInt)] ++ pairCheck a) with
  | some r => s.trapAll fr .tag fr.act r 0
  | none =>
    let x := fr.v.reg d.toNat fr.u
    let va := fr.v.pair a.toNat fr.u
    let e := (x.extractLsb' 0 10).toNat
    let bank := (x.extractLsb' 10 1).toNat
    let n := (x.extractLsb' 11 9).toNat + 1
    let first := (x.extractLsb' 20 9).toNat
    let bad : Option (Cause × DWord) :=
      if x.extractLsb' 29 3 != 0 || 512 < first + n then some (.prot, x.setWidth 64) else none
    match copyFirst (bad.toList ++ (s.recordCause fr va 4 (4 * n) .load).toList) with
    | some c => s.trapU fr c.1 c.2
    | none =>
      let g := s.engine e
      if g.active = bank && g.running then
        (s.setEngine e { g with busywr := true }).trapU fr .nmstore 0
      else s.submit fr fun s =>
        let keys := s.unitKeys (some fr.g.core) fr.g.ctx va (4 * n) 4 .load fr.priv
        ((s.noteAccess fr (linesIn va (4 * n)) .load 0).pushOp
          (s.engineOp fr .nm (.program e bank first keys) (pageNats va (4 * n)))).finish fr (fr.w.count .nm) i
/-- NMLD_COMPLETE: the words are written. -/
def State.nmldComplete (s : State) (id : Nat) : Option State :=
  match s.ops.look id with
  | none => none
  | some o => match o.kind with
    | .program e bank first keys =>
      if s.cellsFree keys then
        let g := s.engine e
        let store := if o.void then g.store else (keys.zipIdx).foldl (fun (t : Tab Word) x =>
          Tab.write 0 t (512 * bank + first + x.2)
            (if s.poisoned x.1 then Config.poisonedWord x.1 else BitVec.ofNat 32 (s.num x.1 4))) g.store
        some ((s.setEngine e { g with store := store }).endOp id o)
      else none
    | _ => none
/-- nmsw. -/
def State.nmswAt (s : State) (fr : Frame) (i : Instr) (d a : Reg) : State :=
  match fr.look.first [(a, isInt)] with
  | some r => s.trapAll fr .tag fr.act r 0
  | none =>
    let x := fr.v.reg a.toNat fr.u
    let e := (x.extractLsb' 0 10).toNat
    let bank := (x.extractLsb' 10 1).toNat
    let g := s.engine e
    if x.extractLsb' 11 21 != 0 then s.badName fr x
    else if g.running then (s.setEngine e { g with busywr := true }).answer fr i d 0
    else if s.loading e s.nextOp then s.waitOn fr fr.w (.waiting (.switch d e bank s.nextOp))
    else (s.setEngine e { g with active := bank }).answer fr i d 1
/-- The status word of an engine (08 R242). -/
def Engine.status (g : Engine) : Nat :=
  (if g.running then 1 else 0) + g.active % 2 * 2 +
    (match g.prog with
      | some p => if p.allBank then 4 else 0
      | none => 0) + (if g.busywr then 8 else 0) + g.queue.length % 32 * 16 + g.code.toNat * 2 ^ 9 + g.endPc % 512 * 2 ^ 17
/-- nmst. -/
def State.nmstAt (s : State) (fr : Frame) (i : Instr) (d a b : Reg) : State :=
  match fr.look.first [(a, isInt), (b, isInt)] with
  | some r => s.trapAll fr .tag fr.act r 0
  | none =>
    let e := ((fr.v.reg a.toNat fr.u).extractLsb' 0 10).toNat
    let g := s.engine e
    let x := g.status
    (if (fr.v.reg b.toNat fr.u).getLsbD 0 then s.setEngine e { g with busywr := false } else s).answer fr i d x

/-! ## Bank launches (08 R243, R244) -/

/-- The fields of a launch record that must hold. -/
def launchRecBad (h : List Byte) : Bool :=
  field h 0 4 / 1024 != 0 || field h 4 4 / 512 != 0 || field h 0x20 4 / 16 != 0 || 65536 < field h 0x24 4 ||
    field h 0x3C 4 / 2 ^ 22 != 0
/-- The region a shape record names, as registered for an engine. -/
def State.launchRegion (s : State) (ctx e : Nat) (shape : List Byte) : Option Region :=
  let k := stackOfEngine e
  match s.regionAt (dieOfStack k) ctx (BitVec.ofNat 64 (shapeDouble shape 0x18)) with
  | some r =>
    if r.bytes = shapeDouble shape 0x20 && (r.kind = 1 || r.kind = 2) && r.stack = k && r.pch = e % 64 then some r else none
  | none => none
/-- The cause of the object of a submission (06 R184); 0 names none. -/
def State.objectCause (s : State) (fr : Frame) (va : DWord) : Option (Cause × DWord) :=
  if va = 0 then none
  else if va.toNat % 64 != 0 then some (.align, va)
  else match s.locate (some fr.g.core) fr.g.ctx va .atomic fr.priv with
    | .ok _ => none
    | .error c => some (c, va)
/-- A range lies in tier 0. -/
def State.inHbm (s : State) (fr : Frame) (va : DWord) (n : Nat) : Option (Cause × DWord) :=
  (pagesOf va n).findSome? fun p => match s.resolve (some fr.g.core) fr.g.ctx p .store fr.priv with
    | .ok r => if r.2.tier = 0 then none else some (.prot, p)
    | .error _ => none
/-- The checks of nmx on its blocks (08 R244 step 5). -/
def State.launchBlocks (s : State) (fr : Frame) (h : List Byte) : Option (Cause × DWord) :=
  let args := BitVec.ofNat 64 (field h 0x18 8)
  let result := BitVec.ofNat 64 (field h 0x28 8)
  let rows := field h 0x24 4
  let nargs := field h 0x20 4
  match if nargs = 0 then none else s.recordCause fr args 4 (512 * nargs) .load with
  | some c => some c
  | none => match if rows = 0 then none else s.recordCause fr result 512 (512 * rows) .store with
    | some c => some c
    | none => match if rows = 0 then none else s.inHbm fr result (512 * rows) with
      | some c => some c
      | none => s.objectCause fr (BitVec.ofNat 64 (field h 0x30 8))
/-- The pages of the object a submission names. -/
def objectNats (va : DWord) : List Nat := if va = 0 then [] else [va.toNat]
/-- nmx: its thread's accesses before it are released, then its records are read and checked. -/
def State.nmxAt (s : State) (fr : Frame) (i : Instr) (a : Reg) : State :=
  match fr.look.first (pairCheck a) with
  | some r => s.trapAll fr .tag fr.act r 0
  | none =>
    let va := fr.v.pair a.toNat fr.u
    match s.recordCause fr va 64 64 .load with
    | some c => s.trapU fr c.1 c.2
    | none => s.afterRelease fr (slotBit fr.u) fun s =>
      let h := s.recordBytes fr va 64
      let e := field h 0 4 % 1024
      let shapeVa := BitVec.ofNat 64 (field h 0x10 8)
      if launchRecBad h then s.trapU fr .prot va
      else match s.recordCause fr shapeVa 64 64 .load with
        | some c => s.trapU fr c.1 c.2
        | none => match s.launchRegion fr.g.ctx e (s.recordBytes fr shapeVa 64) with
          | none => s.trapU fr .prot shapeVa
          | some r =>
            if r.layout.toNat != field h 8 4 then s.trapU fr .layout 0
            else match s.launchBlocks fr h with
              | some c => s.trapU fr c.1 c.2
              | none =>
                if 16 ≤ (s.engine e).queue.length || fr.w.ctr.nm = 63 then s.holdFast fr
                else
                  let core := some fr.g.core
                  let args := BitVec.ofNat 64 (field h 0x18 8)
                  let result := BitVec.ofNat 64 (field h 0x28 8)
                  let n := 512 * field h 0x20 4
                  let m := 512 * field h 0x24 4
                  let l : BankLaunch :=
                    { ctx := fr.g.ctx, op := s.nextOp,
                      recKey := (s.unitKeys core fr.g.ctx va 64 64 .load fr.priv).headD 0,
                      start := field h 4 4, mode := BitVec.ofNat 32 (field h 0x0C 4), regVa := r.va,
                      rowBase := shapeWord (s.recordBytes fr shapeVa 64) 0x2C,
                      sid := shapeWord (s.recordBytes fr shapeVa 64) 0x28 / 1024 % 4, args := args,
                      argKeys := s.unitKeys core fr.g.ctx args n 4 .load fr.priv,
                      rowKeys := s.unitKeys core fr.g.ctx result m 128 .store fr.priv,
                      object := s.objectAt fr.g.ctx (BitVec.ofNat 64 (field h 0x30 8)) fr.priv,
                      budget := 1024 * field h 0x38 4 }
                  let vas := [va.toNat] ++ (if n = 0 then [] else pageNats args n) ++ (if m = 0 then [] else pageNats result m) ++
                    objectNats (BitVec.ofNat 64 (field h 0x30 8))
                  let s := s.noteRanges fr ([(va, 64, .load), (shapeVa, 64, .load), (args, n, .load), (result, m, .store)] ++
                    (objectNats (BitVec.ofNat 64 (field h 0x30 8))).map fun x => (BitVec.ofNat 64 x, 8, .atomic))
                  let s := s.pushOp (s.engineOp fr .nm (.bank e) vas)
                  let g := s.engine e
                  (s.setEngine e { g with queue := g.queue ++ [l] }).finish fr (fr.w.count .nm) i
/-- BANK_LAUNCH_START: the engine has no microprogram load under way. -/
def State.bankStart (s : State) (e : Nat) : Option State := if s.loading e s.nextOp then none else s.startBank e
/-- The program has used up its budget (08 R228). -/
def BankProg.spent (p : BankProg) : Bool := p.launch.budget != 0 && p.launch.budget ≤ p.count
/-- BANK_BUDGET_EXPIRY. -/
def State.bankBudget (s : State) (e : Nat) : Option State :=
  match (s.engine e).prog with
  | some p => if p.spent then some (s.endBank e 0x24) else none
  | none => none

/-! ## Instructions of bank programs (08 R229 to R233) -/

/-- An instruction that runs on bank engines alone. -/
def onBankOnly (i : Instr) (s : State) (k : Nat → BankProg → State) : Out :=
  onUnit i s (fun fr => s.trapAll fr .ill fr.act 0 0) k fun id _ _ => s.endWalker id 0x01
/-- The program goes on after a one-word instruction. -/
def State.bankOn (s : State) (e : Nat) (p : BankProg) : State := s.setProg e (p.advance 1)
/-- ball. -/
def BankProg.enterAll (p : BankProg) : BankProg := if p.allBank then p else { p with allBank := true, row := none }
/-- bsgl. -/
def BankProg.enterSingle (p : BankProg) (a : Reg) : BankProg :=
  { p with allBank := false, row := none, bank := ((p.uniform a).getD 0).toNat % 16 }
/-- The region of a program, its rows counted from the row base, in the layer of the sid, of the launch's shape record (08 R231;
12 R327). -/
def State.progRegion (s : State) (e : Nat) (p : BankProg) : Option Region :=
  (s.regionAt (dieOfStack (stackOfEngine e)) p.launch.ctx p.launch.regVa).map fun r =>
    { r with rowBase := p.launch.rowBase, sid := p.launch.sid }
/-- brow. -/
def State.openRow (s : State) (e : Nat) (p : BankProg) (a : Reg) : State :=
  match p.uniform a with
  | none => s.bankOn e p
  | some x => match s.progRegion e p with
    | none => s.endBank e 0x06
    | some r => if x.toNat < r.bytes / 16384 then s.bankOn e { p with row := some x.toNat } else s.endBank e 0x06
/-- The banks of the current mode. -/
def BankProg.banks (p : BankProg) : List Nat := if p.allBank then List.range 16 else [p.bank]
/-- A column command: its region, row and column, after their checks. -/
def State.onColumn (s : State) (e : Nat) (p : BankProg) (a : Reg) (k : Region → Nat → Nat → State) : State :=
  match p.uniform a with
  | none => s.bankOn e p
  | some c =>
    if 32 ≤ c.toNat then s.endBank e 0x06
    else match p.row, s.progRegion e p with
      | some x, some r => k r x c.toNat
      | _, _ => s.endBank e 0x20
/-- The offset in a region of byte y of a row of a bank (10 R286). -/
def regionOffset (bank row y : Nat) : Nat := 16384 * row + 1024 * bank + y
/-- bcolr. -/
def State.readColumn (s : State) (e : Nat) (p : BankProg) (d a : Reg) : State :=
  s.onColumn e p a fun r x c =>
    let bad := (p.banks.flatMap fun b => [(b, 0), (b, 16)]).find? fun u =>
      s.poisoned (BankProg.column r u.1 x c + u.2)
    match bad with
    | some u => s.endBankPoison e (r.va + BitVec.ofNat 64 (regionOffset u.1 x (32 * c + u.2)))
    | none =>
      let m := p.mask &&& lanesWhere fun l => p.banks.contains (l / 8)
      s.bankOn e ((p.writeLanes d.toNat m fun l =>
        BitVec.ofNat 32 (s.num (BankProg.column r (l / 8) x c + 4 * (l % 8)) 4)).setTag d.toNat (modeEtype p.launch.mode))
/-- bcolw: a unit whose four words are all written is written whole. A program of a terminated group writes nothing. -/
def State.writeColumn (s : State) (e : Nat) (p : BankProg) (d a : Reg) : State :=
  s.onColumn e p a fun r x c =>
    let s := if s.voided p.launch.op then s else (p.banks.flatMap fun b => [(b, 0), (b, 1)]).foldl (fun s u =>
      let lanes := (List.range 4).map fun j => 8 * u.1 + 4 * u.2 + j
      let key := BankProg.column r u.1 x c + 16 * u.2
      if lanes.all fun l => p.mask.getLsbD l then
        s.storeCell key (lanes.flatMap fun l => bytesOf (p.reg d.toNat l).toNat 4)
      else lanes.foldl (fun s l =>
        if p.mask.getLsbD l then s.storeCell (key + 4 * (l % 4)) (bytesOf (p.reg d.toNat l).toNat 4) else s) s) s
    s.bankOn e p
/-- bres. -/
def State.writeResult (s : State) (e : Nat) (p : BankProg) (d a : Reg) : State :=
  match p.uniform a with
  | none => s.bankOn e p
  | some x =>
    let keys := (p.launch.rowKeys.drop (4 * x.toNat)).take 4
    if p.launch.rowKeys.length / 4 ≤ x.toNat then s.endBank e 0x21
    else if keys.any fun k => !s.rowEmpty k then s.endBank e 0x22
    else if s.voided p.launch.op then s.bankOn e p
    else
      let s := (keys.zipIdx).foldl (fun s k =>
        s.store p.launch.ctx k.1 ((List.range 32).flatMap fun j =>
          let l := 32 * k.2 + j
          bytesOf (if p.mask.getLsbD l then (p.reg d.toNat l).toNat else 0) 4)) s
      (({ s with empty := keys.foldl (fun t k => Tab.del t (k / 128)) s.empty } : State).rowsFilled keys).bankOn e p
/-- ifm. -/
def State.maskIf (s : State) (e : Nat) (p : BankProg) (a : Reg) : State :=
  if 4 ≤ p.masks.length then s.endBank e 0x0F
  else
    let m := p.mask &&& lanesWhere fun l => p.reg a.toNat l != 0
    s.bankOn e { p with masks := (p.mask, m) :: p.masks, mask := m }
/-- elm and enm. -/
def State.maskEnd (s : State) (e : Nat) (p : BankProg) (keep : Bool) : State :=
  match p.masks with
  | [] => s.endBank e 0x0F
  | t :: r => s.bankOn e (if keep then { p with mask := t.1 &&& ~~~t.2 } else { p with mask := t.1, masks := r })

/-! ## The instructions -/

/-- nmld: Submits words to a bank engine's microprogram bank (08 R240). -/
def execNmld (hold : BitVec 2) (d : Reg) (a : Reg) (s : State) : Out :=
  onCoreOnly (.nmld hold d a) s fun fr => s.nmldAt fr (.nmld hold d a) d a

/-- nmsw: Switches a bank engine's active microprogram bank (08 R241). -/
def execNmsw (hold : BitVec 2) (d : Reg) (a : Reg) (s : State) : Out :=
  onCoreOnly (.nmsw hold d a) s fun fr => s.nmswAt fr (.nmsw hold d a) d a

/-- nmx: Checks a bank launch record and queues the launch (08 R244). -/
def execNmx (hold : BitVec 2) (a : Reg) (s : State) : Out :=
  onCoreOnly (.nmx hold a) s fun fr => s.nmxAt fr (.nmx hold a) a

/-- nmst: Reads a bank engine's status and optionally clears BUSYWR (08 R242). -/
def execNmst (hold : BitVec 2) (d : Reg) (a : Reg) (b : Reg) (s : State) : Out :=
  onCoreOnly (.nmst hold d a b) s fun fr => s.nmstAt fr (.nmst hold d a b) d a b

/-- ball: Enters all-bank mode (08 R230). -/
def execBall (s : State) : Out := onBankOnly .ball s fun e p => s.bankOn e p.enterAll

/-- bsgl: Selects one bank, enters single mode and closes the row (08 R230). -/
def execBsgl (hold : BitVec 2) (a : Reg) (s : State) : Out :=
  onBankOnly (.bsgl hold a) s fun e p => s.bankOn e (p.enterSingle a)

/-- brow: Opens a bank row in the banks of the current mode (08 R231). -/
def execBrow (hold : BitVec 2) (a : Reg) (s : State) : Out := onBankOnly (.brow hold a) s fun e p => s.openRow e p a

/-- bcolr: Reads a column word into lanes (08 R232). -/
def execBcolr (hold : BitVec 2) (d : Reg) (a : Reg) (s : State) : Out :=
  onBankOnly (.bcolr hold d a) s fun e p => s.readColumn e p d a

/-- bcolw: Writes lanes into a column word (08 R232). -/
def execBcolw (hold : BitVec 2) (d : Reg) (a : Reg) (s : State) : Out :=
  onBankOnly (.bcolw hold d a) s fun e p => s.writeColumn e p d a

/-- bres: Writes a result row and marks it full with a release (08 R233). -/
def execBres (hold : BitVec 2) (d : Reg) (a : Reg) (s : State) : Out :=
  onBankOnly (.bres hold d a) s fun e p => s.writeResult e p d a

/-- ifm: Pushes the mask stack and narrows the current mask (08 R229). -/
def execIfm (hold : BitVec 2) (a : Reg) (s : State) : Out := onBankOnly (.ifm hold a) s fun e p => s.maskIf e p a

/-- elm: Switches the current mask to the else lanes (08 R229). -/
def execElm (s : State) : Out := onBankOnly .elm s fun e p => s.maskEnd e p true

/-- enm: Restores the outer mask and pops (08 R229). -/
def execEnm (s : State) : Out := onBankOnly .enm s fun e p => s.maskEnd e p false

/-! ## The events -/

/-- NMLD_COMPLETE (08 R240): microprogram load `op` has written its words. Uses op. -/
def execNmldComplete (s : State) : Out := onEvent (s.nmldComplete s.about.op)

/-- BANK_LAUNCH_START (08 R245): bank engine `engine` starts its oldest queued launch. Uses engine. -/
def execBankLaunchStart (s : State) : Out := onEvent (s.bankStart s.about.engine)

/-- BANK_BUDGET_EXPIRY (08 R228): the program of bank engine `engine` has used up its budget. Uses engine. -/
def execBankBudgetExpiry (s : State) : Out := onEvent (s.bankBudget s.about.engine)

end Sys2Proof.Machine
end

