-- ==== Sys2Proof/Machine/Retrieval.lean ====
section
/-! DEFINITION. Indexes, searches, scans and walks, top-k lists, merges in base dies and in crucibles (02 R66, R67; 08 R235
to R237, R246 to R251; 12 R333 to R344, R347, R428; 13 R361, R362). -/

namespace Sys2Proof.Machine

/-! ## Distances (02 R66) -/

/-- One term of a distance, from the encodings of two elements. -/
def distTerm (kind : Nat) (f : Elem) (x y : Nat) : Val :=
  if kind = 2 then .fin false ((List.range f.bits).filter fun j => (x ^^^ y) / 2 ^ j % 2 = 1).length 0
  else if kind = 1 then ((f.read x).mul (f.read y)).val
  else
    let d := (exactSum false [f.read x, (f.read y).negate]).val
    (d.mul d).val
/-- The distance of two vectors of encoded elements. -/
def distance (kind : Nat) (f : Elem) (xs ys : List Nat) : Word :=
  let terms := (xs.zip ys).map fun p => distTerm kind f p.1 p.2
  let d := (List.range ((terms.length + 31) / 32)).foldl (fun d b => distBlock d ((terms.drop (32 * b)).take 32)) 0
  BitVec.ofNat 32 (if kind = 1 && !(Fmt.f32.read d).isNan then (if d < 2 ^ 31 then d + 2 ^ 31 else d - 2 ^ 31) else d)

/-! ## Indexes (12 R335 to R339) -/

/-- The element of an index. -/
def Index.elem (x : Index) : Elem := elemOr x.etype
/-- Bytes of a vector. -/
def Index.bytes (x : Index) : Nat := (x.dim * x.elem.bits + 7) / 8
/-- The stride of a vector. -/
def Index.stride (x : Index) : Nat := 32 * ((x.dim * x.elem.bits + 255) / 256)
/-- The cell key of byte o of an array of an index. -/
def arrayKey (die : Nat) (va : DWord) (frames : List Nat) (o : Nat) : Nat := framesKey die frames (va.toNat % 65536 + o)
/-- The first poisoned address among bytes that lie from an address on. -/
def State.firstBad (s : State) (va : DWord) (keys : List Nat) : Option DWord :=
  (keys.findIdx? s.poisoned).map fun j => va + BitVec.ofNat 64 j
/-- Bytes of an array read through its frames, and the first poisoned address among them. -/
def State.readArray (s : State) (die : Nat) (va : DWord) (frames : List Nat) (o n : Nat) : List Byte × Option DWord :=
  let keys := (List.range n).map fun j => arrayKey die va frames (o + j)
  (keys.map s.byte, s.firstBad (va + BitVec.ofNat 64 o) keys)
/-- The die of an index. -/
def Index.die (x : Index) : Nat := x.home / 4
/-- The metadata of a slot (12 R337): item, birth, death; and its first poisoned address. -/
def State.slotMeta (s : State) (x : Index) (t : Nat) : (DWord × Nat × Nat) × Option DWord :=
  let r := s.readArray x.die x.metaVa x.metaFrames (16 * t) 16
  ((BitVec.ofNat 64 (field r.1 0 8), field r.1 8 4, field r.1 12 4), r.2)
/-- The vector of a slot, and its first poisoned address. -/
def State.slotVector (s : State) (x : Index) (t : Nat) : List Nat × Option DWord :=
  let r := s.readArray x.die x.vectors x.vecFrames (x.stride * t) x.bytes
  ((unpackBits x.elem.bits r.1).take x.dim, r.2)
/-- The stack that holds a slot. -/
def Index.holder (x : Index) (t : Nat) : Nat :=
  4 * x.die + channelOf (arrayKey x.die x.vectors x.vecFrames (x.stride * t)) / 32
/-- An index of a context, by its descriptor. -/
def State.indexAt (s : State) (ctx : Nat) (va : DWord) : Option Index :=
  (s.die (vaDie va)).indexes.find? fun x => x.ctx = ctx && x.va = va
/-- An index replaced. -/
def State.setIndex (s : State) (x : Index) : State :=
  s.onDie (vaDie x.va) fun d => { d with indexes := d.indexes.map fun y => if y.ctx = x.ctx && y.va = x.va then x else y }
/-- Commands at work on an index. -/
def State.indexUsers (s : State) (ctx : Nat) (va : DWord) : List Command :=
  (s.commands.filter fun e => e.2.accepted && e.2.ctx = ctx && e.2.index = some va).map (·.2)
/-- The floor follows the running commands and never falls; a change is written back (12 R339). -/
def State.updateFloor (s : State) (ctx : Nat) (va : DWord) : State :=
  match s.indexAt ctx va with
  | none => s
  | some x =>
    let low := (s.indexUsers ctx va).foldl (fun m c => Nat.min m c.snapshot.toNat) x.published.toNat
    let f := Nat.max x.floor.toNat low
    if f = x.floor.toNat then s
    else (s.setIndex { x with floor := BitVec.ofNat 32 f }).store ctx (x.descKey + 4) (bytesOf f 4)

/-- The descriptor is malformed (12 R336). -/
def descriptorBad (h : List Byte) : Bool :=
  let t := h.getD 8 0
  let w := field h 8 4
  (field h 0x2C 4 != 0) || (h.drop 0x30).any (· != 0) || w / 1024 % 64 != 0 || field h 0x0C 4 / 4096 != 0 || w / 256 % 4 = 3 ||
    !(t = 0x21 || t = 0x22 || t = 0x30 || isB8 t) || w / 65536 < 1 || 4096 < w / 65536 || field h 0x28 4 = 0 ||
    field h 0x10 8 % 65536 != 0 || field h 0x18 8 % 65536 != 0 || field h 0x20 8 % 65536 != 0 ||
    ((field h 0x0C 4 % 256 = 0) != (field h 0x20 8 = 0))
/-- The index a descriptor describes, before its pages are resolved. -/
def indexOf (ctx : Nat) (va : DWord) (key : Nat) (h : List Byte) : Index :=
  let w := field h 8 4
  { ctx := ctx, va := va, descKey := key, etype := h.getD 8 0, kind := w / 256 % 4, dim := w / 65536,
    degree := field h 0x0C 4 % 256, home := field h 0x0C 4 / 256 % 16, slots := field h 0x28 4,
    vectors := BitVec.ofNat 64 (field h 0x10 8), vecFrames := [], metaVa := BitVec.ofNat 64 (field h 0x18 8),
    metaFrames := [], adj := BitVec.ofNat 64 (field h 0x20 8), adjFrames := [],
    published := BitVec.ofNat 32 (field h 0 4), floor := BitVec.ofNat 32 (field h 0 4) }
/-- A size rounded up to whole pages. -/
def wholePages (n : Nat) : Nat := (n + 65535) / 65536 * 65536
/-- Registration of an index: the state after it and the value d receives (08 R246; 12 R336). -/
def State.registerIndex (s : State) (ctx : Nat) (va : DWord) (key : Nat) (h : List Byte) : State × Nat :=
  let x := indexOf ctx va key h
  let parts := [(x.vectors, wholePages (x.slots * x.stride)), (x.metaVa, wholePages (16 * x.slots))] ++
    (if x.degree = 0 then [] else [(x.adj, wholePages (4 * (x.degree + 1) * x.slots))])
  let all := (va &&& ~~~0xFFFF#64, 65536) :: parts
  let pages := all.map fun p =>
    if vaDevice p.1 != s.dev.devnum || 4 ≤ vaDie p.1 || p.1.extractLsb' 48 4 != 0 then Pages.missing
    else s.pagesAt (vaDie p.1) ctx p.1 p.2
  let frames : Nat → List Nat := fun j => match pages.getD j .missing with
    | .ok f => f
    | _ => []
  if descriptorBad h then (s, 0x80000001)
  else if pages.any fun p => p = .missing then (s, 0x80000003)
  else if (pages.any fun p => p = .elsewhere) || (all.any fun p => vaDie p.1 != x.die) ||
      [1, 2, 3].any fun j => (frames j).any (s.movedFrame x.die) then (s, 0x80000002)
  else if ((s.registered x.die ctx).any fun r => parts.any fun p => r.1 < p.1.toNat + p.2 && p.1.toNat < r.1 + r.2) ||
      (s.indexAt ctx va).isSome || 8192 ≤ (s.die x.die).registrations then (s, 0x80000004)
  else
    let x := { x with vecFrames := frames 1, metaFrames := frames 2, adjFrames := if x.degree = 0 then [] else frames 3 }
    ((s.onDie x.die fun d => { d with indexes := d.indexes ++ [x] }).store ctx (key + 4) (bytesOf x.floor.toNat 4), 1)
/-- idxreg: its thread's accesses before it are performed, then the descriptor is read (assumption log 93); the statuses come
in the order of 10 R299. -/
def State.idxregAt (s : State) (fr : Frame) (i : Instr) (d a b : Reg) : State :=
  match fr.look.first (pairCheck a ++ [(b, isInt)]) with
  | some r => s.trapAll fr .tag fr.act r 0
  | none =>
    let va := fr.v.pair a.toNat fr.u
    match s.recordCause fr va 64 64 .store with
    | some c => s.trapU fr c.1 c.2
    | none => s.afterRelease fr (slotBit fr.u) fun s =>
      let s := s.noteRanges fr [(va, 64, .load)]
      let key := (s.unitKeys (some fr.g.core) fr.g.ctx va 64 64 .store fr.priv).headD 0
      if (fr.v.reg b.toNat fr.u).getLsbD 0 then
        if descriptorBad (s.bytes key 64) then s.answer fr i d 0x80000001
        else if (s.indexAt fr.g.ctx va).isNone then s.answer fr i d 0x80000004
        else if s.indexUsers fr.g.ctx va != [] then s.answer fr i d 0x80000005
        else (s.onDie (vaDie va) fun y => { y with
          indexes := y.indexes.filter fun x => !(x.ctx = fr.g.ctx && x.va = va) }).answer fr i d 1
      else
        let r := s.registerIndex fr.g.ctx va key (s.bytes key 64)
        r.1.answer fr i d r.2
/-- ivcommit (08 R248; 12 R339). -/
def State.ivcommitAt (s : State) (fr : Frame) (i : Instr) (d a : Reg) : State :=
  match fr.look.first (pairCheck a) with
  | some r => s.trapAll fr .tag fr.act r 0
  | none =>
    let va := fr.v.pair a.toNat fr.u
    match s.recordCause fr va 64 64 .store with
    | some c => s.trapU fr c.1 c.2
    | none =>
      match s.indexAt fr.g.ctx va with
      | none => s.trapU fr .prot va
      | some x => s.afterRelease fr (BitVec.allOnes 64) fun s =>
        let s := s.noteRanges fr [(va, 64, .store)]
        if x.published.toNat = 0xFFFFFFFE then s.answer fr i d 0xFFFFFFFF
        else
          let p := x.published + 1
          let f := if s.indexUsers fr.g.ctx va = [] then p else x.floor
          ((s.setIndex { x with published := p, floor := f }).store fr.g.ctx x.descKey
            (bytesOf p.toNat 4 ++ bytesOf f.toNat 4)).answer fr i d p.toNat

/-! ## Top-k lists (08 R249) -/

/-- An entry as it lies in a list. -/
def Item.bytes (x : Item) : List Byte := bytesOf x.dist.toNat 8 ++ bytesOf x.id.toNat 8
/-- The header's fields are within their limits; the device ignores the reserved ones (00 R8). -/
def listHeaderOk (h : List Byte) : Bool :=
  let n := field h 0 2
  let k := field h 2 2
  n ≤ 256 && n ≤ k && 1 ≤ k && k ≤ 256
/-- The entries of a list. -/
def listItems (h : List Byte) (n : Nat) : List Item :=
  (List.range n).map fun j =>
    { dist := BitVec.ofNat 32 (field h (16 + 16 * j) 4), id := BitVec.ofNat 64 (field h (24 + 16 * j) 8) }
/-- The entries strictly rise. -/
def rising : List Item → Bool
  | x :: y :: r => Item.before x y && rising (y :: r)
  | _ => true
/-- A valid list's entries. -/
def readList (h : List Byte) : Option (List Item) :=
  let n := field h 0 2
  let xs := listItems h n
  if listHeaderOk h && 16 + 16 * n ≤ h.length && rising xs then some xs else none
/-- Bytes of a list to be checked: its header alone where it is not good. -/
def listExtent (h : List Byte) : Nat := if listHeaderOk h then 16 + 16 * field h 0 2 else 16
/-- A list written to 16-byte units. -/
def State.writeList (s : State) (ctx : Nat) (keys : List Nat) (k status : Nat) (xs : List Item) : State :=
  s.putUnits ctx (keys.take (1 + xs.length))
    (bytesOf (xs.length + k * 65536) 4 ++ bytesOf status 4 ++ bytesOf 0 8 ++ xs.flatMap Item.bytes)
/-- tkmerge: its thread's accesses before it are released, then the headers are read and checked (08 R250; 09 R270). -/
def State.tkmergeAt (s : State) (fr : Frame) (i : Instr) (d a b : Reg) : State :=
  match fr.look.first (pairCheck d ++ pairCheck a ++ pairCheck b) with
  | some r => s.trapAll fr .tag fr.act r 0
  | none =>
    let dv := fr.v.pair d.toNat fr.u
    let av := fr.v.pair a.toNat fr.u
    let bv := fr.v.pair b.toNat fr.u
    match copyFirst ((s.recordCause fr dv 16 16 .store).toList ++ (s.recordCause fr av 16 16 .load).toList ++
        (s.recordCause fr bv 16 16 .load).toList) with
    | some c => s.trapU fr c.1 c.2
    | none => s.afterRelease fr (slotBit fr.u) fun s =>
      let hd := s.recordBytes fr dv 16
      let k := field hd 2 2
      let na := listExtent (s.recordBytes fr av 16)
      let nb := listExtent (s.recordBytes fr bv 16)
      if k < 1 || 256 < k || field hd 8 8 != 0 then s.trapU fr .prot dv
      else match copyFirst ((s.recordCause fr dv 16 (16 + 16 * k) .store).toList ++
          (s.recordCause fr av 16 na .load).toList ++ (s.recordCause fr bv 16 nb .load).toList) with
        | some c => s.trapU fr c.1 c.2
        | none => s.submit fr fun s =>
          let keys := fun va n => s.unitKeys (some fr.g.core) fr.g.ctx va n 16 .load fr.priv
          ((s.noteRanges fr [(av, na, .load), (bv, nb, .load), (dv, 16 + 16 * k, .store)]).pushOp (s.engineOp fr .nm (.merge (keys av na) (keys bv nb) (keys dv (16 + 16 * k)) k)
            (pageNats dv (16 + 16 * k) ++ pageNats av na ++ pageNats bv nb))).finish fr (fr.w.count .nm) i
/-- TKMERGE_COMPLETE. A poisoned input is invalid (assumption log 31). -/
def State.tkmergeComplete (s : State) (id : Nat) : Option State :=
  match s.ops.look id with
  | none => none
  | some o => match o.kind with
    | .merge ka kb kd k =>
      if s.cellsFree (ka ++ kb ++ kd) then
        let get : List Nat → Option (List Item) := fun ks => if ks.any s.poisoned then none else readList (s.readUnits ks)
        let x := get ka
        let y := get kb
        let out := smallest k (x.getD [] ++ y.getD [])
        some ((if o.void then s else s.writeList o.ctx kd k (if x.isNone || y.isNone then 2 else 0) out).endOp id o)
      else none
    | _ => none

/-! ## Merges in crucibles (08 R251; 13 R361, R362) -/

/-- A list leaves this device for its crucible (13 R361). -/
def State.sendList (s : State) (core : Nat) (l : MergeList) : State :=
  s.inject (l.mergeId.toNat % 32) (listPacket l s.dev.devnum core s.dev.fabGen) 0
/-- A list of this device has come to its crucible: its packet leaves the fabric. -/
def State.listLeaves (s : State) (core : Nat) (l : MergeList) : State :=
  match s.net.find? fun p => p = listPacket l s.dev.devnum core p.gen with
  | some p => s.leaves p
  | none => s
/-- xred: its thread's accesses before it are released, then the record and the list's header are read and checked. -/
def State.xredAt (s : State) (fr : Frame) (i : Instr) (a : Reg) : State :=
  match fr.look.first (pairCheck a) with
  | some r => s.trapAll fr .tag fr.act r 0
  | none =>
    let va := fr.v.pair a.toNat fr.u
    match s.recordCause fr va 64 64 .load with
    | some c => s.trapU fr c.1 c.2
    | none => s.afterRelease fr (slotBit fr.u) fun s =>
      let h := s.recordBytes fr va 64
      let lv := BitVec.ofNat 64 (field h 0 8)
      let root := BitVec.ofNat 64 (field h 0x10 8)
      let parts := field h 0x0C 2
      let k := field h 0x20 2
      if root.toNat % 16 != 0 then s.trapU fr .align root
      else if field h 0x0E 2 != 0 || field h 0x20 4 / 2 ^ 20 != 0 || (h.drop 0x24).any (· != 0) || parts < 1 || 512 < parts ||
          k < 1 || 256 < k then s.trapU fr .prot va
      else match s.recordCause fr lv 16 16 .load with
        | some c => s.trapU fr c.1 c.2
        | none =>
          let n := listExtent (s.recordBytes fr lv 16)
          match s.recordCause fr lv 16 n .load with
          | some c => s.trapU fr c.1 c.2
          | none => s.submit fr fun s =>
            let keys := s.unitKeys (some fr.g.core) fr.g.ctx lv n 16 .load fr.priv
            let items := if keys.any s.poisoned then none else readList (s.readUnits keys)
            let l : MergeList :=
              { mergeId := BitVec.ofNat 32 (field h 8 4), parts := parts, root := root,
                object := BitVec.ofNat 64 (field h 0x18 8), k := k, tmo := field h 0x20 4 / 65536 % 16, ctx := fr.g.ctx,
                items := items.getD [], valid := items.isSome, op := some s.nextOp }
            (((s.noteRanges fr [(va, 64, .load), (lv, n, .load)]).sendList fr.g.core l).pushOp (s.engineOp fr .nm (.reduce l) (pageNats lv n))).finish fr (fr.w.count .nm) i
/-- The list a merge has come to, and its status (13 R362). -/
def Merge.result (m : Merge) : List Item × Nat :=
  (if m.disagree then [] else smallest m.k m.items,
    if m.disagree then 3 else if m.invalid then 2 else if m.arrived < m.parts then 1 else 0)
/-- The units of a list as it is written. -/
def listUnits (k status : Nat) (xs : List Item) : List (BitVec 128) :=
  (0#64 ++ BitVec.ofNat 32 status ++ BitVec.ofNat 16 k ++ BitVec.ofNat 16 xs.length) :: xs.map fun x => x.id ++ 0#32 ++ x.dist
/-- A packet of a crucible to the root device: the merged list as a forwarded write at the root, or, with a phase, the
arrival at its object (13 R354, R362; assumption log 92). -/
def State.rootPacket (s : State) (m : Merge) (va : DWord) (arrival : Bool) (units : List (BitVec 128)) : Packet :=
  { ptype := 7, xop := 0, gen := s.dev.fabGen, kind := false, scope := 5, ctx := BitVec.ofNat 6 m.ctx,
    sdev := BitVec.ofNat 9 s.dev.devnum, score := 0x7FF, rslot := 0, desc := m.mergeId, tdev := BitVec.ofNat 9 (vaDevice va),
    tdie := BitVec.ofNat 3 (vaDie va), base := va, key := if arrival then 1 else 0,
    entries := units.map fun x => { off := 0, data := x, poison := false }, refused := 0, cause := 0, tag := 0,
    strait := BitVec.ofNat 5 (m.mergeId.toNat % 32), zeros := true }
/-- The result of a merge is written at its root and the root's object gets its arrival; for a root on another device both
leave the crucible as packets, the arrival once the write is taken, and neither where the phase read was refused (assumption log
92). A result for this device is lost while its port is down. -/
def State.writeMerge (s : State) (m : Merge) : State :=
  let r := m.result
  if vaDevice m.root != s.dev.devnum then
    match m.phase with
    | none => s
    | some ph => { s.enters (m.mergeId.toNat % 32) s.dev.fabGen with
        net := s.net ++ (s.rootPacket m m.root false (listUnits m.k r.2 r.1) ::
          if Config.remoteWrite s.progress then [s.rootPacket m m.object true [ph.setWidth 128]] else []) }
  else if (s.port (m.mergeId.toNat % 32)).down then s
  else
    let keys := s.unitKeys none m.ctx m.root (16 + 16 * m.k) 16 .store false
    let refused := (s.rangeCause none m.ctx m.root (16 + 16 * m.k) .store false).isSome || m.phase.isNone
    if refused then s.post m.ctx { workId := 0, addr := m.root, cause := 0x45, core := 0x7FF }
    else
      let s := s.writeList m.ctx keys m.k r.2 r.1
      match s.locate none m.ctx m.object .atomic false, m.phase with
      | .ok k, some ph => s.arrive m.ctx k ph.toNat 1 true
      | _, _ => s
/-- A merge ends: its result is sent, and its name is remembered. -/
def State.endMerge (s : State) (k : Nat) (m : Merge) : State :=
  let w := s.switch k
  (s.setSwitch k { w with merges := w.merges.filter fun x => !(x.mergeId = m.mergeId && x.root = m.root),
                          done := w.done ++ [(m.mergeId, m.root, s.tick)] }).writeMerge m
/-- A list taken into a merge. -/
def Merge.take (m : Merge) (l : MergeList) : Merge :=
  { m with disagree := m.disagree || l.k != m.k || l.parts != m.parts, invalid := m.invalid || !l.valid,
           items := if l.valid then m.items ++ l.items else m.items, arrived := m.arrived + 1 }
/-- The phase a crucible reads from the root's object; at a root on another device it is a free value (assumption log 92). -/
def State.mergePhase (s : State) (l : MergeList) : Option Word :=
  if vaDevice l.root != vaDevice l.object || l.object.toNat % 64 != 0 then none
  else if vaDevice l.object != s.dev.devnum then Config.remotePhase s.progress
  else match s.locate none l.ctx l.object .atomic false with
    | .ok k => some (BitVec.ofNat 32 (s.num (k + 0x20) 4))
    | .error _ => none
/-- A list reaches a crucible: the state after its acceptance, or none when it is refused for want of room. -/
def State.crucibleTake (s : State) (k : Nat) (l : MergeList) : Option State :=
  let w := s.switch k
  let same : Merge → Bool := fun m => m.mergeId = l.mergeId && m.root = l.root
  let put : Merge → State := fun m =>
    let m := m.take l
    if m.arrived = m.parts then s.endMerge k m
    else s.setSwitch k { w with merges := (w.merges.filter fun x => !same x) ++ [m] }
  match w.merges.find? same with
  | some m => some (put m)
  | none =>
    if w.done.any fun d => d.1 = l.mergeId && d.2.1 = l.root && s.tick < d.2.2 + 2 ^ 16 then some s
    else if 64 ≤ w.merges.length then none
    else some (put { mergeId := l.mergeId, root := l.root, object := l.object, ctx := l.ctx, k := l.k, parts := l.parts,
                     arrived := 0, disagree := false, invalid := false, phase := s.mergePhase l, items := [],
                     deadline := s.tick + 2 ^ (10 + l.tmo) })
/-- A list of this device's own operation at its crucible: accepted, or to be sent again. One that meets its link down is
lost, which ends its operation (13 R352; assumption log 92). -/
def State.ownList (s : State) (id : Nat) (o : Op) (k : Nat) (l : MergeList) : State :=
  let s := s.listLeaves o.core l
  if (s.port k).down then s.endOp id o
  else match s.crucibleTake k l with
    | some t => t.endOp id o
    | none => s.setOp id { o with issued := s.tick, promote := true }
/-- CRUCIBLE_LIST_ARRIVAL; another device's list comes with its generation `g`. -/
def State.crucibleArrival (s : State) (k : Nat) (l : MergeList) (g : Bool) : Option State :=
  if l.mergeId.toNat % 32 != k then none
  else match l.op with
    | none =>
      let s := (s.enters k g).settleSwitch k
      some ((s.crucibleTake k l).getD s)
    | some id => match s.ops.look id with
      | some o => if o.kind = .reduce l && !o.promote then some (s.ownList id o k l) else none
      | none => none
/-- CRUCIBLE_RETRY. -/
def State.crucibleRetry (s : State) (id : Nat) : Option State :=
  match s.ops.look id with
  | some o => match o.kind with
    | .reduce l => if o.promote && o.issued + 1024 ≤ s.tick then
        some ((s.sendList o.core l).ownList id o (l.mergeId.toNat % 32) l) else none
    | _ => none
  | none => none
/-- CRUCIBLE_MERGE_TIMEOUT. -/
def State.crucibleTimeout (s : State) (k j : Nat) : Option State :=
  match (s.switch k).merges[j]? with
  | some m => if m.deadline ≤ s.tick then some (s.endMerge k m) else none
  | none => none

/-! ## Commands (12 R340, R341, R428) -/

/-- srch, scan and walk: the command goes to its base die, and the fragment waits for the answer. -/
def State.commandAt (s : State) (fr : Frame) (a d : Reg) (want : Nat) : State :=
  match fr.look.first (pairCheck a) with
  | some r => s.trapAll fr .tag fr.act r 0
  | none =>
    let va := fr.v.pair a.toNat fr.u
    match s.recordCause fr va 128 128 .store with
    | some c => s.trapU fr c.1 c.2
    | none => s.submit fr fun s =>
      let key := (s.unitKeys (some fr.g.core) fr.g.ctx va 128 128 .store fr.priv).headD 0
      let h := s.bytes key 128
      let iv := BitVec.ofNat 64 (field h 8 8)
      let rv := BitVec.ofNat 64 (field h 0x30 8)
      let stack := if iv != 0 then
          (match s.indexAt fr.g.ctx iv with
            | some x => x.home
            | none => 4 * (vaDie iv % 4))
        else match s.regionAt (vaDie rv) fr.g.ctx rv with
          | some r => 4 * (vaDie rv % 4) + channelOf (framesKey (vaDie rv) r.frames 0) / 32
          | none => 4 * (vaDie rv % 4)
      let c : Command :=
        { ctx := fr.g.ctx, priv := fr.priv, want := want, answer := none, kind := want, topk := false, pop := 0, k := 0,
          index := none, region := none, die := stack / 4, stack := stack, query := [], queryBad := none, out := 0,
          outKeys := [], cmdKey := key, object := none, first := 0, limit := 0, recsz := 0, foff := 0, ftag := 0, opA := 0,
          opB := 0, cap := 0, budget := 0, image := [], imageVa := 0, imageBad := [], mode := 0, snapshot := 0, walkers := 0,
          accepted := false, heap := [], code := 0, ended := 0, ran := 0, poisonMet := false }
      let id := s.nextOp
      ((((s.noteRanges fr [(va, 128, .load)]).pushOp { s.engineOp fr .nm .search [va.toNat] with ctr := none }).setCommand id c).waitOn fr fr.w
        (.waiting (.command d id)))

/-- Bytes of a buffer that resolves to tier 0 or tier 1 of this device, and the cells they lie in. -/
def State.readBuffer (s : State) (ctx : Nat) (priv : Bool) (va : DWord) (n : Nat) : Option (List Byte × List Nat) :=
  let keys := (List.range n).map fun j => match s.resolve none ctx (va + BitVec.ofNat 64 j) .load priv with
    | .ok r => if r.2.tier < 2 then some r.1 else none
    | .error _ => none
  if keys.any (·.isNone) then none
  else some ((keys.map fun k => s.byte (k.getD 0)), keys.map fun k => k.getD 0)
/-- The units of an output buffer that resolves to tier 0 or tier 1. -/
def State.outBuffer (s : State) (ctx : Nat) (priv : Bool) (va : DWord) (n : Nat) : Option (List Nat) :=
  if va.toNat % 16 != 0 || (pagesOf va n).any fun p => match s.resolve none ctx p .store priv with
      | .ok r => 2 ≤ r.2.tier
      | .error _ => true then none
  else some (s.unitKeys none ctx va n 16 .store priv)
/-- A command, or why it is refused. -/
def ifOk {α : Type} (c : Bool) (x : Option α) : Option α := if c then x else none

/-- The part of a command that all kinds have: kind, index or region, stride and count, list or match buffer, object.
Reserved fields are ignored (00 R8; 12 R428). -/
def State.parseCommon (s : State) (c : Command) (h : List Byte) : Option (Command × Nat × Nat) :=
  let w0 := field h 0 4
  let kind := w0 % 4
  let topk := w0 / 4 % 2 = 1
  let iv := BitVec.ofNat 64 (field h 8 8)
  let rv := BitVec.ofNat 64 (field h 0x30 8)
  let k := field h 4 2
  let cap := field h 0x48 4
  let listed := kind != 1 || topk
  let shape : Option (Nat × Nat) :=
    if iv != 0 then (s.indexAt c.ctx iv).map fun x => (x.stride, x.slots)
    else if kind != 1 then none
    else match s.regionAt (vaDie rv) c.ctx rv with
      | some r =>
        let sz := field h 0x38 2
        ifOk (r.kind = 0 && 4 ≤ sz && sz ≤ 4096 && sz % 4 = 0) (some (sz, r.bytes / sz))
      | none => none
  let ov := BitVec.ofNat 64 (field h 0x20 8)
  let object := s.objectAt c.ctx ov c.priv
  match shape, s.outBuffer c.ctx c.priv (BitVec.ofNat 64 (field h 0x18 8)) (if listed then 16 + 16 * k else 16 * cap) with
  | some (stride, count), some out =>
    let limit := if field h 0x2C 4 = 0 then count else field h 0x2C 4
    ifOk (kind = c.want && !(topk && kind != 1) && (!listed || (1 ≤ k && k ≤ 256)) &&
        (listed || (1 ≤ cap && cap ≤ 2 ^ 24)) && (ov = 0 || (ov.toNat % 64 = 0 && object.isSome)) &&
        (kind = 2 || (field h 0x28 4 < limit && limit ≤ count)))
      (some ({ c with
        kind := kind, topk := topk, pop := w0 / 256 % 16, k := k, index := if iv = 0 then none else some iv,
        region := if iv = 0 then some rv else none, out := BitVec.ofNat 64 (field h 0x18 8), outKeys := out,
        object := object, first := field h 0x28 4, limit := limit, recsz := stride, foff := field h 0x38 4 / 65536 % 4096,
        ftag := h.getD 0x3C 0, opA := BitVec.ofNat 32 (field h 0x40 4), opB := BitVec.ofNat 32 (field h 0x44 4), cap := cap,
        snapshot := match s.indexAt c.ctx iv with
          | some x => if iv = 0 then 0 else x.published
          | none => 0 }, stride, count))
  | _, _ => none
/-- The words of a walker image. -/
def wordsOf (bs : List Byte) : List Word := (List.range (bs.length / 4)).map fun j => BitVec.ofNat 32 (field bs (4 * j) 4)
/-- A walker from its record (12 R343); none where the record refuses the command. -/
def walkerOf (cmd stack words : Nat) (h : List Byte) : Option Walker :=
  let tags := (List.range 12).map fun j => (j + 1, h.getD (0x30 + j) 0)
  let start := field h 0x3C 4
  ifOk ((tags.all fun t => assignedTag t.2) && start % 4 = 0 && start < 4 * words) (some
    { cmd := cmd, place := .running stack,
      regs := (List.range 12).filterMap fun j =>
        let x := BitVec.ofNat 32 (field h (4 * j) 4)
        if x = 0 then none else some (j + 1, x),
      tags := tags.filter fun t => t.2 != 0, flags := 0, pc := start })
/-- A walker's record as its base die reads it: the walker, and the record's first poisoned address, whose words are then
not looked at (08 R228; 12 R343). -/
def State.walkerRecord (s : State) (cmd stack words : Nat) (va : DWord) (h : List Byte) (keys : List Nat) :
    Option (Walker × Option DWord) :=
  match s.firstBad va keys with
  | some b => some ({ cmd := cmd, place := .running stack, regs := [], tags := [], flags := 0, pc := 0 }, some b)
  | none => (walkerOf cmd stack words h).map fun w => (w, none)
/-- A command as its base die reads it: with its walkers, or refused. -/
def State.parseCommand (s : State) (id : Nat) (c : Command) : Option (Command × List (Walker × Option DWord)) :=
  let h := s.bytes c.cmdKey 128
  match s.parseCommon c h with
  | none => none
  | some (c, stride, _) =>
    let query := match c.index.bind (s.indexAt c.ctx) with
      | some x => s.readBuffer c.ctx c.priv (BitVec.ofNat 64 (field h 0x10 8)) x.bytes
      | none => none
    if c.kind = 1 then
      ifOk (c.foff % 4 = 0 && c.foff + 4 ≤ stride && (c.ftag = 0x20 || (!c.topk && (c.ftag = 0x10 || c.ftag = 0x11))) &&
        (c.topk || c.pop ≤ 5)) (some (c, []))
    else match query with
      | none => none
      | some q =>
        let c := { c with query := q.1, queryBad := s.firstBad (BitVec.ofNat 64 (field h 0x10 8)) q.2 }
        if c.kind = 0 then some (c, [])
        else
          let words := field h 0x58 4 % 2048
          let n := field h 0x58 4 / 65536 % 128
          let iv := BitVec.ofNat 64 (field h 0x50 8)
          let wv := BitVec.ofNat 64 (field h 0x60 8)
          if words < 1 || 1024 < words || n < 1 || 64 < n || iv.toNat % 4 != 0 || wv.toNat % 64 != 0 then none
          else match s.readBuffer c.ctx c.priv iv (4 * words), s.readBuffer c.ctx c.priv wv (64 * n) with
            | some im, some rec' =>
              let ws := (List.range n).map fun j => s.walkerRecord id c.stack words (wv + BitVec.ofNat 64 (64 * j))
                ((rec'.1.drop (64 * j)).take 64) ((rec'.2.drop (64 * j)).take 64)
              ifOk (!ws.any (·.isNone)) (some ({ c with
                image := wordsOf im.1, imageVa := iv,
                imageBad := (List.range words).filter fun j => ((im.2.drop (4 * j)).take 4).any s.poisoned,
                budget := 1024 * field h 0x4C 4, mode := BitVec.ofNat 32 (field h 0x5C 4), walkers := n },
                ws.filterMap fun w => w))
            | _, _ => none

/-- The command uses a heap. -/
def Command.heaped (c : Command) : Bool := c.kind != 1 || c.topk
/-- The base die has room for a command (12 R341, R344). -/
def State.commandRoom (s : State) (c : Command) : Bool :=
  let on := (s.commands.filter fun e => e.2.accepted).map (·.2)
  (!c.heaped || (on.filter fun x => x.stack = c.stack && x.heaped).length < 1024) &&
    (c.kind != 1 || (on.filter fun x => x.die = c.die && x.kind = 1).length < 4) &&
    (c.kind != 2 || ((on.filter fun x => x.die = c.die && x.kind = 2).foldl (fun n x => n + x.walkers) c.walkers ≤ 8192))
/-- A walk whose mode word is refused ends every walker with MODE; else a poisoned record ends its walker (08 R224, R228). -/
def State.startWalkers (s : State) (id : Nat) (c : Command) (ws : List (Walker × Option DWord)) : State :=
  let s := (ws.zipIdx).foldl (fun s x => s.setWalker (64 * id + x.2) x.1.1) s
  if c.kind = 2 && engineModeBad 32 c.mode then
    (List.range ws.length).foldl (fun s j => s.endWalker (64 * id + j) 0x03) s
  else (ws.zipIdx).foldl (fun s x => match x.1.2 with
    | some va => s.endWalkerPoison (64 * id + x.2) va
    | none => s) s
/-- The lines of the buffers of an accepted command are requests of its base die (10 R301; assumption log 51): the query, the
image, the walkers' records, n bytes of output, and the object. -/
def State.noteBuffers (s : State) (c : Command) (n recs : Nat) : State :=
  let at' : Nat → DWord := fun o => BitVec.ofNat 64 (s.num (c.cmdKey + o) 8)
  [(at' 0x10, c.query.length, 0), (c.imageVa, 4 * c.image.length, 0), (at' 0x60, 64 * recs, 0), (c.out, n, 1),
    (at' 0x20, if c.object.isSome then 8 else 0, 2)].foldl (fun s e =>
      if e.2.1 = 0 then s else s.noteDie c.ctx (linesIn e.1 e.2.1) 0x7FF e.2.2 s.dev.devnum) s
/-- SEARCH_ACCEPT: the oldest command that waits at a base die is accepted, or refused. One whose wave has ended goes. -/
def State.searchAccept (s : State) (stack : Nat) : Option State :=
  match s.commands.find? (fun e => e.2.stack = stack && !e.2.accepted && e.2.answer.isNone) with
  | none => none
  | some (id, c0) =>
    let refuse := s.setCommand id { c0 with answer := some 0xFFFFFFFF }
    match if (s.stack stack).stopped then none else s.parseCommand id c0, s.ops.look id with
    | none, _ => some refuse
    | _, none => some refuse
    | some (c, ws), some o =>
      match s.wave? o.gid o.wave with
      | none => some { s with commands := s.commands.del id, ops := s.ops.del id }
      | some w =>
        if !s.commandRoom c || w.ctr.nm = 63 then none
        else
          let n := if c.heaped then 16 + 16 * c.k else 16 * c.cap
          let object := BitVec.ofNat 64 (s.num (c.cmdKey + 0x20) 8)
          let s := s.noteBuffers c n ws.length
          let s := s.setOp id { o with ctr := some .nm, accs := o.accs ++ pageAccs 0 (pageNats c.out n ++ objectNats object) }
          let s := (s.onWave o.gid o.wave fun w => w.count .nm).setCommand id
            { c with accepted := true, answer := some c.snapshot }
          some (s.startWalkers id c ws)

/-! ## Completion (12 R339, R341, R342) -/

/-- The end of a command: code and count, arrival, counter, and the floor of its index; one of a terminated group writes
nothing (11 R326). -/
def State.endCommand (s : State) (id : Nat) (c : Command) (code : Nat) (many : Bool) (count : Nat) : State :=
  let s := if s.voided id then s else
    (s.store c.ctx (c.cmdKey + 0x78) (bytesOf (code + (if many then 256 else 0)) 4 ++ bytesOf count 4)).arriveOn c.ctx c.object
  let s := { s with commands := match c.answer with
    | none => s.commands.del id
    | some _ => s.commands.put id { c with accepted := false } }
  let s := match s.ops.look id with
    | some o => if c.answer.isNone then s.endOp id o else (s.uncountOp id o)
    | none => s
  match c.index with
  | some va => s.updateFloor c.ctx va
  | none => s

/-- What a search has found: its heap, how many it compared, its matches, and the first poisoned address. -/
structure Found where
  heap : List Item
  count : Nat
  hits : List (DWord × Word)
  bad : Option DWord
  deriving DecidableEq, Repr

/-- A poisoned address is noted; the first stays. -/
def Found.poison (f : Found) (va : DWord) : Found := { f with bad := some (f.bad.getD va) }
/-- One slot of a srch. -/
def State.searchSlot (s : State) (c : Command) (x : Index) (f : Found) (t : Nat) : Found :=
  let m := s.slotMeta x t
  match m.2 with
  | some va => f.poison va
  | none =>
    if !(m.1.2.1 ≤ c.snapshot.toNat && c.snapshot.toNat < m.1.2.2) then f
    else
      let v := s.slotVector x t
      match c.queryBad, v.2 with
      | some va, _ => f.poison va
      | none, some va => f.poison va
      | none, none => { f with
        heap := heapInsert c.k f.heap
          { dist := distance x.kind x.elem ((unpackBits x.elem.bits c.query).take x.dim) v.1, id := m.1.1 },
        count := f.count + 1 }
/-- A field matches a predicate (12 R342). -/
def predHolds (c : Command) (x : Word) : Bool :=
  let e := elemOr c.ftag
  let v := e.read x.toNat
  let a := e.read c.opA.toNat
  let b := e.read c.opB.toNat
  match c.pop with
  | 0 => v.cmp a = some .eq
  | 1 => v.cmp a != some .eq
  | 2 => v.cmp a = some .lt
  | 3 => v.cmp a = some .lt || v.cmp a = some .eq
  | 4 => (a.cmp v = some .lt || a.cmp v = some .eq) && (v.cmp b = some .lt || v.cmp b = some .eq)
  | _ => x &&& c.opA = c.opB
/-- A field taken by a scan. -/
def Command.takeField (c : Command) (f : Found) (name : DWord) (x : Word) : Found :=
  if c.topk then { f with heap := heapInsert c.k f.heap { dist := x, id := name }, count := f.count + 1 }
  else if predHolds c x then { f with hits := f.hits ++ [(name, x)], count := f.count + 1 }
  else f
/-- One record of a scan. -/
def State.scanRecord (s : State) (c : Command) (f : Found) (t : Nat) : Found :=
  match c.index.bind (s.indexAt c.ctx), c.region.bind (s.regionAt c.die c.ctx) with
  | some x, _ =>
    let m := s.slotMeta x t
    match m.2 with
    | some va => f.poison va
    | none =>
      if !(m.1.2.1 ≤ c.snapshot.toNat && c.snapshot.toNat < m.1.2.2) then f
      else
        let r := s.readArray x.die x.vectors x.vecFrames (x.stride * t + c.foff) 4
        match r.2 with
        | some va => f.poison va
        | none => c.takeField f m.1.1 (BitVec.ofNat 32 (numOf r.1))
  | none, some r =>
    let y := s.readArray c.die r.va r.frames (c.recsz * t + c.foff) 4
    match y.2 with
    | some va => f.poison va
    | none => c.takeField f (BitVec.ofNat 64 t) (BitVec.ofNat 32 (numOf y.1))
  | none, none => f
/-- The records a command visits, in order; the query of a srch was read before them. -/
def State.found (s : State) (c : Command) : Found :=
  let start : Found := { heap := [], count := 0, hits := [], bad := if c.kind = 0 then c.queryBad else none }
  let ts := (List.range (c.limit - c.first)).map (c.first + ·)
  if c.kind = 0 then
    match c.index.bind (s.indexAt c.ctx) with
    | some x => ts.foldl (s.searchSlot c x) start
    | none => start
  else ts.foldl (s.scanRecord c) start
/-- SEARCH_COMPLETE. -/
def State.searchComplete (s : State) (id : Nat) : Option State :=
  match s.commands.look id with
  | none => none
  | some c =>
    if !c.accepted || c.kind = 2 then none
    else
      let f := s.found c
      let s := match f.bad with
        | some va => s.post c.ctx { workId := 0, addr := va, cause := 0x23, core := 0x7FF }
        | none => s
      let s := if s.voided id then s else if c.heaped then s.writeList c.ctx c.outKeys c.k (if f.bad.isSome then 1 else 0) f.heap
        else s.putUnits c.ctx (c.outKeys.take (Nat.min c.cap f.hits.length))
          ((f.hits.take c.cap).flatMap fun x => bytesOf x.1.toNat 8 ++ bytesOf x.2.toNat 8)
      some (s.endCommand id c (if f.bad.isSome then 0x23 else 0) (!c.heaped && c.cap < f.count) f.count)
/-- The walkers of a walk. -/
def State.walkersOf (s : State) (id : Nat) : List Nat := (s.walkers.filter fun e => e.2.cmd = id).map (·.1)
/-- WALK_COMPLETE. -/
def State.walkComplete (s : State) (id : Nat) : Option State :=
  match s.commands.look id with
  | none => none
  | some c =>
    if !c.accepted || c.kind != 2 || s.walkersOf id != [] then none
    else
      let s := if s.voided id then s else s.writeList c.ctx c.outKeys c.k (if c.poisonMet then 1 else 0) c.heap
      some (s.endCommand id c c.code.toNat false c.ended)
/-- The walk has used up its budget. -/
def Command.spent (c : Command) : Bool := c.budget != 0 && c.budget ≤ c.ran
/-- WALK_BUDGET_EXPIRY. -/
def State.walkBudget (s : State) (id : Nat) : Option State :=
  match s.commands.look id with
  | none => none
  | some c => if c.accepted && c.kind = 2 && c.spent && s.walkersOf id != [] then
      some ((s.walkersOf id).foldl (fun s w => s.endWalker w 0x24) s) else none
/-- FERRY_ARRIVAL. -/
def State.ferryArrival (s : State) (id : Nat) : Option State :=
  match s.walkers.look id with
  | none => none
  | some w => match w.place with
    | .ferried k => some (s.setWalker id { w with place := .running k })
    | .running _ => none
/-- CONTROLLER_STOP: every running command of the base die ends with ABORT; what waits there is refused (12 R347). The
count of an aborted srch or scan is 0 (assumption log 32). -/
def State.controllerStop (s : State) (stack : Nat) : Option State :=
  if (s.stack stack).stopped then none
  else
    let s := s.setStack stack { s.stack stack with stopped := true }
    some (s.commands.foldl (fun s e =>
      if e.2.stack != stack then s
      else if !e.2.accepted then
        (if e.2.answer.isNone then s.setCommand e.1 { e.2 with answer := some 0xFFFFFFFF } else s)
      else
        let s := { s with walkers := s.walkers.filter fun w => w.2.cmd != e.1 }
        s.endCommand e.1 e.2 0x25 false e.2.ended) s)

/-! ## Walker instructions (08 R235 to R237) -/

/-- An instruction that runs on walkers alone. -/
def onWalkerOnly (i : Instr) (s : State) (k : Nat → Walker → Command → State) : Out :=
  onUnit i s (fun fr => s.trapAll fr .ill fr.act 0 0) (fun e _ => s.endBank e 0x01) k
/-- The index of a walk and a slot of it, after the tag checks: TAG, or PROT for a slot outside. -/
def State.onSlot (s : State) (id : Nat) (w : Walker) (c : Command) (checks : List (Reg × (Byte → Bool))) (r : Reg)
    (k : Index → Nat → State) : State :=
  match (w.look c.mode).first checks with
  | some _ => s.endWalker id 0x02
  | none =>
    match c.index.bind (s.indexAt c.ctx) with
    | none => s.endWalker id 0x06
    | some x =>
      let t := (w.reg r.toNat).toNat
      if x.slots ≤ t then s.endWalker id 0x06 else k x t
/-- The walker goes on with a result. -/
def State.walkResult (s : State) (id : Nat) (w : Walker) (c : Command) (d : Reg) (x : Word) (tag : Byte) : State :=
  s.walkOn id ((w.setReg d.toNat x).setTag d.toNat tag) c 1
/-- dist. -/
def State.walkDist (s : State) (id : Nat) (w : Walker) (c : Command) (d a : Reg) : State :=
  s.onSlot id w c [(a, isInt)] a fun x t =>
    let v := s.slotVector x t
    match c.queryBad, v.2 with
    | some va, _ => s.endWalkerPoison id va
    | none, some va => s.endWalkerPoison id va
    | none, none => s.walkResult id w c d (distance x.kind x.elem ((unpackBits x.elem.bits c.query).take x.dim) v.1) 0x20
/-- vchk. -/
def State.walkVisible (s : State) (id : Nat) (w : Walker) (c : Command) (d a : Reg) : State :=
  s.onSlot id w c [(a, isInt)] a fun x t =>
    let m := s.slotMeta x t
    match m.2 with
    | some va => s.endWalkerPoison id va
    | none => s.walkResult id w c d (if m.1.2.1 ≤ c.snapshot.toNat && c.snapshot.toNat < m.1.2.2 then 1 else 0) 0x11
/-- adj. -/
def State.walkAdj (s : State) (id : Nat) (w : Walker) (c : Command) (d a b : Reg) : State :=
  s.onSlot id w c [(a, isInt), (b, isInt)] a fun x t =>
    if x.degree = 0 then s.walkResult id w c d 0xFFFFFFFF 0x11
    else
      let at' := 4 * (x.degree + 1) * t
      let n := s.readArray x.die x.adj x.adjFrames at' 4
      let j := (w.reg b.toNat).toNat
      match n.2 with
      | some va => s.endWalkerPoison id va
      | none =>
        if Nat.min (numOf n.1) x.degree ≤ j then s.walkResult id w c d 0xFFFFFFFF 0x11
        else
          let y := s.readArray x.die x.adj x.adjFrames (at' + 4 * (j + 1)) 4
          match y.2 with
          | some va => s.endWalkerPoison id va
          | none => s.walkResult id w c d (BitVec.ofNat 32 (numOf y.1)) 0x11
/-- heapi. -/
def State.walkHeap (s : State) (id : Nat) (w : Walker) (c : Command) (d a b : Reg) : State :=
  s.onSlot id w c [(a, isFlt), (b, isInt)] b fun x t =>
    let m := s.slotMeta x t
    match m.2 with
    | some va => s.endWalkerPoison id va
    | none =>
      let heap := heapInsert c.k c.heap { dist := w.reg a.toNat, id := m.1.1 }
      let worst := if c.k ≤ heap.length then (match heap.getLast? with
        | some e => e.dist
        | none => 0x7F800000) else 0x7F800000
      s.walkResult id w { c with heap := heap } d worst 0x20
/-- ferry: v1 to v12 and their tags travel, the other registers are lost. -/
def State.walkFerry (s : State) (id : Nat) (w : Walker) (c : Command) (a : Reg) : State :=
  s.onSlot id w c [(a, isInt)] a fun x t =>
    if w.place = .running (x.holder t) then s.walkOn id w c 1
    else s.walkOn id { w with place := .ferried (x.holder t), regs := w.regs.filter fun e => e.1 ≤ 12,
                              tags := w.tags.filter fun e => e.1 ≤ 12 } c 1

/-! ## The instructions -/

/-- idxreg: Registers or unregisters an index (08 R246). -/
def execIdxreg (hold : BitVec 2) (d : Reg) (a : Reg) (b : Reg) (s : State) : Out :=
  onCoreOnly (.idxreg hold d a b) s fun fr => s.idxregAt fr (.idxreg hold d a b) d a b

/-- srch: Submits a search command to the base die (08 R247). -/
def execSrch (hold : BitVec 2) (d : Reg) (a : Reg) (s : State) : Out :=
  onCoreOnly (.srch hold d a) s fun fr => s.commandAt fr a d 0

/-- scan: Submits a scan command to the base die (08 R247). -/
def execScan (hold : BitVec 2) (d : Reg) (a : Reg) (s : State) : Out :=
  onCoreOnly (.scan hold d a) s fun fr => s.commandAt fr a d 1

/-- walk: Submits a walk command to the base die (08 R247). -/
def execWalk (hold : BitVec 2) (d : Reg) (a : Reg) (s : State) : Out :=
  onCoreOnly (.walk hold d a) s fun fr => s.commandAt fr a d 2

/-- xred: Contributes a top-k list to a crucible merge (08 R251). -/
def execXred (hold : BitVec 2) (a : Reg) (s : State) : Out :=
  onCoreOnly (.xred hold a) s fun fr => s.xredAt fr (.xred hold a) a

/-- tkmerge: Checks and starts a merge of two top-k lists (08 R250). -/
def execTkmerge (hold : BitVec 2) (d : Reg) (a : Reg) (b : Reg) (s : State) : Out :=
  onCoreOnly (.tkmerge hold d a b) s fun fr => s.tkmergeAt fr (.tkmerge hold d a b) d a b

/-- ivcommit: Commits an index, incrementing its published version (08 R248). -/
def execIvcommit (hold : BitVec 2) (d : Reg) (a : Reg) (s : State) : Out :=
  onCoreOnly (.ivcommit hold d a) s fun fr => s.ivcommitAt fr (.ivcommit hold d a) d a

/-- dist: Computes the distance between the query and a slot's vector (08 R235). -/
def execDist (hold : BitVec 2) (d : Reg) (a : Reg) (s : State) : Out :=
  onWalkerOnly (.dist hold d a) s fun id w c => s.walkDist id w c d a

/-- heapi: Inserts an entry into the walk's heap (08 R236). -/
def execHeapi (hold : BitVec 2) (d : Reg) (a : Reg) (b : Reg) (s : State) : Out :=
  onWalkerOnly (.heapi hold d a b) s fun id w c => s.walkHeap id w c d a b

/-- adj: Reads a neighbour slot of a slot (08 R235). -/
def execAdj (hold : BitVec 2) (d : Reg) (a : Reg) (b : Reg) (s : State) : Out :=
  onWalkerOnly (.adj hold d a b) s fun id w c => s.walkAdj id w c d a b

/-- ferry: Moves the walker to the stack holding a slot (08 R237). -/
def execFerry (hold : BitVec 2) (a : Reg) (s : State) : Out :=
  onWalkerOnly (.ferry hold a) s fun id w c => s.walkFerry id w c a

/-- vchk: Tests a slot's visibility at the walk's snapshot (08 R235). -/
def execVchk (hold : BitVec 2) (d : Reg) (a : Reg) (s : State) : Out :=
  onWalkerOnly (.vchk hold d a) s fun id w c => s.walkVisible id w c d a

/-! ## The events -/

/-- SEARCH_ACCEPT (12 R341): the oldest command waiting at a base die is accepted. Uses stack. -/
def execSearchAccept (s : State) : Out := onEvent (s.searchAccept s.about.stack)

/-- SEARCH_COMPLETE (12 R342): srch or scan `op` completes. Uses op. -/
def execSearchComplete (s : State) : Out := onEvent (s.searchComplete s.about.op)

/-- WALK_COMPLETE (12 R343): walk `op` completes. Uses op. -/
def execWalkComplete (s : State) : Out := onEvent (s.walkComplete s.about.op)

/-- WALK_BUDGET_EXPIRY (12 R343): walk `op` has used up its budget. Uses op. -/
def execWalkBudgetExpiry (s : State) : Out := onEvent (s.walkBudget s.about.op)

/-- FERRY_ARRIVAL (12 R344): the ferry message of walker `op` arrives. Uses op. -/
def execFerryArrival (s : State) : Out := onEvent (s.ferryArrival s.about.op)

/-- TKMERGE_COMPLETE (08 R250): top-k merge `op` completes. Uses op. -/
def execTkmergeComplete (s : State) : Out := onEvent (s.tkmergeComplete s.about.op)

/-- CONTROLLER_STOP (12 R347): the control processor of a base die stops. Uses stack. -/
def execControllerStop (s : State) : Out := onEvent (s.controllerStop s.about.stack)

/-- CRUCIBLE_LIST_ARRIVAL (13 R361): a list reaches the crucible of a strait switch. Uses switch, list, flag (the generation of
another device's packet). -/
def execCrucibleListArrival (s : State) : Out :=
  onEvent (s.about.list.bind fun l => s.crucibleArrival s.about.switch l s.about.flag)

/-- CRUCIBLE_MERGE_TIMEOUT (13 R362): the time-out of a crucible's merge expires. Uses switch, index. -/
def execCrucibleMergeTimeout (s : State) : Out := onEvent (s.crucibleTimeout s.about.switch s.about.index)

/-- CRUCIBLE_RETRY (13 R361): a list refused by a full crucible is sent again. Uses op. -/
def execCrucibleRetry (s : State) : Out := onEvent (s.crucibleRetry s.about.op)

end Sys2Proof.Machine
end

