-- ==== Sys2Proof/Machine/Launch.lean ====
section
/-! DEFINITION. Launches and task queues: headers and job cards, acceptance, eligibility, completion, the task-queue, launch
and event instructions, and the host's doorbells (08 R252 to R254; 11 R303 to R309, R313; 12 R345, R346). -/

namespace Sys2Proof.Machine

/-! ## Headers and cards (11 R303 to R305, R313) -/

/-- A launch header from its 128 bytes. -/
def headerOf (h : List Byte) : Header :=
  let a := field h 0x10 4
  let b := field h 0x14 4
  let c := field h 0x18 4
  let d := field h 0x1C 4
  { entry := BitVec.ofNat 64 (field h 0 8), args := BitVec.ofNat 64 (field h 8 8), regs := a % 256, sreg := bitsOf a 11 8,
    sscr := bitsOf a 15 12, scr := bitsOf a 23 16, tiles := bitsOf a 24 24 = 1, prio := bitsOf a 26 25,
    w := [bitsOf b 3 0, bitsOf b 8 4, bitsOf b 14 9, bitsOf b 20 15, bitsOf b 26 21, bitsOf c 5 0],
    gm := bitsOf c 31 16, gdev := bitsOf d 8 0, gstr := bitsOf d 17 9, count := field h 0x20 8, gid := field h 0x28 4,
    tmo := field h 0x2C 4, isles := bitsOf (field h 0x30 8) 47 0, cores := bitsOf (field h 0x38 8) 23 0,
    wait := BitVec.ofNat 256 (field h 0x40 32), set := BitVec.ofNat 256 (field h 0x60 32),
    reserved := bitsOf a 31 27 != 0 || bitsOf b 31 27 != 0 || bitsOf c 15 6 != 0 || bitsOf d 31 18 != 0 ||
      bitsOf (field h 0x30 8) 63 48 != 0 || bitsOf (field h 0x38 8) 63 24 != 0 }

/-- The width of a field of the work identifier. -/
def Header.width (h : Header) (i : Nat) : Nat := h.w.getD i 0
/-- The bits fields 2 to 5 have together. -/
def Header.unitBits (h : Header) : Nat := h.width 2 + h.width 3 + h.width 4 + h.width 5
/-- The units N of a launch (11 R303, R304). -/
def Header.units (h : Header) : Nat := if h.count = 0 then 2 ^ h.unitBits else h.count
/-- The waves of a group (01 R12). -/
def Header.waves (h : Header) : Nat := 2 ^ (h.width 0 - 6)
/-- The launch has gangs. -/
def Header.ganged (h : Header) : Bool := h.width 1 != 0
/-- The members a device runs: its one group where the launch has no gangs. -/
def Header.members (h : Header) (dev : Nat) : List Nat :=
  if h.ganged then (List.range (h.gm + 1)).filter fun m => h.memberDevice m = dev else [0]
/-- A core is in the launch's mask (11 R303). -/
def Header.admits (h : Header) (core : Nat) : Bool :=
  (h.isles = 0 || h.isles.testBit (core / 24)) && (h.cores = 0 || h.cores.testBit (core % 24))
/-- The bits set in a number below 2^n. -/
def bitCount (n x : Nat) : Nat := ((List.range n).filter fun j => x.testBit j).length
/-- How many cores the mask admits. -/
def Header.coreCount (h : Header) : Nat :=
  (if h.isles = 0 then 48 else bitCount 48 h.isles) * (if h.cores = 0 then 24 else bitCount 24 h.cores)

/-- 01 R11. -/
def Header.widthsBad (h : Header) : Bool :=
  h.width 0 < 6 || 10 < h.width 0 || 16 < h.width 1 || ([2, 3, 4, 5].any fun i => 32 < h.width i) ||
    64 < h.width 0 + h.width 1 + h.unitBits
/-- 11 R305. -/
def Header.malformed (h : Header) : Bool :=
  h.reserved || h.entry.toNat % 4 != 0 || h.widthsBad || h.regs < 8 || 128 < h.regs || h.regs % 8 != 0 || h.sreg < 2 ||
    12 < h.sreg || 12 < h.sscr || 192 < h.scr || 15 < h.sreg + h.sscr || h.sscr * 16 < h.scr ||
    h.sreg * 65536 < h.regs * 256 * h.waves || 2 ^ h.unitBits < h.units ||
    (h.width 1 = 0 && (h.gm != 0 || h.gdev != 0 || h.gstr != 0)) ||
    (h.width 1 != 0 && (h.gm = 0 || 2 ^ h.width 1 < h.gm + 1)) || 511 < h.memberDevice h.gm || (h.tiles && h.width 1 != 0)

/-- A job card's own fields break their limits (11 R313). Misaligned records and headers are malformed (assumption
log 33). -/
def cardBad (c : List Byte) : Bool :=
  field c 0x18 4 / 2 ^ 24 != 0 || field c 0x1C 4 / 2 ^ 16 != 0 || field c 0x20 32 != 0 || field c 0x18 3 = 0 ||
    field c 0x1C 2 < 16 || 4096 < field c 0x1C 2 || field c 0x1C 2 % 16 != 0 || field c 0x10 8 % 16 != 0 ||
    field c 8 8 % 128 != 0
/-- The card of its 64 bytes. -/
def cardOf (c : List Byte) : Card :=
  { recs := BitVec.ofNat 64 (field c 0x10 8), count := field c 0x18 3, stride := field c 0x1C 2 }
/-- A card's launch header: the entry is the card's, args and count are ignored (11 R313). -/
def cardHeader (c : List Byte) (h : Header) : Header :=
  { h with entry := BitVec.ofNat 64 (field c 0 8), args := 0, count := 0 }
/-- The units of a launch: records for a card. -/
def Launch.units (l : Launch) : Nat :=
  match l.card with
  | some c => c.count
  | none => l.hdr.units

/-- How many groups of the launch an empty core holds (01 R46; 07 R198). -/
def Header.perCore (h : Header) : Nat :=
  let n := Nat.min (16 / h.waves) (h.sreg * 65536 / (h.regs * 256 * h.waves))
  let n := if h.scr = 0 then n else Nat.min n (h.sscr * 16 / h.scr)
  if h.tiles then Nat.min n 1 else n

/-! ## Eligibility (11 R308) -/

/-- The wait bits of a launch hold. -/
def Launch.ripe (e : BitVec 256) (l : Launch) : Bool := e &&& l.hdr.wait = l.hdr.wait
/-- The event vector of a context is updated; eligibility is tested again and latched. -/
def Context.update (c : Context) (f : BitVec 256 → BitVec 256) : Context :=
  { c with events := f c.events,
           launches := c.launches.map fun (x : Nat × Launch) =>
             (x.1, { x.2 with eligible := x.2.eligible || x.2.ripe (f c.events) }) }
/-- The event vector of a context changes. -/
def State.setEvents (s : State) (ctx : Nat) (f : BitVec 256 → BitVec 256) : State :=
  s.onContext ctx fun c => c.update f

/-! ## Acceptance (11 R307) -/

/-- A launch as it enters its queue. -/
def newLaunch (h : Header) (va : DWord) (card : Option Card) (e : BitVec 256) : Launch :=
  let l : Launch := { hdr := h, va := va, card := card, eligible := false, next := 0, chunks := [], first := none,
                      ended := false, ready := [], plan := none, blocked := none }
  { l with eligible := l.ripe e }
/-- The result of an enqueue that is not refused for its context or its bytes: the reasons in the order of 11 R307. -/
def State.accept (s : State) (ctx : Nat) (h : Header) (va : DWord) (card : Option Card) : State × Nat :=
  let mine := (h.members s.dev.devnum).length
  let c := s.context ctx
  if h.ganged && mine = 0 then (s, 0x80000005)
  else if h.perCore * h.coreCount < (if h.ganged then mine else 1) then (s, 0x80000002)
  else if 64 ≤ c.launches.length then (s, 0x80000003)
  else
    (({ s with nextSerial := s.nextSerial + 1 } : State).setContext ctx
      { c with launches := c.launches.put s.nextSerial (newLaunch h va card c.events),
               lastPlaced := some (c.lastPlaced.getD s.tick) }, 1)
/-- The context takes no launch: it is not enabled or is stopped. -/
def State.closed (s : State) (ctx : Nat) : Bool := !(s.context ctx).en || (s.context ctx).stop
/-- A header is enqueued from its bytes; poisoned bytes are malformed (assumption log 33). -/
def State.enqueueHeader (s : State) (ctx : Nat) (va : DWord) (h : List Byte) (bad : Bool) : State × Nat :=
  if s.closed ctx then (s, 0x80000004)
  else if bad || (headerOf h).malformed then (s, 0x80000001)
  else s.accept ctx (headerOf h) va none
/-- A card is enqueued from its bytes and those of its header. -/
def State.enqueueCard (s : State) (ctx : Nat) (va : DWord) (c h : List Byte) (bad : Bool) : State × Nat :=
  let hd := cardHeader c (headerOf h)
  if s.closed ctx then (s, 0x80000004)
  else if bad || cardBad c || hd.malformed || hd.ganged || 2 ^ hd.unitBits < (cardOf c).count then (s, 0x80000001)
  else s.accept ctx hd va (some (cardOf c))

/-- Bytes of a range of a context, with whether one is poisoned; none where some page cannot be read. -/
def State.readVa (s : State) (ctx : Nat) (va : DWord) (n : Nat) : Option (List Byte × Bool) :=
  match s.rangeCause none ctx va n .load true with
  | some _ => none
  | none =>
    let keys := s.unitKeys none ctx va n 16 .load true
    some (s.readUnits keys, keys.any s.poisoned)

/-! ## The instructions launch and jcard (08 R253) -/

/-- A record a core names can be read: its bytes, and whether one is poisoned. -/
def State.recordRead (s : State) (fr : Frame) (va : DWord) (n : Nat) : List Byte × Bool :=
  (s.recordBytes fr va n, (s.unitKeys (some fr.g.core) fr.g.ctx va n 16 .load fr.priv).any s.poisoned)
/-- The answer of the launch queue. -/
def State.enqueued (fr : Frame) (i : Instr) (d : Reg) (r : State × Nat) : State := r.1.answer fr i d r.2
/-- launch: a release at device scope, then the header is read. -/
def State.launchAt (s : State) (fr : Frame) (i : Instr) (d a : Reg) : State :=
  match fr.look.first (pairCheck a) with
  | some r => s.trapAll fr .tag fr.act r 0
  | none =>
    let va := fr.v.pair a.toNat fr.u
    match s.recordCause fr va 128 128 .load with
    | some c => s.trapU fr c.1 c.2
    | none => s.afterRelease fr (BitVec.allOnes 64) fun s =>
      let r := s.recordRead fr va 128
      State.enqueued fr i d ((s.noteRanges fr [(va, 128, .load)]).enqueueHeader fr.g.ctx va r.1 r.2)
/-- jcard: a release at device scope, then the card is read; the header it names is a record of its own, read once the card
is good (assumption log 33). -/
def State.jcardAt (s : State) (fr : Frame) (i : Instr) (d a : Reg) : State :=
  match fr.look.first (pairCheck a) with
  | some r => s.trapAll fr .tag fr.act r 0
  | none =>
    let va := fr.v.pair a.toNat fr.u
    match s.recordCause fr va 64 64 .load with
    | some c => s.trapU fr c.1 c.2
    | none => s.afterRelease fr (BitVec.allOnes 64) fun s =>
      let s := s.noteRanges fr [(va, 64, .load)]
      let c := s.recordRead fr va 64
      let hva := BitVec.ofNat 64 (field c.1 8 8)
      if c.2 || cardBad c.1 then State.enqueued fr i d (s, if s.closed fr.g.ctx then 0x80000004 else 0x80000001)
      else match s.recordCause fr hva 128 128 .load with
        | some x => s.trapU fr x.1 x.2
        | none =>
          let h := s.recordRead fr hva 128
          State.enqueued fr i d ((s.noteRanges fr [(hva, 128, .load)]).enqueueCard fr.g.ctx va c.1 h.1 h.2)

/-! ## The doorbell (11 R306, R307) -/

/-- A register that answers only in stage 3 is written (14 R381). -/
def State.hostWrite (s : State) (f : State → State) : State := if s.dev.stage = 3 then f s else s
/-- The result of a doorbell goes to LQRES. -/
def doorbell (ctx : Nat) (r : State × Nat) : State :=
  r.1.onContext ctx fun c => { c with lqres := BitVec.ofNat 32 r.2 }
/-- A write to LQDOOR with bit 0 clear. -/
def State.doorHeader (s : State) (ctx : Nat) (va : DWord) : State :=
  doorbell ctx (if s.closed ctx then (s, 0x80000004)
    else if va.toNat % 128 != 0 then (s, 0x80000001)
    else match s.readVa ctx va 128 with
      | none => (s, 0x80000001)
      | some h => s.enqueueHeader ctx va h.1 h.2)
/-- A write to LQDOOR with bit 0 set. -/
def State.doorCard (s : State) (ctx : Nat) (x : DWord) : State :=
  let va := x &&& ~~~1#64
  doorbell ctx (if s.closed ctx then (s, 0x80000004)
    else if va.toNat % 64 != 0 then (s, 0x80000001)
    else match s.readVa ctx va 64 with
      | none => (s, 0x80000001)
      | some c =>
        if c.2 || cardBad c.1 then (s, 0x80000001)
        else match s.readVa ctx (BitVec.ofNat 64 (field c.1 8 8)) 128 with
          | none => (s, 0x80000001)
          | some h => s.enqueueCard ctx va c.1 h.1 h.2)

/-! ## Completion (11 R309) -/

/-- A group is one of a launch. -/
def Group.ofLaunch (g : Group) (ctx serial : Nat) : Bool := g.ctx = ctx && g.serial = serial
/-- Every group of the launch has ended, nothing it counted is outstanding, and no store or atomic of it is still on its way:
completion is a release at device scope. -/
def State.launchOver (s : State) (ctx serial : Nat) (l : Launch) : Bool :=
  l.units ≤ l.next && (l.chunks.all fun c => c.recs = []) && l.plan.isNone &&
    (!s.groups.any fun e => e.2.ofLaunch ctx serial) && (!s.saved.any fun e => e.2.ofLaunch ctx serial) &&
    !s.ops.any fun e => e.2.ctx = ctx && e.2.serial = serial && (e.2.ctr.isSome || e.2.kind.ordered)
/-- LAUNCH_COMPLETE: the set bits enter E and the queue entry is free. -/
def State.launchComplete (s : State) (ctx serial : Nat) : Option State :=
  match (s.context ctx).launches.look serial with
  | none => none
  | some l =>
    if s.launchOver ctx serial l then
      some ((s.onContext ctx fun c => { c with launches := c.launches.del serial }).setEvents ctx (· ||| l.hdr.set))
    else none

/-! ## Task queues (08 R252; 12 R345, R346) -/

/-- A task queue of a base die. -/
def Stack.queue (k : Stack) (q : Nat) : Queue := k.queues.lookD q Queue.reset
/-- The queue a number names, if it is bound to the context. -/
def State.boundQueue (s : State) (ctx : Nat) (x : Word) : Option Queue :=
  let q := (s.stack (bitsOf x.toNat 11 8)).queue (x.toNat % 256)
  if x.toNat / 4096 = 0 && q.en && q.ctx = ctx then some q else none
/-- A queue replaced. -/
def State.setQueue (s : State) (x : Word) (q : Queue) : State :=
  s.onStack (bitsOf x.toNat 11 8) fun k => { k with queues := k.queues.put (x.toNat % 256) q }
/-- Where entry n of a queue lies in its ring. -/
def Queue.key (q : Queue) (x : Word) (n : Nat) : Nat :=
  hbmKey (dieOfStack (bitsOf x.toNat 11 8)) (bitsOf q.base.toNat 47 3 * 8 + 8 * (n % 2 ^ q.lgsize))
/-- An entry pushed: the state and the answer. -/
def State.pushTask (s : State) (ctx : Nat) (x : Word) (e : DWord) : State × Word :=
  match s.boundQueue ctx x with
  | none => (s, 0)
  | some q =>
    if e = BitVec.allOnes 64 || (q.tail - q.head).toNat = 2 ^ q.lgsize then (s, 0)
    else ((s.store ctx (q.key x q.tail.toNat) (bytesOf e.toNat 8)).setQueue x { q with tail := q.tail + 1 }, 1)
/-- The oldest entry popped, and whether it is poisoned; all ones from an empty queue. -/
def State.popTask (s : State) (ctx : Nat) (x : Word) : State × DWord × Bool :=
  match s.boundQueue ctx x with
  | none => (s, BitVec.allOnes 64, false)
  | some q =>
    if q.tail = q.head then (s, BitVec.allOnes 64, false)
    else
      let k := q.key x q.head.toNat
      (s.setQueue x { q with head := q.head + 1 }, BitVec.ofNat 64 (s.num k 8), s.poisoned k)
/-- The slots whose queue number names no queue of theirs raise PROT with its value (08 R238); the others go on (01 R41). -/
def State.queueFaults (s : State) (fr : Frame) (a : Reg) : List (Nat × DWord × Cause) :=
  (slotsOf fr.part).filterMap fun t =>
    if (s.boundQueue fr.g.ctx (fr.v.reg a.toNat t)).isNone then some (t, (fr.v.reg a.toNat t).setWidth 64, .prot) else none
/-- The slots that name a queue. -/
def State.queueSlots (s : State) (fr : Frame) (a : Reg) : DWord := fr.part &&& ~~~maskOf ((s.queueFaults fr a).map (·.1))
/-- qpush. -/
def State.qpushAt (s : State) (fr : Frame) (i : Instr) (d a b : Reg) : State :=
  match fr.look.first ([(a, isInt)] ++ pairCheck b) with
  | some r => s.trapAll fr .tag fr.act r 0
  | none =>
    let bad := s.queueFaults fr a
    let good := s.queueSlots fr a
    if good = 0 && bad != [] then s.afterIssue fr fr.w i bad
    else match s.releaseAt fr.gid fr.wid good fr.issueScope with
      | none => s.holdFast fr
      | some s =>
        let r := (slotsOf good).foldl (fun (p : State × Tab Word) t =>
          let q := p.1.pushTask fr.g.ctx (fr.v.reg a.toNat t) (fr.v.pair b.toNat t)
          (q.1, p.2.put t q.2)) (s, [])
        r.1.afterIssue fr ((fr.w.writeCol d.toNat good fun t => r.2.lookD t 0).setTag d.toNat 0x11) i bad
/-- qpop: a pop acquires (09 R264). A slot that takes a poisoned entry dies (01 R23); its record names no address (assumption log 34). -/
def State.qpopAt (s : State) (fr : Frame) (i : Instr) (d a : Reg) : State :=
  match fr.look.first [(a, isInt)] with
  | some r => s.trapAll fr .tag fr.act r 0
  | none =>
    let bad := s.queueFaults fr a
    let good := s.queueSlots fr a
    if good = 0 && bad != [] then s.afterIssue fr fr.w i bad
    else
      let r := (slotsOf good).foldl (fun (p : State × Tab (DWord × Bool)) t =>
        let q := p.1.popTask fr.g.ctx (fr.v.reg a.toNat t)
        (q.1, p.2.put t q.2)) (s, [])
      let dead := (slotsOf good).filter fun t => (r.2.lookD t (0, false)).2
      let kept := good &&& ~~~maskOf dead
      ((r.1.afterIssue fr ((fr.w.writePair d.toNat kept fun t => (r.2.lookD t (0, false)).1).setPairTag d.toNat 0x12) i
        bad).heed fr.gid fr.wid good s.nextOp).killSlots fr.gid fr.wid (dead.map fun t => (t, 0))
/-- A write to QCTL (12 R345). -/
def State.writeQctl (s : State) (stack q : Nat) (x : Word) : State :=
  let lg := bitsOf x.toNat 11 7
  if lg < 4 || 20 < lg then s
  else s.onStack stack fun k =>
    let old := k.queue q
    let en := x.getLsbD 0
    let new := if old.en then { old with en := en } else { old with en := en, ctx := bitsOf x.toNat 6 1, lgsize := lg }
    { k with queues := k.queues.put q (if en then new else { new with head := new.tail }) }

/-! ## The event vector (08 R254) -/

/-- evset and evclr: an update of a quarter once the wave's earlier accesses are performed at device scope. -/
def State.eventUpdate (s : State) (fr : Frame) (i : Instr) (a b : Reg) (f : BitVec 256 → BitVec 256 → BitVec 256) :
    State :=
  match fr.look.first (pairCheck a ++ [(b, isInt)]) with
  | some r => s.trapAll fr .tag fr.act r 0
  | none => s.afterRelease fr (BitVec.allOnes 64) fun s =>
    let m := quarterMask (fr.v.pair a.toNat fr.u) ((fr.v.reg b.toNat fr.u).toNat % 4)
    ((s.setEvents fr.g.ctx fun e => f e m).finish fr fr.w i).wake
/-- evrd. -/
def State.eventRead (s : State) (fr : Frame) (i : Instr) (d a : Reg) : State :=
  match fr.look.first [(a, isInt)] with
  | some r => s.trapAll fr .tag fr.act r 0
  | none =>
    let x := quarterOf (s.context fr.g.ctx).events ((fr.v.reg a.toNat fr.u).toNat % 4)
    s.finish fr (fr.w.eventResult d fr.act x) i

/-! ## The meanings -/

/-- qpush: Appends entries to a base-die task queue (08 R252). -/
def execQpush (hold : BitVec 2) (d : Reg) (a : Reg) (b : Reg) (s : State) : Out :=
  onCoreOnly (.qpush hold d a b) s fun fr => s.qpushAt fr (.qpush hold d a b) d a b

/-- qpop: Removes entries from a base-die task queue (08 R252). -/
def execQpop (hold : BitVec 2) (d : Reg) (a : Reg) (s : State) : Out :=
  onCoreOnly (.qpop hold d a) s fun fr => s.qpopAt fr (.qpop hold d a) d a

/-- jcard: Submits a job card to the context's launch queue (08 R253). -/
def execJcard (hold : BitVec 2) (d : Reg) (a : Reg) (s : State) : Out :=
  onCoreOnly (.jcard hold d a) s fun fr => s.jcardAt fr (.jcard hold d a) d a

/-- launch: Enqueues a launch header (08 R253). -/
def execLaunch (hold : BitVec 2) (d : Reg) (a : Reg) (s : State) : Out :=
  onCoreOnly (.launch hold d a) s fun fr => s.launchAt fr (.launch hold d a) d a

/-- evset: Sets bits of the event vector and re-evaluates waiters (08 R254). -/
def execEvset (hold : BitVec 2) (a : Reg) (b : Reg) (s : State) : Out :=
  onCoreOnly (.evset hold a b) s fun fr => s.eventUpdate fr (.evset hold a b) a b fun e m => e ||| m

/-- evclr: Clears bits of the event vector (08 R254). -/
def execEvclr (hold : BitVec 2) (a : Reg) (b : Reg) (s : State) : Out :=
  onCoreOnly (.evclr hold a b) s fun fr => s.eventUpdate fr (.evclr hold a b) a b fun e m => e &&& ~~~m

/-- evrd: Reads a quarter of the event vector with acquire (08 R254). -/
def execEvrd (hold : BitVec 2) (d : Reg) (a : Reg) (s : State) : Out :=
  onCoreOnly (.evrd hold d a) s fun fr => s.eventRead fr (.evrd hold d a) d a

/-! ## The events -/

/-- LAUNCH_COMPLETE (11 R309): a launch completes. Uses ctx, serial. -/
def execLaunchComplete (s : State) : Out := onEvent (s.launchComplete s.about.ctx s.about.serial)

/-- LQDOOR_HEADER (11 R307): the host writes LQDOOR with bit 0 = 0. Uses ctx, value. -/
def execLqdoorHeader (s : State) : Out :=
  onEvent (if s.about.value.getLsbD 0 then none else some (s.hostWrite fun s => s.doorHeader s.about.ctx s.about.value))

/-- LQDOOR_CARD (11 R307): the host writes LQDOOR with bit 0 = 1. Uses ctx, value. -/
def execLqdoorCard (s : State) : Out :=
  onEvent (if s.about.value.getLsbD 0 then some (s.hostWrite fun s => s.doorCard s.about.ctx s.about.value) else none)

/-- QCTL_WRITE (12 R345): the host writes QCTL of a task queue. Uses stack, index, value. -/
def execQctlWrite (s : State) : Out :=
  onEvent (some (s.hostWrite fun s =>
    s.writeQctl s.about.stack s.about.index (s.about.value.extractLsb' 0 32)))

end Sys2Proof.Machine
end

