-- ==== Sys2Proof/Machine/Placement.lean ====
section
/-! DEFINITION. Placing groups on cores: what a core can take, the start of a group, the start of a saved group, the
choice of the dispatcher, job-card chunks, the ladle, and the residency of gangs (01 R44 to R46; 10 R288, R289;
11 R310 to R318, R320, R324). -/

namespace Sys2Proof.Machine

/-! ## What a core can take (01 R46; 10 R288, R289; 11 R311) -/

/-- The groups on a core, the held members among them. -/
def State.onThe (s : State) (core : Nat) : List (Nat × Group) := s.groups.filter fun e => e.2.core = core
/-- Chunks with records left that are bound to a core (11 R311). -/
def State.bindsCore (s : State) (core : Nat) : Bool :=
  s.contexts.any fun c => c.2.launches.any fun l => l.2.chunks.any fun k => k.core = core && k.recs != []
/-- The core is reserved for a gang that waits for its go (11 R317). -/
def State.reservedCore (s : State) (core : Nat) : Bool :=
  s.contexts.any fun c => c.2.launches.any fun l => match l.2.plan with
    | some p => p.2.any fun m => m.2 = core
    | none => false
/-- The core has failed its assay (14 R376). -/
def State.failedCore (s : State) (core : Nat) : Bool := (s.die (dieOfCore core)).asyfail.getLsbD (core % 288)
/-- A launch may have groups placed: it is eligible, not timed out, its context enabled and not stopped. -/
def State.runnable (s : State) (ctx : Nat) (l : Launch) : Bool := l.eligible && !l.ended && !s.closed ctx
/-- A launch has a group that is not on a core. -/
def State.waits (s : State) (ctx serial : Nat) (l : Launch) : Bool :=
  s.runnable ctx l && (l.next < l.units || (l.chunks.any fun k => k.recs != []) || s.saved.any fun e => e.2.ofLaunch ctx serial)
/-- The core is draining for its assay, or for a pre-emption while a group of it is still to be saved (11 R311, R319). -/
def State.draining (s : State) (core : Nat) : Bool :=
  (s.core core).drained || ((s.core core).freeFor.isSome && (s.onThe core).any fun e => e.2.saving)
/-- A core that was pre-empted for a launch is free for that launch alone, while it still has a group to place (11 R319;
assumption log 94). -/
def State.freeTo (s : State) (core serial : Nat) : Bool :=
  match (s.core core).freeFor with
  | none => true
  | some x => x = serial || !s.contexts.any fun c => c.2.launches.any fun l => l.1 = x && s.waits c.1 x l.2
/-- The core takes groups of a launch at all (11 R311, R319; 14 R379). -/
def State.coreOpen (s : State) (core serial : Nat) : Bool :=
  core < 1152 && !s.draining core && !s.failedCore core && (s.die (dieOfCore core)).power.req = 0 &&
    !s.reservedCore core && s.freeTo core serial
/-- The core's split is a launch's. -/
def Core.splitIs (c : Core) (h : Header) : Bool := c.sreg = h.sreg && c.sscr = h.sscr
/-- The core may change its split: it holds no waves and no held member, and no chunk is bound to it. -/
def State.splitFree (s : State) (core : Nat) : Bool := s.onThe core = [] && !s.bindsCore core
/-- A slot of the scratchpad partition that a region or the ladle may take: outside every region, its entry invalid, or
valid, clean and unpinned. -/
def State.slotFree (s : State) (core slot : Nat) : Bool :=
  !((s.onThe core).any fun e => e.2.base ≤ slot && slot < e.2.base + e.2.size) &&
    match (s.core core).tags.look slot with
    | some e => !e.valid || (!e.dirty && !e.pinned)
    | none => true
/-- The lowest slot at which a run of n free slots begins, in a partition of `count` slots. -/
def State.freeRun (s : State) (core count n : Nat) : Option Nat :=
  (List.range (count + 1)).find? fun b => b + n ≤ count && (List.range n).all fun j => s.slotFree core (b + j)
/-- The slots of a launch's scratchpad partition. -/
def Header.slots (h : Header) : Nat := 16 * h.sscr
/-- A core can take a group of a launch that has n waves (11 R311, R320), the job-card rule aside. -/
def State.takesWaves (s : State) (core serial : Nat) (h : Header) (n : Nat) : Bool :=
  let here := s.onThe core
  let waves := here.foldl (fun n e => n + e.2.waves.length) 0
  let regs := here.foldl (fun n e => n + e.2.waves.length * e.2.regs * 256) 0
  let scr := here.foldl (fun n e => n + e.2.size) 0
  h.admits core && s.coreOpen core serial && ((s.core core).splitIs h || s.splitFree core) && waves + n ≤ 16 &&
    regs + n * h.regs * 256 ≤ h.sreg * 65536 && scr + h.scr ≤ h.slots && (s.freeRun core h.slots h.scr).isSome &&
    (!h.tiles || ((s.core core).mat.holder.isNone && !here.any fun e => e.2.serial = serial))
/-- A core can take an unstarted group of a launch. -/
def State.takes (s : State) (core serial : Nat) (h : Header) : Bool := s.takesWaves core serial h h.waves

/-- Which of two cores the dispatcher prefers (11 R312): the launch's split, fewest resident groups, lowest number. -/
def State.prefers (s : State) (h : Header) (a b : Nat) : Bool :=
  let x := (s.core a).splitIs h
  let y := (s.core b).splitIs h
  if x != y then x
  else if (s.onThe a).length != (s.onThe b).length then (s.onThe a).length < (s.onThe b).length
  else a < b
/-- The best of a list of cores. -/
def State.bestCore (s : State) (h : Header) (cs : List Nat) : Option Nat :=
  cs.foldl (fun best c => match best with
    | none => some c
    | some b => if s.prefers h c b then some c else some b) none
/-- The core a group of a launch that has n waves is placed on. -/
def State.chooseWaves (s : State) (serial : Nat) (h : Header) (n : Nat) : Option Nat :=
  s.bestCore h ((List.range 1152).filter fun c => s.takesWaves c serial h n)
/-- The core an unstarted group of a launch is placed on. -/
def State.chooseCore (s : State) (serial : Nat) (h : Header) : Option Nat := s.chooseWaves serial h h.waves

/-! ## Starting a group (01 R44, R45) -/

/-- A core takes a split (10 R288): slots that remain keep contents and entries, the others lose both, and the
read-only partition is emptied. -/
def State.setSplit (s : State) (core sreg sscr : Nat) : State :=
  let c := s.core core
  if c.sreg = sreg && c.sscr = sscr then s
  else
    let s := s.setCore core { c with sreg := sreg, sscr := sscr, ro := [],
                                     tags := c.tags.filter fun e => e.1 < 16 * sscr }
    { s with mem := Tab.delRange s.mem (scratchKey core (65536 * sscr)) (65536 * 12 - 65536 * sscr) }
/-- The slots of a region are taken: their entries are invalid and they read zero (10 R289). -/
def State.takeRegion (s : State) (core base n : Nat) : State :=
  let s := s.onCore core fun c => { c with tags := Tab.delRange c.tags base n }
  { s with mem := Tab.delRange s.mem (scratchKey core (4096 * base)) (4096 * n) }
/-- The free wave slots of a core, lowest first (assumption log 35). -/
def State.freeSlots (s : State) (core : Nat) : List Nat :=
  (List.range 16).filter fun k => !(s.onThe core).any fun e => e.2.waves.any fun w => w.2.slot = k
/-- A wave at the start of its group. -/
def newWave (slot : Nat) (workId args entry : DWord) (now : Nat) : Wave :=
  let w : Wave :=
    { slot := slot, workId := workId, live := BitVec.allOnes 64, exited := 0, regs := [], tags := [], mode := modeAtLaunch,
      stat := 0, ctr := Counters.zero,
      split := [(0, .frag { pc := pcOf entry, mask := BitVec.allOnes 64, st := .ready, link := none, suspended := false,
                            notBefore := now })],
      loops := [], nextLoop := 0, priv := false, tpc := 0, tmask := 0, tcause := 0, taddr := 0, tstat := 0, efr := none,
      dfr := none, heldSince := none, lastEntry := 15, fresh := [] }
  (w.writePair 2 (BitVec.allOnes 64) fun _ => args).setPairTag 2 0x12
/-- The work identifier of slot 0 of a wave (01 R11, R12; 11 R304). -/
def Header.workId (h : Header) (unit member wave : Nat) : DWord :=
  BitVec.ofNat 64 (wave * 64 + member * 2 ^ h.width 0 + unit * 2 ^ (h.width 0 + h.width 1))
/-- What the core and the launch queue take note of when a group comes onto a core; a matrix side it holds has its launch
values (07 R199), and the partition of another launch is gone (01 R45; 09 R273). -/
def State.noteStart (s : State) (ctx serial core gid : Nat) (h : Header) : State :=
  let s := s.onCore core fun c =>
    { c with seen := if c.seen.contains ctx then c.seen else ctx :: c.seen, user := some serial,
             freeFor := none,
             ro := if c.user = some serial then c.ro else [],
             roSince := if c.user = some serial then c.roSince else s.past.length,
             roFloors := if c.user = some serial then c.roFloors else [],
             mat := if h.tiles then { Matrix.empty with holder := some gid } else c.mat }
  s.onContext ctx fun x =>
    { x with lastPlaced := some s.tick,
             launches := x.launches.change serial fun l =>
               { l with first := some (l.first.getD s.tick), blocked := none } }
/-- A group of a launch starts on a core (01 R44, R45). `args` is its argument address, `notes` the slots the ladle
pinned for it. -/
def State.startGroup (s : State) (ctx serial : Nat) (h : Header) (unit member core : Nat) (args : DWord)
    (notes : List Nat) : State :=
  let s := s.setSplit core h.sreg h.sscr
  let base := (s.freeRun core h.slots h.scr).getD 0
  let s := s.takeRegion core base h.scr
  let gid := s.nextGroup
  let waves : Tab Wave := ((List.range h.waves).zip (s.freeSlots core)).map fun x =>
    (x.1, newWave x.2 (h.workId unit member x.1) args h.entry s.cycle)
  let g : Group :=
    { ctx := ctx, serial := serial, unit := unit, member := member, core := core, base := base, size := h.scr,
      regs := h.regs, waves := waves, notes := notes, written := [], attached := true, present := true, held := false,
      gone := [], left := [], saving := false, image := none, bound := none }
  ({ s with nextGroup := gid + 1, groups := s.groups.put gid g } : State).noteStart ctx serial core gid h

/-! ## Starting a saved group (11 R320, R324) -/

/-- The cells of a range that differ from zero, by offset from its first. -/
def State.cellsOf (s : State) (key n : Nat) : Tab Byte :=
  (s.mem.filter fun e => key ≤ e.1 && e.1 < key + n).map fun e => (e.1 - key, e.2)
/-- Cells put back at a key. -/
def State.putCells (s : State) (key : Nat) (cs : Tab Byte) : State := cs.foldl (fun s e => s.setByte (key + e.1) e.2) s
/-- The valid entry of a context on a core that holds a tile. -/
def State.tileSlot (s : State) (ctx core : Nat) (va : DWord) : Option Nat :=
  ((s.core core).tags.find? fun e => e.2.valid && e.2.owner = ctx && e.2.va.extractLsb' 12 52 = va.extractLsb' 12 52).map
    (·.1)
/-- The lowest slot the ladle may take. -/
def State.ladleSlot (s : State) (core : Nat) : Option Nat :=
  (List.range (16 * (s.core core).sscr)).find? fun k => s.slotFree core k
/-- A tile slot is written and its entry installed, clean and unpinned (11 R316). -/
def State.install (s : State) (ctx core slot : Nat) (va : DWord) (cs : Tab Byte) : State :=
  let key := scratchKey core (4096 * slot)
  let s := ({ s with mem := Tab.delRange s.mem key 4096 } : State).putCells key cs
  let e : TagEnt := { valid := true, pinned := false, dirty := false, owner := ctx, va := va &&& ~~~0xFFF#64 }
  s.onCore core fun c => { c with tags := c.tags.put slot e }
/-- An entry is pinned; the second part tells whether it was not before. -/
def State.pinSlot (s : State) (core slot : Nat) : State × Bool :=
  match (s.core core).tags.look slot with
  | some e => (s.onCore core fun c => { c with tags := c.tags.put slot { e with pinned := true } }, !e.pinned)
  | none => (s, false)
/-- The key of each 128-byte line of a tile at its owner die, or none where it faults. -/
def State.tileLines (s : State) (ctx : Nat) (va : DWord) : Option (List Nat) :=
  (List.range 32).mapM fun j =>
    match s.locate none ctx ((va &&& ~~~0xFFF#64) + BitVec.ofNat 64 (128 * j)) .load false with
    | .ok key => some key
    | .error _ => none
/-- A tile of 4 KiB read at its owner die: its bytes that are not zero, or none where it faults or is poisoned. -/
def State.readTile (s : State) (ctx : Nat) (va : DWord) : Option (Tab Byte) :=
  match s.tileLines ctx va with
  | none => none
  | some ks => if ks.any fun k => s.poisonedIn k 128 then none
    else some (ks.zipIdx.flatMap fun x => (List.range 128).filterMap fun o =>
      let b := s.byte (x.1 + o)
      if b = 0 then none else some (128 * x.2 + o, b))
/-- The place of a noted tile of a saved group on a core: its own entry there, a slot filled from its VA, or for a dirty
one from the block; none while no slot is free. A clean tile that can no longer be read is left out. -/
def State.placeTile (s : State) (ctx core : Nat) (t : SavedTile) : Option (State × Option Nat) :=
  let dirty : State → Nat → State := fun s k =>
    if t.dirty then
      let key := scratchKey core (4096 * k)
      (({ s with mem := Tab.delRange s.mem key 4096 } : State).putCells key t.cells).onCore core fun c =>
        { c with tags := c.tags.change k fun e => { e with dirty := true } }
    else s
  match s.tileSlot ctx core t.va with
  | some k => let p := (dirty s k).pinSlot core k
              some (p.1, if p.2 then some k else none)
  | none => match s.ladleSlot core with
    | none => none
    | some k =>
      match (if t.dirty then some t.cells else s.readTile ctx t.va) with
      | none => some (s, none)
      | some cs => let p := (dirty (s.install ctx core k t.va cs) k).pinSlot core k
                   some (p.1, some k)
/-- The next noted tile of a restored group that waits for its tiles is put in place, those before it kept; with the last
the group runs. -/
def State.placeNext (s : State) (gid : Nat) : Option State :=
  match s.groups.look gid with
  | none => none
  | some g => match g.image with
    | none => none
    | some x => match x.tiles with
      | [] => none
      | t :: r => (s.placeTile g.ctx g.core t).map fun p => p.1.setGroup gid { g with
          notes := p.2.toList ++ g.notes, image := if r = [] then none else some { x with tiles := r },
          bound := if r = [] then none else g.bound }
/-- As many of its tiles as there are slots for. -/
def State.placeTiles (s : State) (gid : Nat) : Nat → State
  | 0 => s
  | n + 1 => match s.placeNext gid with
    | some t => t.placeTiles gid n
    | none => s
/-- A saved group comes back on a core: region, matrix side, waves, and its noted tiles, for which it waits there (11 R320,
R324). -/
def State.restoreGroup (s : State) (gid : Nat) (g : Group) (h : Header) (core : Nat) : State :=
  let s := s.setSplit core h.sreg h.sscr
  let base := (s.freeRun core h.slots g.size).getD 0
  let s := s.takeRegion core base g.size
  let img := g.image.getD { cells := [], tiles := [], mat := none }
  let s := s.putCells (scratchKey core (4096 * base)) img.cells
  let waves : Tab Wave := (g.waves.zip (s.freeSlots core)).map fun x => (x.1.1, { x.1.2 with slot := x.2 })
  let s := { s with saved := s.saved.del gid,
                    groups := s.groups.put gid { g with
                      core := core, base := base, waves := waves, notes := [], saving := false,
                      image := if img.tiles = [] then none else some { img with cells := [], mat := none },
                      bound := if img.tiles = [] then none else some core } }
  let s := s.noteStart g.ctx g.serial core gid h
  let s := match img.mat with
    | some m => s.onCore core fun c => { c with mat := { m with holder := some gid } }
    | none => s
  waves.foldl (fun s w => if w.2.alive = 0 then s.waveLoss gid w.1 else s) (s.placeTiles gid img.tiles.length)

/-! ## The launches a dispatcher considers (11 R310) -/

/-- The saved groups of a launch, lowest unit and member first. -/
def State.savedOf (s : State) (ctx serial : Nat) : List (Nat × Group) :=
  (s.saved.filter fun e => e.2.ofLaunch ctx serial).mergeSort fun a b =>
    a.2.unit < b.2.unit || (a.2.unit = b.2.unit && a.2.member ≤ b.2.member)
/-- The argument address of a unit: the header's, or the record's for a card (01 R44; 11 R313). -/
def Launch.argsOf (l : Launch) (unit : Nat) : DWord :=
  match l.card with
  | some c => c.recs + BitVec.ofNat 64 (unit * c.stride)
  | none => l.hdr.args
/-- The launch changed. -/
def State.onLaunch (s : State) (ctx serial : Nat) (f : Launch → Launch) : State :=
  s.onContext ctx fun c => { c with launches := c.launches.change serial f }
/-- The first saved group of a launch without gangs that a core can take is restored. -/
def State.restoreNext (s : State) (ctx serial : Nat) (l : Launch) : Option State :=
  (s.savedOf ctx serial).findSome? fun e =>
    (s.chooseWaves serial l.hdr e.2.waves.length).map fun c => s.restoreGroup e.1 e.2 l.hdr c
/-- One unit of a plain launch starts. -/
def State.startNext (s : State) (ctx serial : Nat) (l : Launch) : Option State :=
  if l.units ≤ l.next then none
  else (s.chooseCore serial l.hdr).map fun c =>
    (s.startGroup ctx serial l.hdr l.next 0 c l.hdr.args []).onLaunch ctx serial fun l => { l with next := l.next + 1 }

/-! ## Job cards (11 R314 to R316) -/

/-- A record is skipped: it counts as ended, and a record of cause 0x42 is posted (11 R314; 14 R370). -/
def State.skipRecord (s : State) (ctx : Nat) (l : Launch) (r : Nat) : State :=
  s.post ctx { workId := l.hdr.workId r 0 0, addr := l.argsOf r, cause := 0x42, core := 0x7FF }
/-- The tile VAs of a record, or none where it is bad (11 R314). -/
def State.recordTiles (s : State) (ctx : Nat) (l : Launch) (r : Nat) : Option (List DWord) :=
  let va := l.argsOf r
  match s.readVa ctx va 16 with
  | none => none
  | some h =>
    let n := field h.1 0 4
    let stride := match l.card with
      | some c => c.stride
      | none => 0
    if h.2 || 8 < n || field h.1 8 8 != 0 || stride < 16 + 8 * n + field h.1 4 4 then none
    else
      let vs := (List.range n).map fun i => va + BitVec.ofNat 64 (16 + 8 * i)
      match vs.mapM fun v => match s.locate none ctx v .load true with
          | .ok k => if s.poisoned k then none else some (BitVec.ofNat 64 (s.num k 8))
          | .error _ => none with
      | none => none
      | some ts => if ts.all fun t => t.toNat % 4096 = 0 && vaDevice t = s.dev.devnum then some ts else none
/-- The cores of the mask among which records are spread (11 R315). -/
def State.spread (s : State) (h : Header) : Nat :=
  ((List.range 1152).filter fun c => h.admits c && !s.draining c && !s.failedCore c &&
    ((s.core c).splitIs h || !(s.onThe c).any fun e => e.2.waves != [])).length
/-- How many of a list of tiles a core already holds. -/
def State.tilesHeld (s : State) (ctx core : Nat) (ts : List DWord) : Nat :=
  (ts.filter fun t => (s.tileSlot ctx core t).isSome).length
/-- The core a chunk is bound to: most of the first record's tiles, then 11 R312's order. -/
def State.chunkCore (s : State) (ctx : Nat) (cs : List Nat) (ts : List DWord) : Option Nat :=
  cs.foldl (fun best c => match best with
    | none => some c
    | some b =>
      let x := s.tilesHeld ctx c ts
      let y := s.tilesHeld ctx b ts
      if y < x || (x = y && ((s.onThe c).length < (s.onThe b).length || ((s.onThe c).length = (s.onThe b).length && c < b)))
      then some c else some b) none
/-- A chunk is formed (11 R315): bad records are skipped, the others are bound to one core that can take a group of the
card and has no records of it left. DESIGN CHOICE (assumption log 114): an empty core of another split takes the card's when
the chunk is bound to it, since the tiles of its records are placed under that split and it keeps it while they are left (11
R311). -/
def State.formChunk (s : State) (ctx serial : Nat) (l : Launch) : Option State :=
  let cs := (List.range 1152).filter fun c =>
    s.takes c serial l.hdr && !l.chunks.any fun k => k.core = c && k.recs != []
  if l.units ≤ l.next || cs = [] then none
  else
    let left := l.units - l.next
    let e := Nat.max 1 (s.spread l.hdr)
    let n := Nat.min (Nat.min 16 (Nat.max 1 ((left + 2 * e - 1) / (2 * e)))) left
    let recs := (List.range n).map fun j => (l.next + j, s.recordTiles ctx l (l.next + j))
    let good := recs.filterMap fun r => r.2.map fun t => (r.1, t)
    let core := (s.chunkCore ctx cs (match good with
      | [] => []
      | g :: _ => g.2)).getD 0
    let s := recs.foldl (fun s r => if r.2.isNone then s.skipRecord ctx l r.1 else s) s
    let s := if good = [] then s else s.setSplit core l.hdr.sreg l.hdr.sscr
    some (s.onLaunch ctx serial fun l =>
      { l with next := l.next + n,
               chunks := (l.chunks.filter fun k => k.recs != []) ++ (if good = [] then []
                 else [{ core := core, recs := good, tile := 0, filled := [], noted := [] }]) })

/-- The chunk of a launch that waits on a core. -/
def Launch.chunkOn (l : Launch) (core : Nat) : Option Chunk := l.chunks.find? fun k => k.core = core && k.recs != []
/-- The chunk on a core replaced. -/
def Launch.setChunk (l : Launch) (core : Nat) (k : Chunk) : Launch :=
  { l with chunks := l.chunks.map fun x => if x.core = core && x.recs != [] then k else x }
/-- The chunk without its first record. -/
def Chunk.rest (k : Chunk) : Chunk := { k with recs := k.recs.drop 1, tile := 0, filled := [], noted := [] }
/-- The tiles taken for a record are released, those filled for it left invalid (11 R316). -/
def State.releaseTiles (s : State) (k : Chunk) : State :=
  s.onCore k.core fun c =>
    let tags := k.noted.foldl (fun t q => t.change q fun e => { e with pinned := false }) c.tags
    { c with tags := k.filled.foldl (fun t q => t.del q) tags }
/-- The ladle takes one step for the first record of a chunk (11 R316): a tile is found or filled, and pinned. None while the
record waits, and once its tiles are in place: its group starts when the dispatcher chooses it. -/
def State.ladleStep (s : State) (ctx serial : Nat) (l : Launch) (k : Chunk) : Option State :=
  match k.recs with
  | [] => none
  | (r, ts) :: _ =>
    match ts[k.tile]? with
    | some va =>
      let place : State → Nat → List Nat → State := fun s q filled =>
        let p := s.pinSlot k.core q
        p.1.onLaunch ctx serial fun l => l.setChunk k.core
          { k with tile := k.tile + 1, filled := filled ++ k.filled, noted := if p.2 then q :: k.noted else k.noted }
      match s.tileSlot ctx k.core va with
      | some q => some (place s q [])
      | none => match s.ladleSlot k.core with
        | none => none
        | some q => match s.readTile ctx va with
          | some cs => some (place (s.install ctx k.core q va cs) q [q])
          | none => some (((s.releaseTiles k).skipRecord ctx l r).onLaunch ctx serial fun l => l.setChunk k.core k.rest)
    | none => none
/-- The record of a chunk whose tiles are in place, if its core can take its group. -/
def State.readyRecord (s : State) (serial : Nat) (l : Launch) (k : Chunk) : Option Nat :=
  match k.recs with
  | [] => none
  | (r, ts) :: _ => if ts.length ≤ k.tile && s.takes k.core serial l.hdr then some r else none
/-- The lowest record of a card that is ready starts on the core of its chunk (11 R310, R315, R316). -/
def State.startRecord (s : State) (ctx serial : Nat) (l : Launch) : Option State :=
  ((l.chunks.filterMap fun k => (s.readyRecord serial l k).map fun r => (r, k)).foldl (fun best x => match best with
    | none => some x
    | some b => if x.1 < b.1 then some x else some b) none).map fun x =>
      (s.startGroup ctx serial l.hdr x.1 0 x.2.core (l.argsOf x.1) x.2.noted).onLaunch ctx serial fun l =>
        l.setChunk x.2.core x.2.rest

/-! ## Gangs (11 R317, R320) -/

/-- The key of a gang (11 R317): higher prio, lower gid, saved before unstarted, lower unit. -/
structure GangKey where
  prio : Nat
  gid : Nat
  started : Bool
  unit : Nat
  deriving DecidableEq, Repr
/-- Which key is smaller. -/
def GangKey.before (a b : GangKey) : Bool :=
  if a.prio != b.prio then b.prio < a.prio
  else if a.gid != b.gid then a.gid < b.gid
  else if a.started != b.started then a.started
  else a.unit < b.unit
/-- The members of a unit this device runs whose groups are saved. -/
def State.savedUnit (s : State) (ctx serial unit : Nat) : List (Nat × Group) :=
  (s.savedOf ctx serial).filter fun e => e.2.unit = unit
/-- A saved gang is whole: none of its members here is still being saved. -/
def State.gangWhole (s : State) (ctx serial unit : Nat) : Bool :=
  !s.groups.any fun e => e.2.ofLaunch ctx serial && e.2.unit = unit && e.2.saving
/-- The gang a launch would start next: a saved unit that is whole, else the lowest unstarted one. -/
def State.nextGang (s : State) (ctx serial : Nat) (l : Launch) : Option GangKey :=
  match (s.savedOf ctx serial).filter fun e => s.gangWhole ctx serial e.2.unit with
  | e :: _ => some { prio := l.hdr.prio, gid := l.hdr.gid, started := true, unit := e.2.unit }
  | [] => if l.next < l.units then some { prio := l.hdr.prio, gid := l.hdr.gid, started := false, unit := l.next } else none
/-- The members of a unit that start here, each with its saved group. -/
def State.gangMembers (s : State) (ctx serial unit : Nat) (l : Launch) : List (Nat × Option (Nat × Group)) :=
  match s.savedUnit ctx serial unit with
  | [] => (l.hdr.members s.dev.devnum).map fun m => (m, none)
  | gs => gs.map fun e => (e.2.member, some e)
/-- One member starts or is restored, on a core asked for if it can take it, else on the preferred one. -/
def State.startMember (s : State) (ctx serial unit : Nat) (l : Launch) (m : Nat × Option (Nat × Group))
    (want : Option Nat) : Option (State × Nat) :=
  let n := match m.2 with
    | some e => e.2.waves.length
    | none => l.hdr.waves
  let core := match want with
    | some c => if s.takesWaves c serial l.hdr n then some c else s.chooseWaves serial l.hdr n
    | none => s.chooseWaves serial l.hdr n
  core.map fun c => match m.2 with
    | none => (s.startGroup ctx serial l.hdr unit m.1 c l.hdr.args [], c)
    | some e => (s.restoreGroup e.1 e.2 l.hdr c, c)
/-- All members of a unit that this device runs start at the same time, or none does; with the cores they take. -/
def State.startMembers (s : State) (ctx serial unit : Nat) (l : Launch) (plan : List (Nat × Nat)) :
    List (Nat × Option (Nat × Group)) → Option (State × List (Nat × Nat))
  | [] => some (s, [])
  | m :: r => match s.startMember ctx serial unit l m ((plan.find? fun p => p.1 = m.1).map (·.2)) with
    | none => none
    | some p => match p.1.startMembers ctx serial unit l plan r with
      | none => none
      | some q => some (q.1, (m.1, p.2) :: q.2)
/-- The launch and unit that hold the device's reservation. -/
def State.reservation (s : State) : Option (Nat × Nat × Launch × Nat) :=
  s.contexts.findSome? fun c => c.2.launches.findSome? fun l =>
    l.2.plan.map fun p => (c.1, l.1, l.2, p.1)
/-- The key of the gang that holds the reservation. -/
def State.reservedKey (s : State) (r : Nat × Nat × Launch × Nat) : GangKey :=
  { prio := r.2.2.1.hdr.prio, gid := r.2.2.1.hdr.gid, started := s.savedUnit r.1 r.2.1 r.2.2.2 != [], unit := r.2.2.2 }
/-- The members of a gang all run on this device: it starts in one step, without a reservation (11 R317). -/
def State.localGang (s : State) (l : Launch) : Bool := l.hdr.devices = [s.dev.devnum]
/-- The eligible gang with the smallest key among those that span devices (11 R317): its launch and its unit. -/
def State.firstGang (s : State) : Option (Nat × Nat × Launch × GangKey) :=
  (s.contexts.flatMap fun c => c.2.launches.filterMap fun l =>
    if l.2.hdr.ganged && s.runnable c.1 l.2 && !s.localGang l.2 then
      (s.nextGang c.1 l.1 l.2).map fun k => (c.1, l.1, l.2, k)
    else none).foldl (fun best x => match best with
      | none => some x
      | some b => if x.2.2.2.before b.2.2.2 then some x else some b) none
/-- The reservation of a launch is dropped; its own ready message no longer stands. -/
def State.unreserve (s : State) (ctx serial : Nat) : State :=
  s.onLaunch ctx serial fun l => match l.plan with
    | some p => { l with plan := none, ready := l.ready.change p.1 fun ds => ds.filter fun d => d != s.dev.devnum }
    | none => l
/-- The identifying fields of this device's copy of a gang header, as its ready message brings them (11 R317; 17 R417). -/
def Header.readiness (h : Header) (dev : Nat) : GangReady :=
  { dev := dev, entry := h.entry,
    widths := BitVec.ofNat 32 (h.width 0 + h.width 1 * 2 ^ 4 + h.width 2 * 2 ^ 9 + h.width 3 * 2 ^ 15 + h.width 4 * 2 ^ 21),
    w5 := BitVec.ofNat 32 (h.width 5), gm := h.gm, gdev := h.gdev, gstr := h.gstr }
/-- The cores a gang takes are reserved for it. -/
def State.planGang (s : State) (ctx serial : Nat) (l : Launch) (unit : Nat) (plan : List (Nat × Nat)) : State :=
  (s.onLaunch ctx serial fun l =>
    { l with plan := some (unit, plan),
             ready := if l.hdr.gdev = s.dev.devnum then
                 l.ready.modify unit [] fun ds => if ds.contains s.dev.devnum then ds else s.dev.devnum :: ds
               else l.ready }).mailGang ctx l.hdr unit [l.hdr.gdev] (.ready (l.hdr.readiness s.dev.devnum))
/-- The gang with the smallest key takes the device's reservation: that of a gang with a larger key is released, and the
cores are reserved when all its members here fit at once (11 R317 steps 1, 3, 4). The ready message to a home on this
device arrives at once. -/
def State.reserveGang (s : State) (ctx serial : Nat) (l : Launch) (k : GangKey) : Option State :=
  let plan : State → Option State := fun s =>
    (s.startMembers ctx serial k.unit l [] (s.gangMembers ctx serial k.unit l)).map fun p => s.planGang ctx serial l k.unit p.2
  match s.reservation with
  | none => plan s
  | some r =>
    if k.before (s.reservedKey r) then
      let t := s.unreserve r.1 r.2.1
      some ((plan t).getD t)
    else none
/-- A gang ends because its copies differ (11 R317): one record, and its unit counts as ended. -/
def State.mismatch (s : State) (ctx serial unit : Nat) (l : Launch) : State :=
  let s := s.post ctx { workId := l.hdr.workId unit 0 0, addr := BitVec.ofNat 64 l.hdr.gid, cause := 0x41, core := 0x7FF }
  let s := { s with saved := s.saved.filter fun e => !(e.2.ofLaunch ctx serial && e.2.unit = unit) }
  s.onLaunch ctx serial fun l =>
    { l with plan := none, ready := l.ready.del unit, next := if l.next = unit then unit + 1 else l.next }
/-- The identifying fields of a ready message match the home's copy (11 R317; 17 R417). -/
def readyMatches (r : GangReady) (h : Header) : Bool :=
  r.entry.extractLsb' 0 55 = h.entry.extractLsb' 0 55 &&
    ([bitsOf r.widths.toNat 3 0, bitsOf r.widths.toNat 8 4, bitsOf r.widths.toNat 14 9, bitsOf r.widths.toNat 20 15,
      bitsOf r.widths.toNat 26 21, r.w5.toNat % 64] = h.w) && r.gm = h.gm && r.gdev = h.gdev && r.gstr = h.gstr
/-- A ready message comes to the home (11 R317 step 1); one that differs from the home's copy ends the gang everywhere. -/
def State.gangReady (s : State) (ctx serial unit : Nat) (r : GangReady) : Option State :=
  match (s.context ctx).launches.look serial with
  | none => none
  | some l =>
    if !(l.hdr.ganged && l.hdr.gdev = s.dev.devnum && l.hdr.devices.contains r.dev) then none
    else if readyMatches r l.hdr then
      some (s.onLaunch ctx serial fun l =>
        { l with ready := l.ready.modify unit [] fun ds => if ds.contains r.dev then ds else r.dev :: ds })
    else some ((s.mismatch ctx serial unit l).mailGang ctx l.hdr unit l.hdr.devices (.go true))
/-- The go for a unit (11 R317 step 2): the members here start on the cores reserved for them, while the context is enabled and
not stopped (11 R306). At the home it is sent
once every member device is ready; elsewhere it comes from the home, with `bad` when the copies differ. -/
def State.gangGo (s : State) (ctx serial unit : Nat) (bad : Bool) : Option State :=
  match (s.context ctx).launches.look serial with
  | none => none
  | some l =>
    let home := l.hdr.gdev = s.dev.devnum
    if bad then (if home || !l.hdr.ganged then none else some (s.mismatch ctx serial unit l))
    else match l.plan with
      | none => none
      | some p =>
        if !s.runnable ctx l || p.1 != unit || (home && !l.hdr.devices.all fun d => (l.ready.lookD unit []).contains d) then none
        else
          let t := s.onLaunch ctx serial fun l =>
            { l with plan := none, ready := l.ready.del unit, next := if l.next = unit then unit + 1 else l.next }
          (t.startMembers ctx serial unit l p.2 (s.gangMembers ctx serial unit l)).map fun x =>
            if home then x.1.mailGang ctx l.hdr unit l.hdr.devices (.go false) else x.1
/-- A gang of this device alone: its next unit starts whole (11 R317). -/
def State.startGang (s : State) (ctx serial : Nat) (l : Launch) : Option State :=
  (s.nextGang ctx serial l).bind fun k =>
    (s.startMembers ctx serial k.unit l [] (s.gangMembers ctx serial k.unit l)).map fun x =>
      x.1.onLaunch ctx serial fun l => { l with next := if l.next = k.unit then k.unit + 1 else l.next }

/-! ## One placement (11 R310) -/

/-- What the dispatcher would do for a launch, if it can do anything, and whether that starts a group: forming a chunk and
reserving cores start none. -/
def State.serve (s : State) (ctx serial : Nat) (l : Launch) : Option (State × Bool) :=
  let done : Bool → Option State → Option (State × Bool) := fun b x => x.map fun t => (t, b)
  if !s.runnable ctx l then none
  else if l.hdr.ganged then
    if s.localGang l then done true (s.startGang ctx serial l)
    else match s.firstGang with
      | some b => if b.1 = ctx && b.2.1 = serial then done false (s.reserveGang ctx serial l b.2.2.2) else none
      | none => none
  else match s.restoreNext ctx serial l with
    | some t => some (t, true)
    | none =>
      if l.card.isNone then done true (s.startNext ctx serial l)
      else match s.startRecord ctx serial l with
        | some t => some (t, true)
        | none => done false (s.formChunk ctx serial l)
/-- The launches of a context that a way of serving one can serve, earliest accepted first, each with what would be done. -/
def servable (serve : Nat → Nat → Launch → Option (State × Bool)) (ctx : Nat) (c : Context) : List (Launch × State × Bool) :=
  c.launches.filterMap fun l => (serve ctx l.1 l.2).map fun t => (l.2, t)
/-- The effective priority of a context whose best launch has priority p (11 R310). -/
def State.level (s : State) (c : Context) (p : Nat) : Nat :=
  Nat.min 3 (p + (s.tick - c.lastPlaced.getD s.tick) / 2 ^ 16)
/-- The choice of 11 R310 among what can be served, and what is done for it: the highest effective priority, the next context
of that level in turn, its earliest launch. The turn moves on when a group starts (assumption log 114). -/
def State.choose (s : State) (serve : Nat → Nat → Launch → Option (State × Bool)) : Option State :=
  let cands := s.contexts.filterMap fun c =>
    match servable serve c.1 c.2 with
    | [] => none
    | x :: r => some (c.1, s.level c.2 ((x :: r).foldl (fun m l => Nat.max m l.1.hdr.prio) 0), x.2)
  let top := cands.foldl (fun m c => Nat.max m c.2.1) 0
  let at' := cands.filter fun c => c.2.1 = top
  let last := s.lastServed.look top
  let after := at'.filter fun c => match last with
    | some q => q < c.1
    | none => true
  match (after ++ at').head? with
  | none => none
  | some c => some (if c.2.2.2 then { c.2.2.1 with lastServed := c.2.2.1.lastServed.put top c.1 } else c.2.2.1)
/-- DISPATCH_STEP: the dispatcher's choice, and what is done for it. -/
def State.dispatchStep (s : State) : Option State := s.choose s.serve
/-- LADLE_FILL: the ladle places a tile of a restored group that waits on the core, or takes a step for a record that waits
there (11 R316, R324). Among records of several launches the choice is the dispatcher's (assumption log 35). -/
def State.ladleFill (s : State) (core : Nat) : Option State :=
  match (s.onThe core).findSome? fun e => s.placeNext e.1 with
  | some t => some t
  | none => s.choose fun ctx serial l =>
      if s.runnable ctx l then ((l.chunkOn core).bind fun k => s.ladleStep ctx serial l k).map fun t => (t, false) else none

end Sys2Proof.Machine
end

