-- ==== Sys2Proof/Machine/Saves.lean ====
section
/-! DEFINITION. Taking groups off cores: context saves and the layout of their blocks, pre-emption, context stop and kill,
launch time-outs, and assays (05 R151, R155; 06 R180, R186, R196; 07 R222; 11 R306, R317 to R326; 14 R375, R376). -/

namespace Sys2Proof.Machine

/-! ## The beginning of a save (05 R151; 11 R319, R321) -/

/-- A group is to be saved; a wave inside a trap handler holds the event until TRET. -/
def Group.beginSave (g : Group) (now : Nat) : Group :=
  { g with saving := true, waves := g.waves.map fun (w : Nat × Wave) => (w.1, w.2.holdEvent now) }
/-- A group begins to be saved, and with a gang member every member on this device; with `tell` the other devices of the
gang get a save message (11 R319). -/
def State.beginSave (s : State) (tell : Bool) (gid : Nat) : State :=
  match s.groups.look gid with
  | none => s
  | some g =>
    if g.saving then s
    else
      let gang := s.gangSize g != 1
      let t : State := { s with groups := s.groups.map fun (e : Nat × Group) =>
        if (e.1 = gid || (gang && g.sameGang e.2)) && !e.2.saving then (e.1, e.2.beginSave s.tick) else e }
      match s.launchOf g with
      | some l => if tell && gang then t.mailGang g.ctx l.hdr g.unit l.hdr.devices .save else t
      | none => t
/-- Every group of a list begins to be saved. -/
def State.beginSaves (s : State) (tell : Bool) (gs : List (Nat × Group)) : State := gs.foldl (fun s e => s.beginSave tell e.1) s

/-! ## The layout of a save block (11 R322 to R324) -/

/-- The state of a fragment in the order of 01 R15. -/
def FragState.code : FragState → Nat
  | .ready => 0 | .joined => 1 | .waiting _ => 2 | .sleeping _ => 3
/-- The place of a loop in the loop stack, the oldest first (assumption log 37). -/
def Wave.loopIndex (w : Wave) (id : Nat) : Nat := ((w.loops.reverse.map (·.id)).idxOf id) % 4
/-- A link of a split-table entry. -/
def linkBits (l : Option Nat) : Nat :=
  match l with
  | some e => e % 16 * 32 + 512
  | none => 0
/-- A split-table entry, 32 bytes. -/
def Wave.entryBytes (w : Wave) (e : Nat) : List Byte :=
  match w.split.look e with
  | none => bytesOf 0 32
  | some (.frag f) =>
    bytesOf (1 + (if f.suspended then 4 else f.st.code) * 4 + linkBits f.link) 8 ++ bytesOf (pcAddr f.pc).toNat 8 ++
      bytesOf f.mask.toNat 8 ++ bytesOf 0 8
  | some (.join j) =>
    bytesOf ((match j.loop with
        | some id => 3 + w.loopIndex id * 1024
        | none => 2) + linkBits j.parent) 8 ++ bytesOf (pcAddr j.pc).toNat 8 ++ bytesOf j.wait.toNat 8 ++
      bytesOf j.arrived.toNat 8
/-- A loop-stack entry, 32 bytes. -/
def Wave.loopBytes (w : Wave) (k : Nat) : List Byte :=
  match w.loops.reverse[k]? with
  | some l => bytesOf (pcAddr l.start).toNat 8 ++ bytesOf (pcAddr l.stop).toNat 8 ++ bytesOf l.count.toNat 8 ++
      bytesOf l.mask.toNat 8
  | none => bytesOf 0 32
/-- The counters and bits at 0x018 of a wave block. -/
def Wave.ctrBits (w : Wave) : Nat :=
  let c := w.ctr
  c.ld.toNat + c.st.toNat * 2 ^ 6 + c.cp.toNat * 2 ^ 12 + c.tl.toNat * 2 ^ 18 + c.xr.toNat * 2 ^ 24 + c.nm.toNat * 2 ^ 30 +
    (if w.priv then 2 ^ 36 else 0) + (if w.dfr.isSome then 2 ^ 37 else 0) + (if w.efr.isSome then 2 ^ 38 else 0)
/-- The deferred faults at 0x040 of a wave block. -/
def Wave.deferredBytes (w : Wave) : List Byte :=
  let d : RemoteFault := w.dfr.getD { cause := .ill, slots := 0, target := 0 }
  let e : LoadFault := w.efr.getD { slots := 0, addr := 0, reg := 0, count := 0 }
  bytesOf (if w.dfr.isSome then d.cause.code else 0) 8 ++ bytesOf d.slots.toNat 8 ++ bytesOf d.target.toNat 8 ++
    bytesOf e.slots.toNat 8 ++ bytesOf e.addr.toNat 8 ++ bytesOf (e.reg % 128 + e.count % 8 * 128) 8
/-- A wave block (11 R323). -/
def Wave.block (w : Wave) (regs : Nat) : List Byte :=
  bytesOf w.live.toNat 8 ++ bytesOf w.exited.toNat 8 ++ bytesOf w.mode.toNat 4 ++ bytesOf w.statWord.toNat 4 ++
    bytesOf w.ctrBits 8 ++ bytesOf w.tpc.toNat 8 ++ bytesOf w.tmask.toNat 8 ++ bytesOf w.tcause.toNat 4 ++
    bytesOf w.tstat.toNat 4 ++ bytesOf w.taddr.toNat 8 ++ w.deferredBytes ++ bytesOf 0 0x10 ++
    ((List.range 128).map fun n => w.tags.lookD n 0) ++ (List.range 16).flatMap w.entryBytes ++
    (List.range 4).flatMap w.loopBytes ++ bytesOf 0 0x80 ++
    (List.range regs).flatMap fun n => (List.range 64).flatMap fun t => bytesOf (w.reg n t).toNat 4
/-- A weight slot as an image in its held encoding, padded to 32,800 bytes. -/
def WSlot.image (x : WSlot) : List Byte :=
  let h := [x.tag, x.scale, BitVec.ofNat 8 x.enc, 0] ++ bytesOf x.k 4 ++ bytesOf x.payload.length 4 ++ bytesOf 0 20
  (h ++ x.payload ++ List.replicate (32768 - x.payload.length) 0).take 32800
/-- The matrix block (11 R323): slots, accumulators, histograms. -/
def Matrix.block (m : Matrix) : List Byte :=
  (List.range 4).flatMap (fun t => (m.slot t).image) ++ (List.range 4).flatMap (fun a => (m.acc a).image) ++
    (List.range 4).flatMap fun n => (List.range 32).flatMap fun b => bytesOf ((m.hists.lookD n []).lookD b 0).toNat 4
/-- The ranges of the matrix block that are poisoned: payloads and whole accumulator images. -/
def Matrix.poisonedParts (m : Matrix) : List (Nat × Nat) :=
  ((List.range 4).filterMap fun t => if (m.slot t).poison then some (32800 * t + 32, (m.slot t).payload.length) else none) ++
    (List.range 4).filterMap fun a => if (m.acc a).poison then some (4 * 32800 + 41024 * a, 41024) else none
/-- A 4 KiB unit coded (11 R324). -/
def unitBytes (unit : Nat) (cells : Tab Byte) : List Byte :=
  let word : Nat → Nat := fun j => numOf ((List.range 4).map fun o => cells.lookD (4 * j + o) 0)
  let v := word 0
  if cells = [] then bytesOf (unit * 4) 8
  else if (List.range 1024).all fun j => word j = v then bytesOf (1 + unit * 4 + v * 2 ^ 32) 8
  else bytesOf (2 + unit * 4) 8 ++ (List.range 4096).map fun o => cells.lookD o 0
/-- The cells of unit j of a region. -/
def unitCells (cells : Tab Byte) (j : Nat) : Tab Byte :=
  (cells.filter fun e => 4096 * j ≤ e.1 && e.1 < 4096 * j + 4096).map fun e => (e.1 - 4096 * j, e.2)
/-- The unit descriptors and data of a block. -/
def Image.unitsBytes (x : Image) (size : Nat) : List Byte :=
  (List.range size).flatMap (fun j => unitBytes j (unitCells x.cells j)) ++
    (x.tiles.zipIdx).flatMap fun t => if t.1.dirty then unitBytes (0xF8 + t.2 % 8) t.1.cells else []
/-- A save block (11 R322) without its size field. -/
def Group.blockBody (g : Group) (x : Image) (id : DWord) : List Byte :=
  bytesOf (g.waves.length % 32 + (if x.mat.isSome then 32 else 0) + (if g.held then 64 else 0)) 4 ++ bytesOf id.toNat 8 ++
    bytesOf (g.size + (x.tiles.filter (·.dirty)).length * 256) 4 ++ bytesOf 0 4 ++ bytesOf g.serial 8 ++ bytesOf 0 0x20 ++
    (g.waves.flatMap fun w => w.2.block g.regs) ++ (match x.mat with
      | some m => m.block
      | none => []) ++ x.unitsBytes g.size
/-- A save block. -/
def Group.block (g : Group) (x : Image) (id : DWord) : List Byte :=
  let b := g.blockBody x id
  bytesOf (b.length + 4) 4 ++ b
/-- Bytes written from an address of a context upward, eight at a time; what does not translate is lost (assumption
log 37). -/
def State.writeVa (s : State) (ctx : Nat) (va : DWord) (bs : List Byte) : State :=
  (List.range ((bs.length + 7) / 8)).foldl (fun s j =>
    match s.locate none ctx (va + BitVec.ofNat 64 (8 * j)) .store true with
    | .ok k => s.store ctx k ((bs.drop (8 * j)).take 8)
    | .error _ => s) s
/-- Units of a range of a context become poisoned. -/
def State.poisonVa (s : State) (ctx : Nat) (va : DWord) (n : Nat) : State :=
  (List.range ((n + 15) / 16)).foldl (fun s j =>
    match s.locate none ctx (va + BitVec.ofNat 64 (16 * j)) .store true with
    | .ok k => s.storePoison k
    | .error _ => s) s

/-! ## The end of a context (11 R306; 08 R238; 10 R280; 12 R345) -/

/-- The operation belongs to an engine and ends with ABORT when its context ends. -/
def OpKind.aborts : OpKind → Bool
  | .copy _ _ _ => true
  | .fill _ _ => true
  | .layout _ _ _ _ => true
  | .program _ _ _ _ => true
  | .bank _ => true
  | .search => true
  | .merge _ _ _ _ => true
  | .reduce _ => true
  | _ => false
/-- It is an engine operation (09 R271). -/
def OpKind.engine (k : OpKind) : Bool :=
  k.aborts || match k with
    | .tile => true
    | _ => false
/-- Bank programs, commands and walkers of a context end with ABORT and write nothing further; its empty rows are full
(12 R331). -/
def State.abortEngines (s : State) (ctx : Nat) : State :=
  let stop : Engine → Engine := fun g =>
    let g := { g with queue := g.queue.filter fun l => l.ctx != ctx }
    match g.prog with
    | some p => if p.launch.ctx = ctx then { g with prog := none, code := 0x25, endPc := (endWord p.pc).toNat } else g
    | none => g
  let dead := (s.commands.filter fun c => c.2.ctx = ctx).map (·.1)
  let rows := (s.empty.filter fun e => e.2 = ctx).map fun e => e.1 * 128
  ({ s with engines := s.engines.map fun (e : Nat × Engine) => (e.1, stop e.2),
            commands := s.commands.filter fun c => c.2.ctx != ctx,
            walkers := s.walkers.filter fun w => !dead.contains w.2.cmd,
            ops := s.ops.filter fun o => !(o.2.ctx = ctx && o.2.kind.aborts),
            empty := s.empty.filter fun e => e.2 != ctx } : State).rowsFilled rows
/-- Translations, registrations, tag-table entries and task queues of a context are removed. -/
def State.unregister (s : State) (ctx : Nat) : State :=
  let mine : Nat × Xlat → Bool := fun e => e.1 / 2 ^ 32 != ctx
  { s with
    cores := s.cores.map fun (e : Nat × Core) =>
      (e.1, { e.2 with tlb := e.2.tlb.filter mine, tags := e.2.tags.filter fun t => !(t.2.valid && t.2.owner = ctx) }),
    dies := s.dies.map fun (e : Nat × Die) =>
      (e.1, { e.2 with tlb := e.2.tlb.filter mine, regions := e.2.regions.filter fun r => r.ctx != ctx,
                       indexes := e.2.indexes.filter fun x => x.ctx != ctx }),
    hbm := s.hbm.map fun (e : Nat × Stack) =>
      (e.1, { e.2 with queues := e.2.queues.map fun (q : Nat × Queue) =>
        (q.1, if q.2.en && q.2.ctx = ctx then { q.2 with en := false, head := q.2.tail } else q.2) }) }
/-- The context ends, as by writing kill. -/
def State.killContext (s : State) (ctx : Nat) : State :=
  let s := (s.groups.filter fun e => e.2.ctx = ctx).foldl (fun s e => s.terminate e.1 none) s
  let s := (s.saved.filter fun e => e.2.ctx = ctx).foldl (fun s e => s.terminate e.1 none) s
  let s := { s with saved := s.saved.filter fun e => e.2.ctx != ctx }
  let s := s.onContext ctx fun c => { c with launches := [], saved := 0 }
  (((s.abortEngines ctx).unregister ctx).onContext ctx fun c => { c with en := false }).moved

/-! ## The save of a group (11 R321) -/

/-- The wait of a fragment lets its group be saved: an instruction that is being performed has to end first
(08 R238; assumption log 38). -/
def FragState.saveable : FragState → Bool
  | .waiting (.slots _) => false
  | .waiting (.detach _ _) => false
  | .waiting (.drain _ _ _ _) => false
  | .waiting (.switch _ _ _ _) => false
  | .waiting (.command _ _) => false
  | .waiting (.held _ _) => false
  | _ => true
/-- The operation reads or writes a scratchpad. -/
def Op.inScratch (o : Op) : Bool :=
  match o.kind with
  | .scratchLoad _ _ => true
  | .scratchStore _ => true
  | .copy _ src dst => src.scratch || dst.scratch
  | .fill _ dst => dst.scratch
  | .layout _ _ src _ => isCopyScratch src
  | _ => false
/-- A packet of a group goes to a gang member here that is saved: it cannot be answered before the gang is back. -/
def State.toSaved (s : State) (g : Group) (x : XPart) : Bool :=
  x.pkt.kind && x.pkt.tdev.toNat = s.dev.devnum && s.saved.any fun e => g.sameGang e.2 && e.2.member = descMember x.pkt.desc
/-- An operation of a group has to end before the group moves: what it has still to perform comes before its first access at
the new core, and every release it has made, a remote atomic among them, is performed (09 R275). A load or store packet to
another device may move with it, a packet to a member that is saved too, and what an engine does outside a scratchpad (01 R48;
assumption log 38). -/
def State.staysFor (s : State) (g : Group) (o : Op) : Bool :=
  o.inScratch || match o.kind with
  | .remote _ _ parts => parts.any fun x =>
      !x.answered && !s.toSaved g x && (!x.pkt.kind || x.pkt.tdev.toNat = s.dev.devnum || 4 ≤ x.pkt.ptype.toNat)
  | k => k.ordered
/-- A fragment lets its group be saved; one that waits for request slots does when the group itself keeps them for packets to
a saved member. -/
def State.fragSaveable (s : State) (gid : Nat) (g : Group) (f : Fragment) : Bool :=
  f.st.saveable || match f.st with
  | .waiting (.slots _) => s.ops.any fun o => o.2.gid = gid && match o.2.kind with
      | .remote _ _ parts => parts.any fun x => !x.answered && s.toSaved g x
      | _ => false
  | _ => false
/-- An atomic of a member that is on a core here is on its way to a member: that one is saved once it is performed, since a saved
member answers none (09 R275). -/
def State.atomicTo (s : State) (g : Group) : Bool :=
  s.ops.any fun o => match o.2.kind, s.groups.look o.2.gid with
    | .remote _ _ parts, some h => h.sameGang g && parts.any fun x =>
        !x.answered && x.atomic && x.pkt.kind && x.pkt.tdev.toNat = s.dev.devnum && descMember x.pkt.desc = g.member
    | _, _ => false
/-- Every wave is at an instruction boundary outside a handler; the accesses it has made are performed and nothing of it is
under way in a scratchpad (09 R275; assumption log 38), and the matrix queue of a holder has run (07 R222). -/
def State.atBoundary (s : State) (gid : Nat) (g : Group) : Bool :=
  (g.waves.all fun w => !tsNest w.2.tstat && w.2.frags.all fun f => s.fragSaveable gid g f.2) &&
    (s.groupPending gid).isEmpty && (!s.ops.any fun o => o.2.gid = gid && s.staysFor g o.2) && !s.atomicTo g &&
    ((s.core g.core).mat.holder != some gid || (s.core g.core).mat.queue = [])
/-- It is the turn of the group among those of its context that are to be saved. -/
def State.saveTurn (s : State) (gid : Nat) (g : Group) : Bool :=
  !s.groups.any fun e => e.2.saving && e.2.ctx = g.ctx && e.1 != gid &&
    (e.2.core < g.core || (e.2.core = g.core && (e.2.base < g.base || (e.2.base = g.base && e.1 < gid))))
/-- The fragments of a wave as they are saved (05 R155; 06 R180, R186, R196). -/
def Wave.forSave (w : Wave) (now : Nat) : Wave :=
  (List.range 16).foldl (fun w e => match w.frag? e with
    | some f => match f.st with
      | .sleeping _ => (w.advance e { f with st := .ready } 1 now).getD w
      | .waiting (.event _ _ _ _ _) => w.setFrag e { f with st := .ready }
      | .waiting (.object _ _ _ _) => w.setFrag e { f with st := .ready }
      | .waiting (.counters _) => w.setFrag e { f with st := .ready }
      | .waiting (.exchange _) => w.setFrag e { f with st := .ready }
      | _ => w
    | none => w) w
/-- What the save takes from the core; tiles that a restore has still to place stay as they were saved. -/
def State.imageOf (s : State) (gid : Nat) (g : Group) : Image :=
  let c := s.core g.core
  { cells := s.cellsOf (scratchKey g.core (4096 * g.base)) (4096 * g.size),
    tiles := (g.notes.reverse.filterMap fun k => (c.tags.look k).bind fun e =>
      if e.valid then some { va := e.va, dirty := e.dirty, cells := s.cellsOf (scratchKey g.core (4096 * k)) 4096 }
      else none) ++ (match g.image with
        | some x => x.tiles
        | none => []),
    mat := if c.mat.holder = some gid then some { c.mat with holder := none } else none }
/-- The save block of a group is written; a save that would pass the end of the save area ends the context (11 R321). The hold
latch of each lane block that has a wave of the group is emptied, entries of other groups' waves with it (01 R47; DESIGN
CHOICE, assumption log 90). -/
def State.saveGroup (s : State) (gid : Nat) (g : Group) : State :=
  let s := s.discardHalves gid
  let blocks := g.waves.map fun w => w.2.slot % 4
  let g := { g with saving := false, bound := none,
                    waves := g.waves.map fun (w : Nat × Wave) => (w.1, w.2.forSave s.cycle) }
  let x := s.imageOf gid g
  let c := s.context g.ctx
  let id := match s.launchOf g with
    | some l => l.hdr.workId g.unit g.member 0
    | none => 0
  let b := g.block x id
  let off := if s.saved.any fun e => e.2.ctx = g.ctx then c.saved else 0
  if c.saveSize.toNat * 4096 < off + b.length then
    (s.post g.ctx { workId := id, addr := c.saveBase + BitVec.ofNat 64 (c.saveSize.toNat * 4096), cause := 0x43,
                    core := g.core }).killContext g.ctx
  else
    let va := c.saveBase + BitVec.ofNat 64 off
    let s := s.writeVa g.ctx va b
    let s : State := match x.mat with
      | some m => m.poisonedParts.foldl (fun (s : State) (p : Nat × Nat) =>
          s.poisonVa g.ctx (va + BitVec.ofNat 64 (64 + g.waves.length * (1024 + 256 * g.regs) + p.1)) p.2) s
      | none => s
    let s := s.onContext g.ctx fun c => { c with saved := off + b.length }
    let s := s.removeGroup gid g false
    let s := s.onCore g.core fun c => { c with blocks := c.blocks.map fun (y : Nat × Block) =>
      (y.1, if blocks.contains y.1 then { y.2 with latch := [] } else y.2) }
    { s with saved := s.saved.put gid { g with image := some x } }
/-- GROUP_SAVE: a group to be saved is at its boundary, and its turn has come. -/
def State.groupSave (s : State) (gid : Nat) : Option State :=
  match s.groups.look gid with
  | none => none
  | some g => if g.saving && s.saveTurn gid g && s.atBoundary gid g then some (s.saveGroup gid g) else none
/-- GANG_SAVE_MESSAGE: the members of a unit on this device begin to be saved. -/
def State.gangSaveMessage (s : State) (ctx serial unit : Nat) : Option State :=
  match s.groups.filter fun e => e.2.ofLaunch ctx serial && e.2.unit = unit && !e.2.saving with
  | [] => none
  | gs => some (s.beginSaves false gs)

/-! ## Pre-emption (11 R319) -/

/-- The priority of a group's launch. -/
def State.prioOf (s : State) (g : Group) : Nat :=
  match s.launchOf g with
  | some l => l.hdr.prio
  | none => 0
/-- A launch has a group that is not on a core. -/
def State.pending (s : State) (ctx serial : Nat) (l : Launch) : Bool :=
  s.waits ctx serial l && l.plan.isNone
/-- A group of the launch could be placed. -/
def State.placeable (s : State) (ctx serial : Nat) (l : Launch) : Bool :=
  (s.serve ctx serial l).isSome || l.chunks.any fun k => k.recs != [] && s.takes k.core serial l.hdr
/-- The highest priority of the groups on a core. -/
def State.topPrio (s : State) (core : Nat) : Nat := (s.onThe core).foldl (fun m e => Nat.max m (s.prioOf e.2)) 0
/-- The core a launch pre-empts: one that holds only groups of lower priority, the one whose highest is lowest, then the
highest core number. -/
def State.victim (s : State) (l : Launch) : Option Nat :=
  ((List.range 1152).filter fun c => l.hdr.admits c && ((s.onThe c).any fun e => !e.2.saving) &&
    (s.onThe c).all fun e => s.prioOf e.2 < l.hdr.prio).foldl (fun best c => match best with
      | none => some c
      | some b => if s.topPrio c ≤ s.topPrio b then some c else some b) none
/-- The check for one launch: while no group of it can be placed and some core holds only groups of lower priority, 2^12 ticks
pass before such a core is drained; it is then free for the launch (11 R319; assumption log 94). -/
def State.preemptFor (s : State) (ctx serial : Nat) (l : Launch) : State :=
  let set := fun (s : State) (b : Option Nat) => s.onLaunch ctx serial fun l => { l with blocked := b }
  match if !s.pending ctx serial l || s.placeable ctx serial l then none else s.victim l with
  | none => if l.blocked.isSome then set s none else s
  | some c => match l.blocked with
    | none => set s (some s.tick)
    | some t =>
      if s.tick < t + 2 ^ 12 then s
      else set ((s.beginSaves true (s.onThe c)).onCore c fun x => { x with freeFor := some serial }) (some s.tick)
/-- PREEMPTION_CHECK: every launch is looked at; none when nothing comes of it. -/
def State.preemptionCheck (s : State) : Option State :=
  let t := s.contexts.foldl (fun s c => c.2.launches.foldl (fun s l => s.preemptFor c.1 l.1 l.2) s) s
  if t = s then none else some t

/-! ## Context control (11 R306) -/

/-- CTXCTL.en. Groups on cores are not stopped by clearing it (assumption log 36). -/
def State.writeEn (s : State) (ctx : Nat) (b : Bool) : State :=
  let s := s.onContext ctx fun c => { c with en := b }
  if b then { s with dev := { s.dev with enabledOnce := true } } else s
/-- CTXCTL.stop: resident groups are saved and none starts; cores reserved for a gang of the context are free again. -/
def State.writeStop (s : State) (ctx : Nat) (b : Bool) : State :=
  let s := s.onContext ctx fun c => { c with stop := b }
  if b then
    ((s.context ctx).launches.foldl (fun s l => s.unreserve ctx l.1) s).beginSaves true
      (s.groups.filter fun e => e.2.ctx = ctx)
  else s

/-! ## The time-out of a launch (11 R326) -/

/-- LAUNCH_TIMEOUT: every group of the launch is terminated, and none starts any more; one record is posted. -/
def State.launchTimeout (s : State) (ctx serial : Nat) : Option State :=
  match (s.context ctx).launches.look serial with
  | none => none
  | some l =>
    match l.first with
    | none => none
    | some t =>
      if l.hdr.tmo = 0 || l.ended || s.tick < t + l.hdr.tmo * 1024 then none
      else
        let s := s.post ctx { workId := 0, addr := l.va, cause := 0x40, core := 0x7FF }
        let s := (s.groups.filter fun e => e.2.ofLaunch ctx serial).foldl (fun s e => s.terminate e.1 none) s
        let s := (s.saved.filter fun e => e.2.ofLaunch ctx serial).foldl (fun s e => s.terminate e.1 none) s
        let s := { s with saved := s.saved.filter fun e => !e.2.ofLaunch ctx serial }
        let s := l.chunks.foldl (fun s k => s.releaseTiles { k with filled := [] }) s
        some (s.onLaunch ctx serial fun l => { l with ended := true, next := l.units, chunks := [], plan := none })

/-! ## Assays (06 R184, R185; 11 R325; 14 R375, R376) -/

/-- A core is drained: its groups are saved, and it takes none. -/
def State.drain (s : State) (core : Nat) : State :=
  let s := s.onCore core fun c => { c with drained := true, early := false }
  (s.beginSaves true (s.onThe core)).startAssay core
/-- ASSAY_DRAIN_START: a core of the isle that asked for an early assay, at once; else the next of the rotation, while no core
of the isle is drained (assumption log 95). A core that has failed is passed over. -/
def State.assayDrain (s : State) (isle : Nat) : Option State :=
  let idle := fun c => !(s.core c).drained && !s.failedCore c
  match ((List.range 24).map fun j => 24 * isle + j).find? fun c => (s.core c).early && idle c with
  | some c => some (s.drain c)
  | none =>
    let r : Rotation := s.isles.lookD isle { next := 0, last := 0 }
    if s.tick < r.last + s.dev.asyper / 24 || (List.range 24).any fun j => (s.core (24 * isle + j)).drained then none
    else
      let c := 24 * isle + r.next % 24
      let s := { s with isles := s.isles.put isle { next := (r.next + 1) % 24, last := s.tick } }
      some (if idle c then s.drain c else s)
/-- The tracking list of a core is applied to its objects and cleared (06 R185). -/
def State.applyTracks (s : State) (core : Nat) (passed : Bool) : State :=
  let s := (s.core core).track.foldl (fun s t => match s.locate none t.ctx t.object .atomic true with
    | .ok k => s.confirm t.ctx k t.phase.toNat t.count passed
    | .error _ => s) s
  s.onCore core fun c => { c with track := [] }
/-- ASSAY_COMPLETE. -/
def State.assayComplete (s : State) (core : Nat) (passed : Bool) : Option State :=
  match (s.core core).assay with
  | none => none
  | some t =>
    if s.tick < t + 20000 then none
    else
      let s := s.applyTracks core passed
      let s := s.onCore core fun c => { c with drained := false, assay := none, ro := [], mat := Matrix.empty }
      if passed then some (s.onCore core fun c => { c with seen := [] })
      else
        let s := s.onDie (dieOfCore core) fun d => { d with asyfail := d.asyfail ||| (1#288 <<< (core % 288)) }
        let s := (s.core core).seen.foldl (fun s ctx =>
          s.post ctx { workId := 0, addr := 0, cause := 0x25, core := core }) s
        some (s.interrupt 68)

/-! ## The events -/

/-- DISPATCH_STEP (11 R310): the dispatcher makes one placement. -/
def execDispatchStep (s : State) : Out := onEvent s.dispatchStep

/-- LADLE_FILL (11 R316): the ladle advances the record that waits on a core. Uses core. -/
def execLadleFill (s : State) : Out := onEvent (s.ladleFill s.about.core)

/-- LAUNCH_TIMEOUT (11 R326): the time-out of a launch expires. Uses ctx, serial. -/
def execLaunchTimeout (s : State) : Out := onEvent (s.launchTimeout s.about.ctx s.about.serial)

/-- PREEMPTION_CHECK (11 R319): the pre-emption check runs. -/
def execPreemptionCheck (s : State) : Out := onEvent s.preemptionCheck

/-- GROUP_SAVE (11 R321): a group to be saved reaches its boundary and is saved. Uses gid. -/
def execGroupSave (s : State) : Out := onEvent (s.groupSave s.about.gid)

/-- GANG_SAVE_MESSAGE (11 R319): the save message of a gang arrives from another device. Uses ctx, serial, unit. -/
def execGangSaveMessage (s : State) : Out := onEvent (s.gangSaveMessage s.about.ctx s.about.serial s.about.unit)

/-- GANG_READY (11 R317): a ready message reaches the gang's home. Uses ctx, serial, unit, ready. -/
def execGangReady (s : State) : Out :=
  onEvent (s.about.ready.bind fun r => s.gangReady s.about.ctx s.about.serial s.about.unit r)

/-- GANG_GO (11 R317): the home's go starts the members, or with `flag` ends the gang because its copies differ.
Uses ctx, serial, unit, flag. -/
def execGangGo (s : State) : Out := onEvent (s.gangGo s.about.ctx s.about.serial s.about.unit s.about.flag)

/-- ASSAY_DRAIN_START (11 R325): the rotation drains the next core of an isle. Uses isle. -/
def execAssayDrainStart (s : State) : Out := onEvent (s.assayDrain s.about.isle)

/-- ASSAY_COMPLETE (14 R375): an assay ends. Uses core, flag. -/
def execAssayComplete (s : State) : Out := onEvent (s.assayComplete s.about.core s.about.flag)

/-- ASYFAIL_WRITE (14 R376): the host writes ASYFAIL. Uses die, wide. -/
def execAsyfailWrite (s : State) : Out :=
  onEvent (some (s.hostWrite fun s =>
    s.onDie s.about.die fun d => { d with asyfail := d.asyfail &&& ~~~s.about.wide }))

/-- CTXCTL_EN (11 R306): the host writes CTXCTL.en. Uses ctx, flag. -/
def execCtxctlEn (s : State) : Out := onEvent (some (s.hostWrite fun s => s.writeEn s.about.ctx s.about.flag))

/-- CTXCTL_STOP (11 R306): the host writes CTXCTL.stop. Uses ctx, flag. -/
def execCtxctlStop (s : State) : Out := onEvent (some (s.hostWrite fun s => s.writeStop s.about.ctx s.about.flag))

/-- CTXCTL_KILL (11 R306): the host writes CTXCTL.kill = 1. Uses ctx. -/
def execCtxctlKill (s : State) : Out := onEvent (some (s.hostWrite fun s => s.killContext s.about.ctx))

end Sys2Proof.Machine
end

