-- ==== Sys2Proof/Machine/Reliability.lean ====
section
/-! DEFINITION. Errors: uncorrectable errors in a core or a base die, scrub visits, lost dirty lines, quarantined ways, the
fault map and repairs (01 R23; 14 R367, R368, R371 to R374). -/

namespace Sys2Proof.Machine

/-! ## Errors inside a core or a base die (14 R367) -/

/-- The group whose region holds a slot of a core's scratchpad. -/
def State.regionOwner (s : State) (core slot : Nat) : Option (Nat × Group) :=
  (s.onThe core).find? fun e => e.2.base ≤ slot && slot < e.2.base + e.2.size
/-- The record of a group that ends by an uncorrectable error. -/
def State.errorRecord (s : State) (g : Group) (addr : DWord) : FaultRec :=
  { workId := match s.launchOf g with
      | some l => l.hdr.workId g.unit g.member 0
      | none => 0,
    addr := addr, cause := 0x21, core := g.core }
/-- An uncorrectable error is met; none where there is nothing of that name. -/
def State.upset (s : State) : Upset → Option State
  | .register gid wave slot =>
    (s.wave? gid wave).map fun _ => s.killSlots gid wave [(slot, 0)]
  | .scratch core slot word =>
    match s.regionOwner core slot with
    | some e => some (s.terminate e.1 (some (s.errorRecord e.2 (BitVec.ofNat 64 (4096 * slot + 4 * (word % 1024))))))
    | none => some (s.onCore core fun c => { c with tags := c.tags.del slot })
  | .control gid wave =>
    match s.groups.look gid with
    | some g => (g.waves.look wave).map fun _ => s.terminate gid (some (s.errorRecord g 0))
    | none => none
  | .accumulator core a => some (s.onMatrix core fun m => { m with accs := m.accs.put (a % 4) { m.acc (a % 4) with poison := true } })
  | .weights core t => some (s.onMatrix core fun m => { m with slots := m.slots.put (t % 4) { m.slot (t % 4) with poison := true } })
  | .command op =>
    match s.commands.look op with
    | none => none
    | some c =>
      if !c.accepted then none
      else
        let s := { s with walkers := s.walkers.filter fun w => w.2.cmd != op }
        let s := s.post c.ctx { workId := 0, addr := 0, cause := 0x23, core := 0x7FF }
        some (s.endCommand op c 0x23 false c.ended)
  | .outside key => if 4 ≤ spaceOf key && spaceOf key ≤ 8 then some (s.setPoison key) else none

/-! ## Lost lines (14 R371) -/

/-- The frame of a tier-0 key is retired, under the placement its line was named by; the interrupt is sent. -/
def State.retire (s : State) (key : Nat) (bl : Bool) : State :=
  let f := (frameOfCell bl (cellOf key), bl)
  let die := spaceOf key
  let s := if (s.die die).retired.contains f then s
    else s.onDie die fun d => { d with retired := d.retired ++ [f] }
  s.interrupt 66
/-- A context ends for a lost line, after its record. -/
def State.loseContext (s : State) (ctx pa die : Nat) : State :=
  (s.post ctx { workId := 0, addr := BitVec.ofNat 64 pa, cause := 0x22, core := 0x7FC + die }).killContext ctx
/-- The steps 1 to 3 for a line whose dirty data is lost. A line of the second tier has no frame to retire: its units are
poisoned (assumption log 39). -/
def State.loseLine (s : State) (die tier pa : Nat) (bl readable : Bool) : State :=
  let key := keyOf die tier bl pa
  let owner := ((s.die die).lines.look (key / 128)).map (·.owner)
  let s := s.onDie die fun d => { d with lines := d.lines.del (key / 128) }
  let s := match owner, readable with
    | some c, true => s.loseContext c pa die
    | _, _ => (s.contexts.filter fun c => c.2.en).foldl (fun s c => s.loseContext c.1 pa die) s
  if tier = 0 then s.retire key bl
  else (List.range 8).foldl (fun s j => s.setPoison (key / 128 * 128 + 16 * j)) s

/-! ## Ways (14 R372) -/

/-- The quarantine register of a slice at reset. -/
def QWay.reset : QWay := { ways := 0, corr := 0, held := false }
/-- A way is quarantined: the slice holds its accesses until the way is written back. -/
def State.quarantine (s : State) (die slice : Nat) (way : BitVec 4) : State :=
  s.onDie die fun d =>
    { d with qway := d.qway.modify slice QWay.reset fun q => { q with ways := q.ways ||| (1#16 <<< way.toNat), held := true } }
/-- A corrected error counts against its way: sixteen within 2^30 ticks quarantine it. -/
def State.correctedIn (s : State) (die slice : Nat) (way : BitVec 4) : State :=
  let k := 16 * slice + way.toNat
  let times := (((s.die die).wayErrs.lookD k []).filter fun t => s.tick < t + 2 ^ 30) ++ [s.tick]
  let s := s.onDie die fun d =>
    { d with qway := d.qway.modify slice QWay.reset fun q =>
               { q with corr := if q.corr = BitVec.allOnes 16 then q.corr else q.corr + 1 },
             wayErrs := d.wayErrs.put k times }
  if times.length < 16 then s else s.quarantine die slice way
/-- The way that holds a line of a die: a dirty line's own, else one the slice may have put it in; none where every way is
quarantined and nothing is cached (10 R290; 14 R372). -/
def State.wayHolding (s : State) (die line : Nat) : Option (BitVec 4) :=
  match (s.die die).lines.look line with
  | some l => some (BitVec.ofNat 4 l.way)
  | none => ((s.die die).waysFor die line s.progress).head?.map (BitVec.ofNat 4)
/-- L2_SCRUB_VISIT: what the visit finds in a line of a tier of the die. -/
def State.scrubLine (s : State) (die index : Nat) (bl : Bool) (f : Scrub) : State :=
  let tier := index / 2 ^ 41 % 2
  let pa := index % 2 ^ 41 * 128
  let key := keyOf die tier bl pa
  match f, s.wayHolding die (key / 128) with
  | .clean, _ => s
  | _, none => s
  | .corrected, some way => s.correctedIn die (sliceOf key) way
  | .uncorrectable readable passes, some way =>
    let s := if ((s.die die).lines.look (key / 128)).isSome || !readable then s.loseLine die tier pa bl readable else s
    if passes then s else s.quarantine die (sliceOf key) way
/-- QUARANTINE_WRITEBACK_DONE: the way's dirty lines are in memory. -/
def State.quarantineDone (s : State) (die slice : Nat) : Option State :=
  match (s.die die).qway.look slice with
  | none => none
  | some q =>
    if !q.held then none
    else some (s.onDie die fun d =>
      { d with qway := d.qway.put slice { q with held := false },
               lines := d.lines.filter fun l => !(sliceOf (l.1 * 128) = slice && q.ways.getLsbD l.2.way) })
/-- A write to QWAY re-admits ways. -/
def State.writeQway (s : State) (die slice : Nat) (x : DWord) : State :=
  s.onDie die fun d =>
    { d with qway := d.qway.change slice fun q => { q with ways := q.ways &&& ~~~(x.extractLsb' 0 16) } }

/-! ## The fault map (14 R373) -/

/-- The cell key of a column word. -/
def cellKey (stack : Nat) (c : HbmCell) : Nat := bankKey stack c.pch c.sid c.bank c.row (32 * c.col)
/-- Two cells lie in one bank. -/
def sameBank (a b : HbmCell) : Bool := a.sid = b.sid && a.pch = b.pch && a.bank = b.bank
/-- The errors of a map that still count. -/
def State.mapOf (s : State) (stack : Nat) : List HbmCell :=
  ((s.stack stack).faultMap.filter fun e => s.tick ≤ e.time + 2 ^ 36).map (·.cell)
/-- The distinct columns of a row, and the distinct rows of a column, of a bank. -/
def columnsIn (m : List HbmCell) (c : HbmCell) : List Nat :=
  ((m.filter fun x => sameBank x c && x.row = c.row).map (·.col)).eraseDups
/-- The distinct rows in a column word of a bank. -/
def rowsIn (m : List HbmCell) (c : HbmCell) : List Nat :=
  ((m.filter fun x => sameBank x c && x.col = c.col).map (·.row)).eraseDups
/-- The row of a cell is a row class. -/
def rowClass (m : List HbmCell) (c : HbmCell) : Bool := 3 ≤ (columnsIn m c).length
/-- The bank of a cell is a bank class. -/
def bankClass (m : List HbmCell) (c : HbmCell) : Bool :=
  let b := m.filter fun x => sameBank x c
  (3 ≤ (b.map (·.row)).eraseDups.length && 3 ≤ (b.map (·.col)).eraseDups.length) ||
    2 ≤ ((b.filter (rowClass m)).map (·.row)).eraseDups.length
/-- The request the errors at a cell give rise to, the widest class first (assumption log 40): 0 cell, 1 row, 2 column,
3 bank. -/
def classify (m : List HbmCell) (c : HbmCell) : Option Nat :=
  if bankClass m c then some 3
  else if 3 ≤ (rowsIn m c).length then some 2
  else if rowClass m c then some 1
  else if 4 ≤ (m.filter fun x => x = c).length then some 0
  else none
/-- A request becomes pending where none is; it raises an interrupt (14 R374). -/
def State.fileRequest (s : State) (stack : Nat) : State :=
  let k := s.stack stack
  if k.repair.pend.isSome then s
  else
    let m := s.mapOf stack
    match m.findSome? fun c => (classify m c).map fun x => (x, c) with
    | none => s
    | some r => (s.setStack stack { k with repair := { k.repair with pend := some r } }).interrupt 66
/-- A corrected error enters the fault map; of 512 entries the oldest is replaced. -/
def State.mapError (s : State) (stack : Nat) (c : HbmCell) : State :=
  let s := s.onStack stack fun k =>
    let l := k.faultMap ++ [{ cell := c, time := s.tick }]
    { k with faultMap := l.drop (l.length - 512) }
  s.fileRequest stack
/-- HBM_SCRUB_VISIT: an uncorrectable word poisons both of its units, unless L2 holds their line dirty. -/
def State.scrubWord (s : State) (stack : Nat) (c : HbmCell) (f : Scrub) : State :=
  match f with
  | .clean => s
  | .corrected => s.mapError stack c
  | .uncorrectable _ _ =>
    let key := cellKey stack c
    if ((s.die (dieOfStack stack)).lines.look (key / 128)).isSome then s
    else (s.setPoison key).setPoison (key + 16)

/-! ## Repair (14 R374) -/

/-- The errors a repair or a decline takes out of the map (assumption log 40). -/
def covers (r : Nat × HbmCell) (x : HbmCell) : Bool :=
  sameBank x r.2 && (r.1 = 3 || (r.1 = 2 && x.col = r.2.col) || (r.1 = 1 && x.row = r.2.row) || x = r.2)
/-- The request leaves REPSTAT with its errors, and the next one is looked for. -/
def State.clearRequest (s : State) (stack : Nat) (r : Nat × HbmCell) (f : Repair → Repair) : State :=
  (s.onStack stack fun k =>
    { k with faultMap := k.faultMap.filter fun e => !covers r e.cell, repair := { f k.repair with pend := none } }).fileRequest
    stack
/-- A bank program runs, or a region of kind 1 or 2 is registered, on a pseudo-channel and stack ID. -/
def State.bankUsed (s : State) (stack pch sid : Nat) : Bool :=
  let r := (s.die (dieOfStack stack)).regions
  (r.any fun x => x.kind != 0 && x.stack = stack && x.pch = pch && x.sid = sid) ||
    match (s.engine (64 * stack + pch)).prog with
    | some p => match s.regionAt (dieOfStack stack) p.launch.ctx p.launch.regVa with
      | some x => x.sid = sid
      | none => false
    | none => false
/-- REPCMD.go. -/
def State.repairGo (s : State) (stack : Nat) : State :=
  let k := s.stack stack
  match k.repair.pend with
  | none => s
  | some r =>
    let status := fun n => s.setStack stack { k with repair := { k.repair with last := n } }
    if k.repair.busy.isSome then s
    else if r.1 = 3 && s.bankUsed stack r.2.pch r.2.sid then status 2
    else if r.1 = 3 && 2 ≤ k.spares.lookD r.2.sid 0 then status 3
    else s.setStack stack { k with repair := { k.repair with busy := some r } }
/-- REPCMD.decline. -/
def State.repairDecline (s : State) (stack : Nat) : State :=
  match (s.stack stack).repair.pend, (s.stack stack).repair.busy with
  | some r, none => s.clearRequest stack r id
  | _, _ => s
/-- REPAIR_COMPLETE: data are kept; a retired bank has moved into a spare. -/
def State.repairDone (s : State) (stack : Nat) : Option State :=
  match (s.stack stack).repair.busy with
  | none => none
  | some r =>
    let s := if r.1 = 3 then s.onStack stack fun k =>
        { k with spares := k.spares.modify r.2.sid 0 (· + 1), moved := k.moved ++ [(r.2.sid, r.2.pch, r.2.bank)] }
      else s
    some (s.clearRequest stack r fun p => { p with last := 1, busy := none })

/-! ## The events -/

/-- L2_SCRUB_VISIT (14 R371): a slice visits a line of its die; `index` is the tier and PA div 128. Uses die, index,
scrub. -/
def execL2ScrubVisit (s : State) : Out :=
  onEvent (some (s.scrubLine s.about.die s.about.index s.about.flag s.about.scrub))

/-- HBM_SCRUB_VISIT (14 R371): an HBM channel visits a column word. Uses stack, cell, scrub. -/
def execHbmScrubVisit (s : State) : Out :=
  onEvent (s.about.cell.map fun c => s.scrubWord s.about.stack c s.about.scrub)

/-- QUARANTINE_WRITEBACK_DONE (14 R372): the write-back of a quarantined way ends. Uses die, slice. -/
def execQuarantineWritebackDone (s : State) : Out := onEvent (s.quarantineDone s.about.die s.about.slice)

/-- QWAY_WRITE (14 R372): the host writes QWAY. Uses die, slice, value. -/
def execQwayWrite (s : State) : Out :=
  onEvent (some (s.hostWrite fun s => s.writeQway s.about.die s.about.slice s.about.value))

/-- REPCMD_GO (14 R374): the host commands the pending repair. Uses stack. -/
def execRepcmdGo (s : State) : Out := onEvent (some (s.hostWrite fun s => s.repairGo s.about.stack))

/-- REPCMD_DECLINE (14 R374): the host discards the pending repair request. Uses stack. -/
def execRepcmdDecline (s : State) : Out := onEvent (some (s.hostWrite fun s => s.repairDecline s.about.stack))

/-- REPAIR_COMPLETE (14 R374): a repair finishes. Uses stack. -/
def execRepairComplete (s : State) : Out := onEvent (s.repairDone s.about.stack)

end Sys2Proof.Machine
end

