-- ==== Sys2Proof/Machine/Links.lean ====
section
/-! DEFINITION. The fabric as system software and its links see it: routing tables and generations, drain markers, links
that go down and come up, second-tier links, eye measurements, and the host's access to tier-0 memory (13 R351, R352,
R358, R359, R363, R365; 14 R385, R386). -/

namespace Sys2Proof.Machine

/-! ## Routing tables and generations (13 R358, R359) -/

/-- A generation is in use at the device. -/
def Device.genInUse (d : Device) (g : Bool) : Bool := d.fabPend || d.fabGen = g
/-- A write to an entry of a routing table; it is ignored while the table's generation is in use. Index 512 of a switch is
its SWSTAT, whose busywr a 1 clears. -/
def State.writeRoute (s : State) (t : RouteTable) (i : Nat) (x : Word) : State :=
  match t with
  | .egt g =>
    if s.dev.genInUse g then { s with dev := { s.dev with fabBusy := true } }
    else if g then { s with dev := { s.dev with egt1 := s.dev.egt1.write 0xFFFFFFFF (i % 512) x } }
    else { s with dev := { s.dev with egt0 := s.dev.egt0.write 0xFFFFFFFF (i % 512) x } }
  | .swrt k g =>
    let w := s.switch k
    let d := i % 512
    let y := x &&& 0x3FF
    if i = 512 then (if x.getLsbD 2 then s.setSwitch k { w with busywr := false } else s)
    else if w.retired &&& genBit g = 0 then s.setSwitch k { w with busywr := true }
    else if g then s.setSwitch k { w with rt1 := w.rt1.write (BitVec.ofNat 32 (512 + d)) d y }
    else s.setSwitch k { w with rt0 := w.rt0.write (BitVec.ofNat 32 (512 + d)) d y }
/-- The drain marker of a generation on a strait. -/
def State.marker (s : State) (strait : Nat) (g : Bool) : Packet :=
  { ptype := 9, xop := 0, gen := g, kind := false, scope := 0, ctx := 0, sdev := BitVec.ofNat 9 s.dev.devnum, score := 0x7FF,
    rslot := 0, desc := 0, tdev := 0, tdie := 0, base := 0, key := 0, entries := [], refused := 0, cause := 0, tag := 0,
    strait := BitVec.ofNat 5 strait, zeros := true }
/-- pend is clear once no marker of the device is on its way. -/
def State.settlePend (s : State) : State :=
  if s.net.any fun p => p.ptype = 9 && p.sdev.toNat = s.dev.devnum then s
  else { s with dev := { s.dev with fabPend := false } }
/-- FABGEN_WRITE. A change of gen while pend is 1 is ignored (assumption log 44). -/
def State.writeFabgen (s : State) (x : Word) : State :=
  let s := if x.getLsbD 2 then { s with dev := { s.dev with fabBusy := false } } else s
  let g := x.getLsbD 0
  if g = s.dev.fabGen || s.dev.fabPend then s
  else
    let old := s.dev.fabGen
    let s := { s with dev := { s.dev with fabGen := g, fabPend := true } }
    ((List.range 32).foldl (fun s k => if (s.port k).down then s
      else ({ s with net := s.net ++ [s.marker k old] } : State).transmit k (s.marker k old) 0) s).settlePend
/-- DRAIN_MARKER_ARRIVAL: this device's comes to the switch port it lands on, and was on its way; another's just comes. -/
def State.markerArrives (s : State) (k port : Nat) (g : Bool) : Option State :=
  let own := port = (s.switch k).landing g s.dev.devnum
  let m := s.marker k g
  if 32 ≤ k || 512 ≤ port || (own && (!s.net.contains m || (s.port k).down)) then none
  else
    let s := if own then ({ s with net := s.net.erase m } : State).settlePend else s
    let w := s.switch k
    some ((s.setSwitch k (if g then { w with markers1 := port :: w.markers1.filter (· != port) }
      else { w with markers0 := port :: w.markers0.filter (· != port) })).settleGen k g)

/-! ## Links that go down and come up (13 R351, R352) -/

/-- The contexts whose request on a strait still awaits its response. -/
def State.awaiting (s : State) (strait : Nat) : List Nat :=
  (s.cores.flatMap fun c => (c.2.reqs.filter fun r => r.strait = strait).filterMap fun r =>
    (s.ops.look r.op).map (·.ctx)).eraseDups
/-- A context ends because a request of it may be lost on a strait. -/
def State.loseRequest (s : State) (strait ctx : Nat) : State :=
  (s.post ctx { workId := 0, addr := BitVec.ofNat 64 strait, cause := 0x44, core := 0x7FF }).killContext ctx
/-- The switch ports this device lands on at a switch, under either generation. -/
def State.landings (s : State) (k : Nat) : List Nat :=
  [(s.switch k).landing false s.dev.devnum, (s.switch k).landing true s.dev.devnum].eraseDups
/-- A strait port is down: what its switch holds for this device is discarded, and so are markers that have not left; the
switch counts its port as having passed every marker (13 R352, R359). -/
def State.portDown (s : State) (p : Nat) : State :=
  let s := s.setPort p { s.port p with down := true, retraining := none }
  let s := s.onReport p fun r => { r with down := true }
  let w := s.switch p
  let ls := s.landings p
  let s := s.setSwitch p { w with downPorts := ls ++ w.downPorts.filter fun q => !ls.contains q }
  let gone : Packet → Bool := fun q => q.strait.toNat = p &&
    (if q.ptype = 9 then q.sdev.toNat = s.dev.devnum else !isList q && packetGoal q = s.dev.devnum)
  (({ s with net := s.net.filter fun q => !gone q } : State).settlePend).settleSwitch p
/-- LINK_DOWN: a link has retrained for 2^20 ticks without success. -/
def State.linkDown (s : State) (p : Nat) : Option State :=
  match (s.port p).retraining with
  | none => none
  | some t =>
    if s.tick < t + 2 ^ 20 then none
    else some ((s.awaiting p).foldl (fun s c => s.loseRequest p c) (s.portDown p))
/-- LOST_NOTICE: for a context that has a request on the strait. -/
def State.lostNotice (s : State) (ctx strait : Nat) : Option State :=
  let mine : Packet → Bool := fun p => p.ptype = 10 && p.strait.toNat = strait && p.ctx.toNat = ctx &&
    packetGoal p = s.dev.devnum
  if (s.awaiting strait).contains ctx && !(s.port strait).down then
    some (((s.net.filter mine).foldl (fun s p => s.leaves p) s).loseRequest strait ctx)
  else none
/-- LINK_RETRAIN_COMPLETE, within 2^20 ticks: the flits that are not acknowledged are sent again, in order, and sending goes
on. -/
def State.retrained (s : State) (p : Nat) : Option State :=
  let x := s.port p
  match x.retraining with
  | none => none
  | some t =>
    if t + 2 ^ 20 ≤ s.tick then none
    else some (s.setPort p { x with retraining := none, tries := 0, asked := 0, wire := x.replay }.fill)
/-- LINK_BRING_UP: the link starts again from its first flit (assumption log 45). -/
def State.linkUp (s : State) (p : Nat) : Option State :=
  if !(s.port p).down then none
  else
    let s := (s.setPort p Port.reset).onReport p fun r => { r with down := false }
    let w := s.switch p
    let ls := s.landings p
    some (s.setSwitch p { w with downPorts := w.downPorts.filter fun q => !ls.contains q })

/-! ## Second-tier links (13 R365) -/

/-- CXL_LINK_FAILURE: one record is posted to every enabled context (assumption log 46), unless the die's other link has
failed already and is not restored. -/
def State.cxlFail (s : State) (die link : Nat) : Option State :=
  if 4 ≤ die || 2 ≤ link || (s.die die).cxlDown.contains link then none
  else
    let first := (s.die die).cxlDown = []
    let s := s.onDie die fun d => { d with cxlDown := link :: d.cxlDown }
    let s := s.onReport (32 + 2 * die + link) fun r => { r with down := true }
    if !first then some s
    else some ((s.contexts.filter fun c => c.2.en).foldl (fun s c =>
      s.post c.1 { workId := 0, addr := BitVec.ofNat 64 (2 * die + link), cause := 0x46, core := 0x7FF }) s)
/-- CXL_LINK_RESTORE. -/
def State.cxlRestore (s : State) (die link : Nat) : Option State :=
  if !(s.die die).cxlDown.contains link then none
  else some ((s.onDie die fun d => { d with cxlDown := d.cxlDown.filter (· != link) }).onReport (32 + 2 * die + link)
    fun r => { r with down := false })

/-! ## Eye measurements (14 R386) -/

/-- The report of a link. -/
def linkKey : LinkId → Nat
  | .strait p => p % 32
  | .cxl l => 32 + l % 8
  | .ucie m => 40 + m % 4
/-- The period of 2^24 reference ticks that a tick lies in. -/
def eyePeriod (tick : Nat) : Nat := tick / 2 ^ 24
/-- The change of width per 2^30 reference ticks between two measurements; 0 at the first (assumption log 115). -/
def Report.slopeTo (r : Report) (width period : Nat) : Int :=
  if r.period = 0 then 0
  else
    let x : Int := ((width : Int) - (r.width : Int)) * 64 / ((period - r.period : Nat) : Int)
    if x < -32768 then -32768 else if 32767 < x then 32767 else x
/-- The report after a measurement; `own` tells that the link's replays and retrains are counted elsewhere. -/
def Report.renew (r : Report) (e : Eye) (own : Bool) (period : Nat) : Report :=
  { r with width := e.width, height := e.height, lane := e.lane, slope := r.slopeTo e.width period, period := period,
           fecc := Nat.min (r.fecc + e.fecc) 0xFFFFFFFF, fecu := Nat.min (r.fecu + e.fecu) 0xFFFFFFFF,
           replays := if own then r.replays else Nat.min (r.replays + e.replays) 0xFFFFFFFF,
           retrains := if own then r.retrains else Nat.min (r.retrains + e.retrains) 0xFFFF }
/-- EYE_MEASUREMENT, once in each period: the report is renewed, and an alert raised when the width will fall below its
threshold. -/
def State.measure (s : State) (l : LinkId) (e : Eye) : Option State :=
  let r := s.report (linkKey l)
  if eyePeriod s.tick ≤ r.period then none
  else
    let r := r.renew e (linkKey l < 32) (eyePeriod s.tick)
    let low := (r.width : Int) + r.slope * (r.hor : Int) < (r.thr : Int)
    let s := s.setReport (linkKey l) { r with alert := r.alert || low }
    some (if low then s.interrupt 67 else s)

/-! ## The host's access to tier-0 memory (13 R363; 14 R385) -/

/-- A window permits an access of n bytes. -/
def HostWin.permits (w : HostWin) (pa n : Nat) (write : Bool) : Bool :=
  w.base.toNat ≤ pa / 65536 && (pa + n - 1) / 65536 ≤ w.limit.toNat && (if write then w.w else w.r)
/-- The host is answered. -/
def State.answerHost (s : State) (error : Bool) (bytes : List Byte) (poison : List Bool) : State :=
  { s with dev := { s.dev with answer := some { error := error, bytes := bytes, poison := poison } } }
/-- The 16-byte units that n bytes touch. -/
def unitsIn (pa n : Nat) : Nat := (pa % 16 + n + 15) / 16
/-- HOST_CXL_MEM_ACCESS at an offset of the device's HDM range, in which die d has the 512 GiB from d × 512 GiB: a read brings
back bytes and their poison, zeros for poisoned units; a write goes through to memory and leaves its lines clean. A refused read returns poison, a
refused write is discarded, and either sets hostvio (14 R368, R385). Before stage 3, and outside the HDM range, the request
completes with an error (14 R381). The host's addresses are interleaved (assumption logs 47 and 103). -/
def State.hostAccess (s : State) (offset : Nat) (a : HostAccess) : Option State :=
  let die := offset / 2 ^ 39
  let pa := offset % 2 ^ 39
  let n := match a with
    | .read n => n
    | .write bs => bs.length
  let keys := (List.range n).map fun j => hbmKey die (pa + j)
  let write := match a with
    | .read _ => false
    | .write _ => true
  if s.dev.stage != 3 || 4 ≤ die || 2 ^ 39 < pa + n then some (s.answerHost true [] [])
  else if !(s.die die).hostWin.any fun w => w.1 < 8 && w.2.permits pa n write then
    let s := { s with dev := { s.dev with hostvio := true } }
    some (if write then s.answerHost false [] []
      else s.answerHost false (List.replicate n 0) (List.replicate (unitsIn pa n) true))
  else if keys.any s.accessHeld then none
  else match a with
    | .read _ => some (s.answerHost false (keys.map fun k => if s.poisoned k then 0 else s.byte k)
        ((List.range (unitsIn pa n)).map fun j => s.poisoned (hbmKey die (pa / 16 * 16 + 16 * j))))
    | .write bs =>
      let lines := (keys.map (· / 128)).eraseDups
      let s := lines.foldl (fun s l =>
        let mine := (keys.zip bs).filter fun e => e.1 / 128 = l
        match mine.head? with
        | some e => s.storeCell e.1 (mine.map (·.2))
        | none => s) s
      some ((s.onDie die fun d => { d with lines := lines.foldl (fun t l => t.del l) d.lines }).answerHost false [] [])

/-! ## The events -/

/-- LOST_NOTICE (13 R352): a lost notice for a request of context `ctx` on strait `port` arrives. Uses ctx, port. -/
def execLostNotice (s : State) : Out := onEvent (s.lostNotice s.about.ctx s.about.port)

/-- ROUTING_TABLE_WRITE (13 R359): the host writes one routing-table entry. Uses table, index, value. -/
def execRoutingTableWrite (s : State) : Out :=
  onEvent (s.about.table.map fun t => s.hostWrite fun s =>
    s.writeRoute t s.about.index (s.about.value.extractLsb' 0 32))

/-- FABGEN_WRITE (13 R359): the host writes FABGEN. Uses value. -/
def execFabgenWrite (s : State) : Out :=
  onEvent (some (s.hostWrite fun s => s.writeFabgen (s.about.value.extractLsb' 0 32)))

/-- FLIT_RECEIVE (13 R351): a strait port receives a 256-byte flit. Uses port, flit. -/
def execFlitReceive (s : State) : Out := onEvent (s.flitReceive s.about.port s.about.flit)

/-- LINK_DOWN (13 R352): a strait link that has not retrained goes down. Uses port. -/
def execLinkDown (s : State) : Out := onEvent (s.linkDown s.about.port)

/-- DRAIN_MARKER_ARRIVAL (13 R359): a drain marker of a generation reaches a switch input port. Uses switch, port,
flag. -/
def execDrainMarkerArrival (s : State) : Out := onEvent (s.markerArrives s.about.switch s.about.port s.about.flag)

/-- EYE_MEASUREMENT (14 R386): the eye of a link is measured. Uses link, eye. -/
def execEyeMeasurement (s : State) : Out :=
  onEvent (match s.about.link, s.about.eye with
    | some l, some e => s.measure l e
    | _, _ => none)

/-- CXL_LINK_FAILURE (13 R365): a second-tier link fails. Uses die, index. -/
def execCxlLinkFailure (s : State) : Out := onEvent (s.cxlFail s.about.die s.about.index)

/-- HOST_CXL_MEM_ACCESS (13 R363): the host reads or writes device memory at an offset of the HDM range. Uses index,
access. -/
def execHostCxlMemAccess (s : State) : Out :=
  onEvent (s.about.access.bind fun a => s.hostAccess s.about.index a)

/-- LINK_RETRAIN_COMPLETE (13 R351): a strait link finishes retraining. Uses port. -/
def execLinkRetrainComplete (s : State) : Out := onEvent (s.retrained s.about.port)

/-- LINK_BRING_UP (13 R352): system software brings a strait link up. Uses port. -/
def execLinkBringUp (s : State) : Out := onEvent (s.linkUp s.about.port)

/-- CXL_LINK_RESTORE (13 R365): system software restores a second-tier link. Uses die, index. -/
def execCxlLinkRestore (s : State) : Out := onEvent (s.cxlRestore s.about.die s.about.index)

end Sys2Proof.Machine
end

