-- ==== Sys2Proof/Machine/Paging.lean ====
section
/-! DEFINITION. Page mapping and invalidation (10 R293 to R297). -/

namespace Sys2Proof.Machine

/-! ## The page pool (10 R293) -/

/-- A pool's header: base, log2 of its entries, head and tail. -/
structure Pool where
  pa : Nat
  base : Nat
  lgsize : Nat
  head : Nat
  tail : Nat
  deriving DecidableEq, Repr

/-- The pool of a context on a die; a header that is not good, or is poisoned, is an empty pool. -/
def State.pool (s : State) (die ctx : Nat) : Option Pool :=
  let r := ((s.die die).tpool.lookD ctx 0).toNat
  let pa := bitsOf r 47 6 * 64
  let rd : Nat → Nat → Nat := fun o n => s.num (hbmKey die (pa + o)) n
  if r % 2 = 0 || s.poisonedIn (hbmKey die pa) 64 then none
  else if rd 6 2 != 0 || rd 8 4 / 32 != 0 || rd 0x0C 4 != 0 || rd 0x18 8 != 0 || rd 0x20 32 != 0 || rd 8 4 < 4 ||
      24 < rd 8 4 then none
  else some { pa := pa, base := rd 0 6, lgsize := rd 8 4, head := rd 0x10 4, tail := rd 0x14 4 }
/-- The first n frames of the ring that are not retired, from entry j on, and the entry after the last one scanned; none
when too few are left or an entry is not good. -/
def State.takeFrames (s : State) (die : Nat) (p : Pool) : Nat → Nat → Nat → Option (List Nat × Nat)
  | _, j, 0 => some ([], j)
  | 0, _, _ => none
  | left + 1, j, n + 1 =>
    let f := s.num (hbmKey die (p.base + 4 * (j % 2 ^ p.lgsize))) 4
    if 2 ^ 23 ≤ f then none
    else if (s.die die).retired.any fun r => r.1 = f then s.takeFrames die p left ((j + 1) % 2 ^ 32) (n + 1)
    else (s.takeFrames die p left ((j + 1) % 2 ^ 32) n).map fun x => (f :: x.1, x.2)

/-- A line of tier 0 filled with zeros. -/
def State.zeroLine (s : State) (ctx key : Nat) : State :=
  { s with mem := Tab.delRange s.mem key 128, narrow := Tab.delRange s.narrow key 128,
           poison := Tab.delRange s.poison (key / 16) 8 }.dirtyLine ctx key
/-- Line j of a frame filled with zeros. -/
def zeroFrameLine (ctx die f : Nat) (s : State) (j : Nat) : State := s.zeroLine ctx (hbmKey die (f * 65536 + 128 * j))
/-- A frame filled with zeros. -/
def State.zeroFrame (s : State) (ctx die f : Nat) : State := (List.range 512).foldl (zeroFrameLine ctx die f) s
/-- A table entry written. -/
def State.setEntry (s : State) (ctx die pa e : Nat) : State := s.store ctx (hbmKey die pa) (bytesOf e 8)
/-- The frames of a mapping entered into the tables, from the level that misses an entry: tables first, the page last. -/
def State.enter (s : State) (ctx die off fl : Nat) : Nat → Nat → List Nat → State
  | _, _, [] => s
  | level, table, f :: r =>
    let idx := if level = 1 then bitsOf off 47 34 else if level = 2 then bitsOf off 33 21 else bitsOf off 20 16
    let e := if r = [] then 3 + fl % 8 * 16 + f * 65536 else 1 + f * 65536
    ((s.zeroFrame ctx die f).setEntry ctx die (table + 8 * idx) e).enter ctx die off fl (level + 1) (f * 65536) r

/-- The 64 KiB page of an address is mapped: the read-only partitions return nothing that its frame held before (10 R295). -/
def State.freshPage (s : State) (ctx : Nat) (va : DWord) : State :=
  s.roRefresh ctx (va.toNat / 2 ^ 16 * 2 ^ 16) (va.toNat / 2 ^ 16 * 2 ^ 16 + 2 ^ 16)
/-- pgmap for one slot: the state after it and its status (10 R295). -/
def State.mapPage (s : State) (ctx : Nat) (va : DWord) (fl : Word) : State × Nat :=
  if vaDevice va != s.dev.devnum || 4 ≤ vaDie va || va.extractLsb' 48 4 != 0 || fl.extractLsb' 3 29 != 0 then (s, 3)
  else
    let die := vaDie va
    match s.walk die ctx (vaOffset va) with
    | .poisonMet => (s, 3)
    | .leaf _ => (s, 1)
    | .missing 0 _ => (s, 3)
    | .missing level table =>
      match s.pool die ctx with
      | none => (s, 2)
      | some p =>
        match s.takeFrames die p ((p.tail + 2 ^ 32 - p.head) % 2 ^ 32) p.head (4 - level) with
        | none => (s, 2)
        | some x =>
          (((s.enter ctx die (vaOffset va) fl.toNat level table x.1).store ctx (hbmKey die (p.pa + 0x10)) (bytesOf x.2 4)).freshPage
            ctx va, 0)
/-- pgmap: every slot of F, ascending. -/
def State.pgmapAt (s : State) (fr : Frame) (i : Instr) (d a b : Reg) : State :=
  match fr.look.first (pairCheck a ++ [(b, isInt)]) with
  | some r => s.trapAll fr .tag fr.act r 0
  | none => match s.releaseAt fr.gid fr.wid fr.act 4 with
    | none => s.holdOn fr
    | some s =>
      let r := (slotsOf fr.act).foldl (fun (x : State × Tab Word) t =>
        let y := x.1.mapPage fr.g.ctx (fr.v.pair a.toNat t) (fr.v.reg b.toNat t)
        (y.1, x.2.put t (BitVec.ofNat 32 y.2))) (s, [])
      r.1.finish fr ((fr.w.writeCol d.toNat fr.act fun t => r.2.lookD t 0).setTag d.toNat 0x11) i

/-! ## Invalidation (10 R296) -/

/-- The range of addresses a pginv names, as [lo, hi). -/
def pginvRange (va : DWord) (k : Nat) : Nat × Nat :=
  let x := va.toNat
  if k = 0 then (x / 2 ^ 16 * 2 ^ 16, x / 2 ^ 16 * 2 ^ 16 + 2 ^ 16)
  else if k = 1 then (x / 2 ^ 21 * 2 ^ 21, x / 2 ^ 21 * 2 ^ 21 + 2 ^ 21)
  else (x / 2 ^ 48 * 2 ^ 48, x / 2 ^ 48 * 2 ^ 48 + 2 ^ 48)
/-- The translations of a range leave the owner die's TLBs, and its lines every read-only partition, which returns
nothing older from now on. -/
def State.invalidate (s : State) (ctx die lo hi : Nat) : State :=
  let k := tlbKey ctx (lo % 2 ^ 48)
  let n := (hi - lo) / 2 ^ 16
  let s := s.onDie die fun d => { d with tlb := Tab.delRange d.tlb k n }
  ({ s with cores := s.cores.map fun (e : Nat × Core) =>
      (e.1, { e.2 with tlb := if dieOfCore e.1 = die then Tab.delRange e.2.tlb k n else e.2.tlb }) } : State).roRefresh ctx lo hi
/-- pginv. -/
def State.pginvAt (s : State) (fr : Frame) (i : Instr) (d a b : Reg) : State :=
  match fr.look.first (pairCheck a ++ [(b, isInt)]) with
  | some r => s.trapAll fr .tag fr.act r 0
  | none => match s.releaseAt fr.gid fr.wid (BitVec.allOnes 64) 4 with
    | none => s.holdOn fr
    | some s =>
      let va := fr.v.pair a.toNat fr.u
      let k := (fr.v.reg b.toNat fr.u).toNat
      let reply : State → Word → State := fun s x => s.finish fr (fr.w.objectResult d fr.act x) i
      if vaDevice va != s.dev.devnum || 4 ≤ vaDie va || va.extractLsb' 48 4 != 0 || 3 ≤ k then reply s 2
      else
        let r := pginvRange va k
        if (s.pinned (vaDie va) fr.g.ctx).any fun x => x.1 < r.2 && r.1 < x.1 + x.2 then reply s 1
        else
          let s := s.invalidate fr.g.ctx (vaDie va) r.1 r.2
          if s.ops.any fun e => e.2.within fr.g.ctx r.1 r.2 then
            s.waitOn fr fr.w (.waiting (.drain d r.1 r.2 s.nextOp))
          else reply s 0

/-! ## The instructions -/

/-- pgmap: Maps first-touch pages from the die's frame pool (10 R295). -/
def execPgmap (hold : BitVec 2) (d : Reg) (a : Reg) (b : Reg) (s : State) : Out :=
  onCoreOnly (.pgmap hold d a b) s fun fr => s.pgmapAt fr (.pgmap hold d a b) d a b

/-- pginv: Removes translations of a range and waits for accesses using them (10 R296). -/
def execPginv (hold : BitVec 2) (d : Reg) (a : Reg) (b : Reg) (s : State) : Out :=
  onCoreOnly (.pginv hold d a b) s fun fr => s.pginvAt fr (.pginv hold d a b) d a b

end Sys2Proof.Machine
end

