-- ==== Sys2Proof/Machine/Platform.lean ====
section
/-! DEFINITION. The platform as the host sees it: telemetry and the emergency step, power states and limits, bring-up,
identity and firmware, the controllers' restart, the host's arrivals, translation registers, and the register window
(07 R211; 10 R280, R301; 11 R306; 12 R329, R345, R347; 13 R364; 14 R377 to R386). -/

namespace Sys2Proof.Machine

/-! ## Telemetry and the emergency step (14 R378 to R380) -/

/-- The average of a list. -/
def average (l : List Nat) : Nat := l.foldl (· + ·) 0 / l.length
/-- A rail after a sample: the last 100 powers, their average, the energy summed. -/
def Rail.sample (r : Rail) (x : RailReading) : Rail :=
  let last := ((x.mw % 2 ^ 24) :: r.last).take 100
  { mv := x.mv % 2 ^ 16, ma := x.ma % 2 ^ 24, mw := average last, uj := (r.uj + x.uj) % 2 ^ 64, last := last }
/-- The power of a die's three rails, in mW. -/
def State.diePower (s : State) (die : Nat) : Nat :=
  (s.rail (3 * die)).mw + (s.rail (3 * die + 1)).mw + (s.rail (3 * die + 2)).mw
/-- The boiling condition. -/
def Power.boils (p : Power) (mw : Nat) : Bool :=
  (p.blPwr != 0 && p.blPwr * 1000 < mw) || (p.blTemp != 0 && p.blTemp < p.temp.toNat % 256)
/-- What a sample does to the power registers of a die, and whether a step is taken. -/
def Power.sample (p : Power) (mw : Nat) : Power × Bool :=
  let hot := p.boils mw
  let n := if hot then p.run + 1 else 0
  let p := { p with above := p.cap * 1000 < mw, hot := hot, run := n }
  if p.blEn && n = p.dwell then
    ({ p with mduty := Nat.max p.dmin (p.mduty - p.dstep), stepped := true, steps := Nat.min 65535 (p.steps + 1), run := 0 },
     true)
  else (p, false)
/-- A die at a sample. A step never raises a limit: a duty below dmin stays. -/
def State.sampleDie (s : State) (die : Nat) : State :=
  let old := (s.die die).power
  let r := old.sample (s.diePower die)
  let s := s.onDie die fun d => { d with power := { r.1 with mduty := Nat.min old.mduty r.1.mduty } }
  let s := if r.2 then
      ([0, 1, 2, 3].foldl (fun s k => s.onStack (4 * die + k) fun x => { x with bact := Nat.max 1 (x.bact - old.bstep) })
        s).interrupt 65
    else s
  if r.1.above then s.interrupt 65 else s
/-- TELEMETRY_SAMPLE: a sample every 1,000 ticks, the first at tick 1,000 (assumption log 101). -/
def State.telemetry (s : State) (rails : List RailReading) (temps : List (Nat × Nat)) : Option State :=
  if s.tick != s.dev.nextSample then none
  else
    let s := (List.range 31).foldl (fun (s : State) r => match rails[r]? with
      | some x => { s with rails := s.rails.put r ((s.rail r).sample x) }
      | none => s) s
    let s := (List.range 4).foldl (fun (s : State) d => match temps[d]? with
      | some t => s.onDie d fun x =>
          { x with power := { x.power with temp := BitVec.ofNat 32 (t.1 % 256 + t.2 % 256 * 256) } }
      | none => s) s
    let above := s.dev.pkgcap * 1000 < (s.rail 30).mw
    let s := { s with dev := { s.dev with nextSample := s.dev.nextSample + 1000, pkgover := above } }
    some ([0, 1, 2, 3].foldl (fun s d => s.sampleDie d) (if above then s.interrupt 65 else s))

/-! ## Power states and limits (07 R211; 12 R329; 14 R379) -/

/-- Some group is on a core of a die. -/
def State.dieUsed (s : State) (die : Nat) : Bool := s.groups.any fun e => dieOfCore e.2.core = die
/-- PSTATE.cur: a halt is reached once no group is left on the die. -/
def State.pstateCur (s : State) (die : Nat) : Nat :=
  let p := (s.die die).power
  if p.req = 2 && !s.dieUsed die then 2 else p.cur
/-- PSTATE.req is written. -/
def State.setPstate (s : State) (die req : Nat) : State :=
  if req = 2 then
    (s.onDie die fun d => { d with power := { d.power with req := 2 } }).beginSaves true
      (s.groups.filter fun e => dieOfCore e.2.core = die)
  else s.onDie die fun d => { d with power := { d.power with req := req, cur := req } }
/-- MDUTY is written; 0 and 65 to 127 are ignored. -/
def State.writeMduty (s : State) (die x : Nat) : State :=
  let n := x % 128
  if n = 0 || 64 < n then s else s.onDie die fun d => { d with power := { d.power with mduty := n } }
/-- BACT is written; 0 and 17 to 31 are ignored. -/
def State.writeBact (s : State) (stack x : Nat) : State :=
  let n := x % 32
  if n = 0 || 16 < n then s else s.onStack stack fun k => { k with bact := n }

/-! ## Bring-up, firmware and identity (14 R381 to R383) -/

/-- The device is reset. Host memory, the switches and the repairs of the stacks are outside it or fused (assumption log
41). -/
def State.deviceReset (s : State) : State :=
  { State.reset with
    cycle := s.cycle, schedule := s.schedule, mem := s.mem.filter fun e => spaceOf e.1 = 8,
    poison := s.poison.filter fun e => spaceOf (16 * e.1) = 8, switches := s.switches,
    hbm := s.hbm.map fun e => (e.1, { Stack.reset with spares := e.2.spares, moved := e.2.moved }),
    dev := { Device.reset with nextSample := s.tick + 1000 } }
/-- The device has failed. -/
def State.fail (s : State) (err : Nat) : State := { s with dev := { s.dev with stage := 7, err := err } }
/-- The error of the first image the root of trust refuses. -/
def imageError (l : List (List Byte)) : Option Nat :=
  l.findSome? fun x => if !Config.signatureOk x then some 1 else if !Config.versionOk x then some 2 else none
/-- The image in FWWIN. -/
def Device.image (d : Device) : List Byte := (List.range 65536).map fun j => d.fwBytes.lookD j 0
/-- FWCTL: the image is verified; the third accepted image ends boot. Images are taken until then only. -/
def State.submitImage (s : State) : State :=
  if 2 ≤ s.dev.stage then s
  else match imageError [s.dev.image] with
    | some e => s.fail e
    | none =>
      let l := s.dev.images ++ [s.dev.image]
      { s with dev := { s.dev with images := l, stage := if l.length = 3 then 2 else 1 } }
/-- TRAIN_COMPLETE. -/
def State.trained (s : State) (err : Nat) (ports : List Nat) : Option State :=
  if s.dev.stage != 2 then none
  else if err = 0 then
    some (ports.foldl (fun s p => s.portDown (p % 32)) { s with dev := { s.dev with stage := 3 } })
  else if err = 3 || err = 4 then some (s.fail err)
  else none
/-- The nonce is written; ignored while a signature is being made. -/
def State.challenge (s : State) (x : BitVec 256) : State :=
  if s.dev.idBusy then s else { s with dev := { s.dev with idChal := x, idBusy := true } }
/-- The message the root of trust signs: the nonce, the serial number, and the boot measurement, which is the digest of the
digests of the images in load order (14 R382; assumption log 116). -/
def Device.message (d : Device) : List Byte :=
  bytesOf d.idChal.toNat 32 ++ bytesOf Config.serial.toNat 16 ++ sha512 (d.images.flatMap sha512)
/-- ID_SIGN_COMPLETE. -/
def State.signed (s : State) : Option State :=
  if s.dev.idBusy then
    some { s with dev := { s.dev with idBusy := false, idResp := Config.sign s.dev.message } }
  else none
/-- DEVNUM is written. -/
def State.writeDevnum (s : State) (x : Nat) : State :=
  if s.dev.enabledOnce then s else { s with dev := { s.dev with devnum := x % 512 } }
/-- CTLRST: the images are verified again, then every named controller restarts (12 R347; 14 R383). -/
def State.restart (s : State) (x : Nat) : State :=
  match imageError s.dev.images with
  | some e => s.fail e
  | none => (List.range 16).foldl (fun s k =>
      if x.testBit k then ((s.controllerStop k).getD s).onStack k fun y => { y with stopped := false } else s) s

/-! ## The host's arrivals (13 R364) -/

/-- HARRP: an arrival with n = 1, confirmed at once; a refused object makes a record (assumption log 42). -/
def State.hostArrive (s : State) (ctx : Nat) (phase : Word) : State :=
  let va := (s.context ctx).harra
  match (if va.toNat % 64 != 0 then Except.error Cause.align else s.locate none ctx va .atomic true) with
  | .ok k => s.arrive ctx k phase.toNat 1 true
  | .error _ => s.post ctx { workId := 0, addr := va, cause := 0x45, core := 0x7FF }

/-! ## Translation and context registers (10 R280; 11 R306) -/

/-- The context has a resident group or an outstanding engine operation, a launch in its queue among them (09 R271). -/
def State.contextBusy (s : State) (ctx : Nat) : Bool :=
  (s.groups.any fun e => e.2.ctx = ctx) || (s.context ctx).launches != [] || s.ops.any fun o => o.2.ctx = ctx && o.2.kind.engine
/-- The writable bits of TROOT and of TPOOL. -/
def trootMask : DWord := 0x0000_FFFF_FFFF_F001#64
/-- The writable bits of TPOOL. -/
def tpoolMask : DWord := 0x0000_FFFF_FFFF_FFC1#64
/-- TROOT, or TPOOL, of a context is written. -/
def State.writeTranslation (s : State) (die ctx : Nat) (pool : Bool) (x : DWord) : State :=
  if s.contextBusy ctx then s
  else s.onDie die fun d =>
    if pool then { d with tpool := d.tpool.put ctx (x &&& tpoolMask) } else { d with troot := d.troot.put ctx (x &&& trootMask) }
/-- CTXSUP, CTXSAVE and CTXSSZ are written, while the context has no resident or saved group. -/
def State.writeContext (s : State) (ctx : Nat) (f : Context → Context) : State :=
  if (s.groups.any fun e => e.2.ctx = ctx) || s.saved.any fun e => e.2.ctx = ctx then s else s.onContext ctx f
/-- CTXCTL is written. -/
def State.writeCtxctl (s : State) (ctx : Nat) (x : DWord) : State :=
  let s := (s.writeEn ctx (x.getLsbD 0)).writeStop ctx (x.getLsbD 1)
  if x.getLsbD 2 then s.killContext ctx else s

/-! ## Writes to the register window (14 R384) -/

/-- Bits of a wide register replaced by a 64-bit slot. -/
def setSlot {n : Nat} (old : BitVec n) (slot : Nat) (x : DWord) : BitVec n :=
  let m : BitVec n := (BitVec.allOnes 64).setWidth n <<< (64 * slot)
  (old &&& ~~~m) ||| ((x.setWidth n <<< (64 * slot)) &&& m)
/-- The device's own registers that answer before stage 3: the nonce, whose last slot starts the signing, FWCTL and the
firmware window. -/
def State.writeEarly (s : State) (o : Nat) (x : DWord) : State :=
  if o = 0x30 then s.submitImage
  else if 0x60 ≤ o && o < 0x80 then
    let y := setSlot s.dev.idChal ((o - 0x60) / 8) x
    if s.dev.idBusy then s
    else if o = 0x78 then s.challenge y
    else { s with dev := { s.dev with idChal := y } }
  else if 0x10000 ≤ o && o < 0x20000 then
    { s with dev := { s.dev with fwBytes := (List.range 8).foldl (fun t j =>
        t.write 0 (o - 0x10000 + j) (x.extractLsb' (8 * j) 8)) s.dev.fwBytes } }
  else s
/-- The device's own registers that answer in stage 3. -/
def State.writeDevice (s : State) (o : Nat) (x : DWord) : State :=
  if o = 0x10 then s.writeDevnum x.toNat
  else if o = 0x18 then { s with dev := { s.dev with asyper := x.toNat % 2 ^ 32 } }
  else if o = 0x20 then
    (if 4000 < x.toNat % 2 ^ 32 then s else { s with dev := { s.dev with pkgcap := x.toNat % 2 ^ 32 } })
  else if o = 0x38 then s.restart (x.toNat % 2 ^ 16)
  else s
/-- SMPCTL is written; lgn outside 8 to 20 is ignored. -/
def Sampler.writeCtl (m : Sampler) (x : DWord) : Sampler :=
  let n := bitsOf x.toNat 5 1
  if n < 8 || 20 < n then m else { m with ctl := x.extractLsb' 0 32 &&& 0x1FFF }
/-- A sampler register is written, by its slot; lgsize outside its range is ignored (assumption log 43). -/
def Sampler.write (m : Sampler) (k : Nat) (x : DWord) : Sampler :=
  if k = 0 then m.writeCtl x
  else if k = 1 then { m with base := x &&& 0x0000_FFFF_FFFF_FFE0#64 }
  else if k = 2 then
    (if x.toNat % 32 < 4 || 24 < x.toNat % 32 then m else { m with lgsize := BitVec.ofNat 32 (x.toNat % 32) })
  else if k = 4 then { m with rd := x.extractLsb' 0 32 }
  else if k = 5 then { m with drop := x.extractLsb' 0 32 }
  else m
/-- DIECAP, PWRSTAT, BLCTL or BLTHR is written, by its slot (assumption log 43). -/
def Power.write (p : Power) (k : Nat) (x : DWord) : Power :=
  let n := x.toNat
  if k = 8 then (if 1000 < n % 65536 then p else { p with cap := n % 65536 })
  else if k = 9 then (if x.getLsbD 2 then { p with stepped := false } else p)
  else if k = 10 then
    (if bitsOf n 17 11 = 0 || 64 < bitsOf n 17 11 || bitsOf n 25 18 = 0 then p
     else { p with blEn := x.getLsbD 0, dstep := bitsOf n 6 1, bstep := bitsOf n 10 7, dmin := bitsOf n 17 11,
                   dwell := bitsOf n 25 18 })
  else if k = 11 then { p with blPwr := n % 65536, blTemp := bitsOf n 23 16 }
  else p
/-- A HOSTWIN slot is written. -/
def HostWin.write (w : HostWin) (high : Bool) (x : DWord) : HostWin :=
  if high then { w with r := x.getLsbD 0, w := x.getLsbD 1 }
  else { w with base := x.extractLsb' 0 32, limit := x.extractLsb' 32 32 }
/-- HOSTWIN at reset. -/
def HostWin.reset : HostWin := { base := 0, limit := 0, r := false, w := false }
/-- A register of a die is written. -/
def State.writeDie (s : State) (die o : Nat) (x : DWord) : State :=
  if o < 0x400 then s.writeTranslation die (o / 16) (o / 8 % 2 = 1) x
  else if o < 0x480 then
    let k := (o - 0x400) / 8
    if k < 6 then s.onDie die fun d => { d with smp := d.smp.write k x }
    else if k = 6 then s.writeMduty die x.toNat
    else if k = 7 then (if x.toNat % 4 = 3 then s else s.setPstate die (x.toNat % 4))
    else s.onDie die fun d => { d with power := d.power.write k x }
  else if o < 0x4A8 then
    s.onDie die fun d => { d with asyfail := d.asyfail &&& ~~~setSlot (0#288) ((o - 0x480) / 8) x }
  else if 0x500 ≤ o && o < 0x900 then s.writeQway die ((o - 0x500) / 8) x
  else if 0x1000 ≤ o && o < 0x2000 then
    let c := (o - 0x1000) / 64
    s.onDie die fun d => { d with rdev := d.rdev.put c (setSlot (d.rdev.lookD c 0) (o / 8 % 8) x) }
  else if 0x2000 ≤ o && o < 0x2080 then
    let k := (o - 0x2000) / 16
    s.onDie die fun d => { d with hostWin := d.hostWin.put k ((d.hostWin.lookD k HostWin.reset).write (o / 8 % 2 = 1) x) }
  else s
/-- A register of a stack is written. DESIGN CHOICE (assumption log 108): REPCMD with go and decline both set is go alone. -/
def State.writeStack (s : State) (k o : Nat) (x : DWord) : State :=
  if o = 0 then s.writeBact k x.toNat
  else if o = 0x10 then
    (if x.getLsbD 0 then s.repairGo k else if x.getLsbD 1 then s.repairDecline k else s)
  else if 0x1000 ≤ o && o < 0x3000 then
    let q := (o - 0x1000) / 32
    if o % 32 = 0 then s.writeQctl k q (x.extractLsb' 0 32)
    else if o % 32 = 8 then
      s.onStack k fun y => if (y.queue q).en then y
        else { y with queues := y.queues.put q { y.queue q with base := x &&& 0x0000_FFFF_FFFF_FFF8#64 } }
    else s
  else s
/-- A register of a context is written. -/
def State.writeContextReg (s : State) (ctx o : Nat) (x : DWord) : State :=
  if o = 0 then s.writeCtxctl ctx x
  else if o = 0x08 then s.writeContext ctx fun c => { c with sup := x &&& ~~~3#64 }
  else if o = 0x10 then s.writeContext ctx fun c => { c with saveBase := x &&& ~~~0xFFF#64 }
  else if o = 0x18 then s.writeContext ctx fun c => { c with saveSize := x.extractLsb' 0 32 }
  else if o = 0x20 then (if x.getLsbD 0 then s.doorCard ctx x else s.doorHeader ctx x)
  else if o = 0x30 then s.onContext ctx fun c => { c with frbase := x }
  else if o = 0x38 then s.onContext ctx fun c => { c with harra := x }
  else if o = 0x40 then s.hostArrive ctx (x.extractLsb' 0 32)
  else s
/-- The report at an offset of the fabric's registers. -/
def reportAt (o : Nat) : Option Nat :=
  if 0x3000 ≤ o && o < 0x3400 then some ((o - 0x3000) / 32)
  else if 0x3400 ≤ o && o < 0x3500 then some (32 + (o - 0x3400) / 32)
  else if 0x3500 ≤ o && o < 0x3580 then some (40 + (o - 0x3500) / 32)
  else none
/-- A register of the fabric is written: alert is cleared by a 1; thr and hor are written. -/
def State.writeFabric (s : State) (o : Nat) (x : DWord) : State :=
  if o = 0 then s.writeFabgen (x.extractLsb' 0 32)
  else if 0x1000 ≤ o && o < 0x2000 then s.writeRoute (.egt false) ((o - 0x1000) / 8) (x.extractLsb' 0 32)
  else if 0x2000 ≤ o && o < 0x3000 then s.writeRoute (.egt true) ((o - 0x2000) / 8) (x.extractLsb' 0 32)
  else match reportAt o with
    | none => s
    | some k =>
      let r := s.report k
      if o % 32 = 16 then (if x.getLsbD 49 then s.setReport k { r with alert := false } else s)
      else if o % 32 = 24 then s.setReport k { r with thr := bitsOf x.toNat 31 16, hor := bitsOf x.toNat 47 32 }
      else s
/-- A slot of the register window is written. What is not assigned, and before stage 3 what does not answer, ignores it. -/
def State.writeSlot (s : State) (o : Nat) (x : DWord) : State :=
  if o % 8 != 0 then s
  else if o < 0x100000 then (s.writeEarly o x).hostWrite fun s => s.writeDevice o x
  else s.hostWrite fun s =>
    if o < 0x140000 then s.writeDie ((o - 0x100000) / 0x10000) (o % 0x10000) x
    else if 0x200000 ≤ o && o < 0x300000 then s.writeStack ((o - 0x200000) / 0x10000) (o % 0x10000) x
    else if 0x300000 ≤ o && o < 0x304000 then s.writeContextReg ((o - 0x300000) / 0x100) (o % 0x100) x
    else if 0x400000 ≤ o && o < 0x500000 then s.writeFabric (o - 0x400000) x
    else s

/-! ## Reads of the register window (14 R384) -/

/-- A bit as a number. -/
def bitNat (b : Bool) : Nat := if b then 1 else 0
/-- DEVSTAT. -/
def Device.status (d : Device) : Nat :=
  d.stage % 8 + d.err % 256 * 2 ^ 8 + bitNat d.hostvio * 2 ^ 16 + bitNat d.pkgover * 2 ^ 17 + d.frlost % 65536 * 2 ^ 32
/-- A slot of a list of bytes. -/
def slotBytes (l : List Byte) (k : Nat) : Nat := numOf ((l.drop (8 * k)).take 8)
/-- The device's own registers that answer in every stage. -/
def State.readEarly (s : State) (o : Nat) : Nat :=
  if o = 0 then 0x4C + 0x53 * 2 ^ 8 + Config.stepping.toNat * 2 ^ 16
  else if o = 8 then s.dev.status
  else if o = 0x28 then bitNat s.dev.idBusy
  else if 0x40 ≤ o && o < 0x60 then slotBytes Config.idPub ((o - 0x40) / 8)
  else if 0x60 ≤ o && o < 0x80 then (s.dev.idChal.extractLsb' (8 * (o - 0x60)) 64).toNat
  else if 0x80 ≤ o && o < 0xC0 then slotBytes s.dev.idResp ((o - 0x80) / 8)
  else if 0x1000 ≤ o && o < 0x10000 then slotBytes Config.idCert ((o - 0x1000) / 8)
  else if 0x10000 ≤ o && o < 0x20000 then
    numOf ((List.range 8).map fun j => s.dev.fwBytes.lookD (o - 0x10000 + j) 0)
  else 0
/-- PWRSTAT, BLCTL, BLTHR and their neighbours, by slot. -/
def State.readPower (s : State) (die k : Nat) : Nat :=
  let d := s.die die
  let p := d.power
  if k = 0 then d.smp.ctl.toNat else if k = 1 then d.smp.base.toNat else if k = 2 then d.smp.lgsize.toNat
  else if k = 3 then d.smp.wr.toNat else if k = 4 then d.smp.rd.toNat else if k = 5 then d.smp.drop.toNat
  else if k = 6 then p.mduty
  else if k = 7 then p.req + s.pstateCur die * 4
  else if k = 8 then p.cap
  else if k = 9 then bitNat p.above + bitNat p.hot * 2 + bitNat p.stepped * 4 + p.steps * 2 ^ 16
  else if k = 10 then bitNat p.blEn + p.dstep * 2 + p.bstep * 2 ^ 7 + p.dmin * 2 ^ 11 + p.dwell * 2 ^ 18
  else if k = 11 then p.blPwr + p.blTemp * 2 ^ 16
  else if k = 12 then p.temp.toNat
  else 0
/-- An entry of the retired-frame table: valid, and bits 38 to 16 of the frame's PA (14 R371). -/
def Die.retiredAt (d : Die) (k : Nat) : Nat :=
  match d.retired[k]? with
  | some f => 1 + f.1 * 2 ^ 16
  | none => 0
/-- A register of a die is read. -/
def State.readDie (s : State) (die o : Nat) : Nat :=
  let d := s.die die
  if o < 0x400 then (if o / 8 % 2 = 1 then d.tpool.lookD (o / 16) 0 else d.troot.lookD (o / 16) 0).toNat
  else if o < 0x480 then s.readPower die ((o - 0x400) / 8)
  else if o < 0x4A8 then (d.asyfail.extractLsb' (8 * (o - 0x480)) 64).toNat
  else if 0x500 ≤ o && o < 0x900 then
    let q := d.qway.lookD ((o - 0x500) / 8) QWay.reset
    q.ways.toNat + q.corr.toNat * 2 ^ 16
  else if 0x1000 ≤ o && o < 0x2000 then
    ((d.rdev.lookD ((o - 0x1000) / 64) 0).extractLsb' (64 * (o / 8 % 8)) 64).toNat
  else if 0x2000 ≤ o && o < 0x2080 then
    let w := d.hostWin.lookD ((o - 0x2000) / 16) HostWin.reset
    if o / 8 % 2 = 1 then bitNat w.r + bitNat w.w * 2 else w.base.toNat + w.limit.toNat * 2 ^ 32
  else if 0x3000 ≤ o && o < 0x5000 then d.retiredAt ((o - 0x3000) / 8)
  else 0
/-- REPSTAT (14 R374). -/
def Repair.word (r : Repair) : Nat :=
  match r.pend with
  | some (k, c) => 1 + k * 2 + c.sid % 4 * 2 ^ 3 + c.pch % 64 * 2 ^ 5 + c.bank % 16 * 2 ^ 11 + c.row % 2 ^ 15 * 2 ^ 15 +
      c.col % 32 * 2 ^ 30 + r.last * 2 ^ 35
  | none => r.last * 2 ^ 35
/-- A register of a stack is read. -/
def State.readStack (s : State) (k o : Nat) : Nat :=
  let y := s.stack k
  if o = 0 then y.bact
  else if o = 8 then y.repair.word
  else if 0x1000 ≤ o && o < 0x3000 then
    let q := y.queue ((o - 0x1000) / 32)
    if o % 32 = 0 then bitNat q.en + q.ctx * 2 + q.lgsize * 2 ^ 7
    else if o % 32 = 8 then q.base.toNat
    else if o % 32 = 16 then q.head.toNat
    else q.tail.toNat
  else 0
/-- A register of a context is read; write-only registers read zero. -/
def State.readContextReg (s : State) (ctx o : Nat) : Nat :=
  let c := s.context ctx
  if o = 0 then bitNat c.en + bitNat c.stop * 2
  else if o = 0x08 then c.sup.toNat
  else if o = 0x10 then c.saveBase.toNat
  else if o = 0x18 then c.saveSize.toNat
  else if o = 0x28 then c.lqres.toNat
  else if o = 0x30 then c.frbase.toNat
  else 0
/-- A report's words (14 R386). -/
def Report.word (r : Report) (k : Nat) : Nat :=
  if k = 0 then r.width % 65536 + r.height % 65536 * 2 ^ 16 + r.lane % 16 * 2 ^ 32
  else if k = 1 then Nat.min r.fecc (2 ^ 32 - 1) + Nat.min r.fecu (2 ^ 32 - 1) * 2 ^ 32
  else if k = 2 then r.replays % 2 ^ 32 + r.retrains % 65536 * 2 ^ 32 + bitNat r.down * 2 ^ 48 + bitNat r.alert * 2 ^ 49
  else (r.slope % 65536).toNat + r.thr % 65536 * 2 ^ 16 + r.hor % 65536 * 2 ^ 32
/-- A register of the fabric is read. -/
def State.readFabric (s : State) (o : Nat) : Nat :=
  if o = 0 then bitNat s.dev.fabGen + bitNat s.dev.fabPend * 2 + bitNat s.dev.fabBusy * 4
  else if 0x1000 ≤ o && o < 0x2000 then (s.dev.egt0.lookD ((o - 0x1000) / 8) 0xFFFFFFFF).toNat
  else if 0x2000 ≤ o && o < 0x3000 then (s.dev.egt1.lookD ((o - 0x2000) / 8) 0xFFFFFFFF).toNat
  else match reportAt o with
    | some k => (s.report k).word (o % 32 / 8)
    | none => 0
/-- A rail's telemetry is read. -/
def Rail.word (r : Rail) (k : Nat) : Nat := if k = 0 then r.mv else if k = 1 then r.ma else if k = 2 then r.mw else r.uj
/-- What a slot of the register window reads as. A read of DEVSTAT is the event DEVSTAT_READ besides. -/
def State.readSlot (s : State) (o : Nat) : DWord :=
  BitVec.ofNat 64 (
    if o < 0x100000 && !(0x10 ≤ o && o < 0x28) then s.readEarly o
    else if s.dev.stage != 3 then 0
    else if o = 0x10 then s.dev.devnum
    else if o = 0x18 then s.dev.asyper
    else if o = 0x20 then s.dev.pkgcap
    else if o < 0x140000 then s.readDie ((o - 0x100000) / 0x10000) (o % 0x10000)
    else if o < 0x200000 then 0
    else if o < 0x300000 then s.readStack ((o - 0x200000) / 0x10000) (o % 0x10000)
    else if o < 0x304000 then s.readContextReg ((o - 0x300000) / 0x100) (o % 0x100)
    else if o < 0x400000 then 0
    else if o < 0x500000 then s.readFabric (o - 0x400000)
    else if o < 0x500400 then (s.rail ((o - 0x500000) / 32)).word (o / 8 % 4)
    else 0)

/-! ## The events -/

/-- TELEMETRY_SAMPLE (14 R378): every rail is sampled; `temps` is each die's hottest and mean sensor. Uses rails,
temps. -/
def execTelemetrySample (s : State) : Out := onEvent (s.telemetry s.about.rails s.about.temps)

/-- PSTATE_RUN (14 R379): the host writes PSTATE.req = 0. Uses die. -/
def execPstateRun (s : State) : Out := onEvent (some (s.hostWrite fun s => s.setPstate s.about.die 0))

/-- PSTATE_QUIESCE (14 R379): the host writes PSTATE.req = 1. Uses die. -/
def execPstateQuiesce (s : State) : Out := onEvent (some (s.hostWrite fun s => s.setPstate s.about.die 1))

/-- PSTATE_HALT (14 R379): the host writes PSTATE.req = 2. Uses die. -/
def execPstateHalt (s : State) : Out := onEvent (some (s.hostWrite fun s => s.setPstate s.about.die 2))

/-- R379: the host writes MDUTY. Uses die, value. -/
def execMdutyWrite (s : State) : Out :=
  onEvent (some (s.hostWrite fun s => s.writeMduty s.about.die s.about.value.toNat))

/-- BACT_WRITE (12 R329): the host writes BACT. Uses stack, value. -/
def execBactWrite (s : State) : Out :=
  onEvent (some (s.hostWrite fun s => s.writeBact s.about.stack s.about.value.toNat))

/-- DEVICE_RESET (14 R381): the device is reset. -/
def execDeviceReset (s : State) : Out := onEvent (some s.deviceReset)

/-- FWCTL (14 R383): the host submits the image in FWWIN. -/
def execFwctl (s : State) : Out := onEvent (some s.submitImage)

/-- TRAIN_COMPLETE (14 R381): training ends; `index` is 0, 3 or 4, `ports` the strait ports that failed to train.
Uses index, ports. -/
def execTrainComplete (s : State) : Out := onEvent (s.trained s.about.index s.about.ports)

/-- IDCHAL (14 R382): the host writes the nonce. Uses wide. -/
def execIdchal (s : State) : Out := onEvent (some (s.challenge (s.about.wide.extractLsb' 0 256)))

/-- ID_SIGN_COMPLETE (14 R382): the signature is ready. -/
def execIdSignComplete (s : State) : Out := onEvent s.signed

/-- DEVNUM_WRITE (14 R381): the host writes DEVNUM. Uses value. -/
def execDevnumWrite (s : State) : Out := onEvent (some (s.hostWrite fun s => s.writeDevnum s.about.value.toNat))

/-- DEVSTAT_READ (14 R381): the host reads DEVSTAT. -/
def execDevstatRead (s : State) : Out := onEvent (some { s with dev := { s.dev with hostvio := false } })

/-- HARRP (13 R364): the host writes HARRP. Uses ctx, value. -/
def execHarrp (s : State) : Out :=
  onEvent (some (s.hostWrite fun s => s.hostArrive s.about.ctx (s.about.value.extractLsb' 0 32)))

/-- CTLRST (12 R347): the host writes CTLRST. Uses value. -/
def execCtlrst (s : State) : Out := onEvent (some (s.hostWrite fun s => s.restart (s.about.value.toNat % 65536)))

/-- TRANSLATION_REG_WRITE (10 R280): the host writes TROOT, or TPOOL when `flag`. Uses die, ctx, flag, value. -/
def execTranslationRegWrite (s : State) : Out :=
  onEvent (some (s.hostWrite fun s => s.writeTranslation s.about.die s.about.ctx s.about.flag s.about.value))

/-- REGISTER_WRITE (14 R384): the host writes the register-window slot at byte offset `index`. Uses index, value. -/
def execRegisterWrite (s : State) : Out := onEvent (some (s.writeSlot s.about.index s.about.value))

end Sys2Proof.Machine
end

