-- ==== Sys2Proof/Machine/Dispatch.lean ====
section
/-! DEFINITION. The meaning of every operation and every event: one arm per constructor of Instr. -/

namespace Sys2Proof.Machine

/-- What an operation or an event does to a state: an operation for the unit that is issuing it (State.cur), an event for
its particulars (State.about). -/
def exec (i : Instr) (s : State) : Host.Outcome State Fault Refusal :=
  match i with
  | .add hold d a b => Sys2Proof.Machine.execAdd hold d a b s
  | .sub hold d a b => Sys2Proof.Machine.execSub hold d a b s
  | .mul hold d a b => Sys2Proof.Machine.execMul hold d a b s
  | .mulh hold d a b => Sys2Proof.Machine.execMulh hold d a b s
  | .mad hold d a b => Sys2Proof.Machine.execMad hold d a b s
  | .divu hold d a b => Sys2Proof.Machine.execDivu hold d a b s
  | .divs hold d a b => Sys2Proof.Machine.execDivs hold d a b s
  | .min hold d a b => Sys2Proof.Machine.execMin hold d a b s
  | .max hold d a b => Sys2Proof.Machine.execMax hold d a b s
  | .abs hold d a => Sys2Proof.Machine.execAbs hold d a s
  | .neg hold d a => Sys2Proof.Machine.execNeg hold d a s
  | .and hold d a b => Sys2Proof.Machine.execAnd hold d a b s
  | .or hold d a b => Sys2Proof.Machine.execOr hold d a b s
  | .xor hold d a b => Sys2Proof.Machine.execXor hold d a b s
  | .not hold d a => Sys2Proof.Machine.execNot hold d a s
  | .andn hold d a b => Sys2Proof.Machine.execAndn hold d a b s
  | .shl hold d a b => Sys2Proof.Machine.execShl hold d a b s
  | .shr hold d a b => Sys2Proof.Machine.execShr hold d a b s
  | .rotl hold d a b => Sys2Proof.Machine.execRotl hold d a b s
  | .rotr hold d a b => Sys2Proof.Machine.execRotr hold d a b s
  | .popc hold d a => Sys2Proof.Machine.execPopc hold d a s
  | .clz hold d a => Sys2Proof.Machine.execClz hold d a s
  | .brev hold d a => Sys2Proof.Machine.execBrev hold d a s
  | .bfe hold d a b => Sys2Proof.Machine.execBfe hold d a b s
  | .bfi hold d a b => Sys2Proof.Machine.execBfi hold d a b s
  | .add64 hold d a b => Sys2Proof.Machine.execAdd64 hold d a b s
  | .sub64 hold d a b => Sys2Proof.Machine.execSub64 hold d a b s
  | .shl64 hold d a b => Sys2Proof.Machine.execShl64 hold d a b s
  | .shr64 hold d a b => Sys2Proof.Machine.execShr64 hold d a b s
  | .seq hold d a b => Sys2Proof.Machine.execSeq hold d a b s
  | .sne hold d a b => Sys2Proof.Machine.execSne hold d a b s
  | .slt hold d a b => Sys2Proof.Machine.execSlt hold d a b s
  | .sle hold d a b => Sys2Proof.Machine.execSle hold d a b s
  | .sel hold d a b => Sys2Proof.Machine.execSel hold d a b s
  | .mov hold d a => Sys2Proof.Machine.execMov hold d a s
  | .addx hold d a b => Sys2Proof.Machine.execAddx hold d a b s
  | .addi hold d a imm => Sys2Proof.Machine.execAddi hold d a imm s
  | .muli hold d a imm => Sys2Proof.Machine.execMuli hold d a imm s
  | .andi hold d a imm => Sys2Proof.Machine.execAndi hold d a imm s
  | .ori hold d a imm => Sys2Proof.Machine.execOri hold d a imm s
  | .xori hold d a imm => Sys2Proof.Machine.execXori hold d a imm s
  | .shli hold d a imm => Sys2Proof.Machine.execShli hold d a imm s
  | .shri hold d a imm => Sys2Proof.Machine.execShri hold d a imm s
  | .rotli hold d a imm => Sys2Proof.Machine.execRotli hold d a imm s
  | .seqi hold d a imm => Sys2Proof.Machine.execSeqi hold d a imm s
  | .snei hold d a imm => Sys2Proof.Machine.execSnei hold d a imm s
  | .slti hold d a imm => Sys2Proof.Machine.execSlti hold d a imm s
  | .slei hold d a imm => Sys2Proof.Machine.execSlei hold d a imm s
  | .mini hold d a imm => Sys2Proof.Machine.execMini hold d a imm s
  | .maxi hold d a imm => Sys2Proof.Machine.execMaxi hold d a imm s
  | .addi64 hold d a imm => Sys2Proof.Machine.execAddi64 hold d a imm s
  | .movk d imm => Sys2Proof.Machine.execMovk d imm s
  | .movh d imm => Sys2Proof.Machine.execMovh d imm s
  | .lit d lit => Sys2Proof.Machine.execLit d lit s
  | .addl d lit => Sys2Proof.Machine.execAddl d lit s
  | .andl d lit => Sys2Proof.Machine.execAndl d lit s
  | .orl d lit => Sys2Proof.Machine.execOrl d lit s
  | .addU hold d a b => Sys2Proof.Machine.execAddU hold d a b s
  | .subU hold d a b => Sys2Proof.Machine.execSubU hold d a b s
  | .mulU hold d a b => Sys2Proof.Machine.execMulU hold d a b s
  | .andU hold d a b => Sys2Proof.Machine.execAndU hold d a b s
  | .orU hold d a b => Sys2Proof.Machine.execOrU hold d a b s
  | .xorU hold d a b => Sys2Proof.Machine.execXorU hold d a b s
  | .shlU hold d a b => Sys2Proof.Machine.execShlU hold d a b s
  | .shrU hold d a b => Sys2Proof.Machine.execShrU hold d a b s
  | .minU hold d a b => Sys2Proof.Machine.execMinU hold d a b s
  | .maxU hold d a b => Sys2Proof.Machine.execMaxU hold d a b s
  | .seqU hold d a b => Sys2Proof.Machine.execSeqU hold d a b s
  | .sltU hold d a b => Sys2Proof.Machine.execSltU hold d a b s
  | .movU hold d a => Sys2Proof.Machine.execMovU hold d a s
  | .add64U hold d a b => Sys2Proof.Machine.execAdd64U hold d a b s
  | .addiU hold d a imm => Sys2Proof.Machine.execAddiU hold d a imm s
  | .shliU hold d a imm => Sys2Proof.Machine.execShliU hold d a imm s
  | .fadd hold d a b => Sys2Proof.Machine.execFadd hold d a b s
  | .fsub hold d a b => Sys2Proof.Machine.execFsub hold d a b s
  | .fmul hold d a b => Sys2Proof.Machine.execFmul hold d a b s
  | .fma hold d a b => Sys2Proof.Machine.execFma hold d a b s
  | .fmin hold d a b => Sys2Proof.Machine.execFmin hold d a b s
  | .fmax hold d a b => Sys2Proof.Machine.execFmax hold d a b s
  | .fabs hold d a => Sys2Proof.Machine.execFabs hold d a s
  | .fneg hold d a => Sys2Proof.Machine.execFneg hold d a s
  | .frcp hold d a => Sys2Proof.Machine.execFrcp hold d a s
  | .frsq hold d a => Sys2Proof.Machine.execFrsq hold d a s
  | .fsqrt hold d a => Sys2Proof.Machine.execFsqrt hold d a s
  | .fexp2 hold d a => Sys2Proof.Machine.execFexp2 hold d a s
  | .flog2 hold d a => Sys2Proof.Machine.execFlog2 hold d a s
  | .fseq hold d a b => Sys2Proof.Machine.execFseq hold d a b s
  | .fsne hold d a b => Sys2Proof.Machine.execFsne hold d a b s
  | .fslt hold d a b => Sys2Proof.Machine.execFslt hold d a b s
  | .fsle hold d a b => Sys2Proof.Machine.execFsle hold d a b s
  | .dot2 hold d a b => Sys2Proof.Machine.execDot2 hold d a b s
  | .dot4 hold d a b => Sys2Proof.Machine.execDot4 hold d a b s
  | .dot8 hold d a b => Sys2Proof.Machine.execDot8 hold d a b s
  | .hadd hold d a b => Sys2Proof.Machine.execHadd hold d a b s
  | .hsub hold d a b => Sys2Proof.Machine.execHsub hold d a b s
  | .hmul hold d a b => Sys2Proof.Machine.execHmul hold d a b s
  | .hfma hold d a b => Sys2Proof.Machine.execHfma hold d a b s
  | .hmin hold d a b => Sys2Proof.Machine.execHmin hold d a b s
  | .hmax hold d a b => Sys2Proof.Machine.execHmax hold d a b s
  | .cvt hold d a => Sys2Proof.Machine.execCvt hold d a s
  | .pack hold d a b => Sys2Proof.Machine.execPack hold d a b s
  | .unpk hold d a b => Sys2Proof.Machine.execUnpk hold d a b s
  | .tagw d code => Sys2Proof.Machine.execTagw d code s
  | .tagr hold d a => Sys2Proof.Machine.execTagr hold d a s
  | .setm hold a sel => Sys2Proof.Machine.execSetm hold a sel s
  | .setmi lit => Sys2Proof.Machine.execSetmi lit s
  | .getm hold d sel => Sys2Proof.Machine.execGetm hold d sel s
  | .stat hold d a => Sys2Proof.Machine.execStat hold d a s
  | .voteAny hold d a => Sys2Proof.Machine.execVoteAny hold d a s
  | .voteAll hold d a => Sys2Proof.Machine.execVoteAll hold d a s
  | .voteBal hold d a => Sys2Proof.Machine.execVoteBal hold d a s
  | .shflIdx hold d a b => Sys2Proof.Machine.execShflIdx hold d a b s
  | .shflUp hold d a b => Sys2Proof.Machine.execShflUp hold d a b s
  | .shflDn hold d a b => Sys2Proof.Machine.execShflDn hold d a b s
  | .shflXor hold d a b => Sys2Proof.Machine.execShflXor hold d a b s
  | .bcast hold d a b => Sys2Proof.Machine.execBcast hold d a b s
  | .reduAdd hold d a => Sys2Proof.Machine.execReduAdd hold d a s
  | .reduMin hold d a => Sys2Proof.Machine.execReduMin hold d a s
  | .reduMax hold d a => Sys2Proof.Machine.execReduMax hold d a s
  | .prefx hold d a => Sys2Proof.Machine.execPrefx hold d a s
  | .wid hold d fld => Sys2Proof.Machine.execWid hold d fld s
  | .lane hold d => Sys2Proof.Machine.execLane hold d s
  | .maskr hold d => Sys2Proof.Machine.execMaskr hold d s
  | .liver hold d => Sys2Proof.Machine.execLiver hold d s
  | .nop hold => Sys2Proof.Machine.execNop hold s
  | .br a off => Sys2Proof.Machine.execBr a off s
  | .bru a off => Sys2Proof.Machine.execBru a off s
  | .jmp off => Sys2Proof.Machine.execJmp off s
  | .jmpr hold a => Sys2Proof.Machine.execJmpr hold a s
  | .call a off => Sys2Proof.Machine.execCall a off s
  | .ret hold a => Sys2Proof.Machine.execRet hold a s
  | .joinat off => Sys2Proof.Machine.execJoinat off s
  | .join hold => Sys2Proof.Machine.execJoin hold s
  | .brk n => Sys2Proof.Machine.execBrk n s
  | .loop a off => Sys2Proof.Machine.execLoop a off s
  | .lexit a off => Sys2Proof.Machine.execLexit a off s
  | .exit hold => Sys2Proof.Machine.execExit hold s
  | .trap svc cause => Sys2Proof.Machine.execTrap svc cause s
  | .tret hold => Sys2Proof.Machine.execTret hold s
  | .waitv hold d a b => Sys2Proof.Machine.execWaitv hold d a b s
  | .yield hold => Sys2Proof.Machine.execYield hold s
  | .sleep imm => Sys2Proof.Machine.execSleep imm s
  | .pgmap hold d a b => Sys2Proof.Machine.execPgmap hold d a b s
  | .pginv hold d a b => Sys2Proof.Machine.execPginv hold d a b s
  | .ldb hold d a imm => Sys2Proof.Machine.execLdb hold d a imm s
  | .ldbs hold d a imm => Sys2Proof.Machine.execLdbs hold d a imm s
  | .ldh hold d a imm => Sys2Proof.Machine.execLdh hold d a imm s
  | .ldhs hold d a imm => Sys2Proof.Machine.execLdhs hold d a imm s
  | .ld hold d a imm => Sys2Proof.Machine.execLd hold d a imm s
  | .ldd hold d a imm => Sys2Proof.Machine.execLdd hold d a imm s
  | .ldq hold d a imm => Sys2Proof.Machine.execLdq hold d a imm s
  | .stb hold d a imm => Sys2Proof.Machine.execStb hold d a imm s
  | .sth hold d a imm => Sys2Proof.Machine.execSth hold d a imm s
  | .st hold d a imm => Sys2Proof.Machine.execSt hold d a imm s
  | .std hold d a imm => Sys2Proof.Machine.execStd hold d a imm s
  | .stq hold d a imm => Sys2Proof.Machine.execStq hold d a imm s
  | .ldAcq hold d a imm => Sys2Proof.Machine.execLdAcq hold d a imm s
  | .lddAcq hold d a imm => Sys2Proof.Machine.execLddAcq hold d a imm s
  | .stRel hold d a imm => Sys2Proof.Machine.execStRel hold d a imm s
  | .stdRel hold d a imm => Sys2Proof.Machine.execStdRel hold d a imm s
  | .ldro hold d a imm => Sys2Proof.Machine.execLdro hold d a imm s
  | .ldroQ hold d a imm => Sys2Proof.Machine.execLdroQ hold d a imm s
  | .pref hold a imm => Sys2Proof.Machine.execPref hold a imm s
  | .lds hold d a imm => Sys2Proof.Machine.execLds hold d a imm s
  | .ldsQ hold d a imm => Sys2Proof.Machine.execLdsQ hold d a imm s
  | .sts hold d a imm => Sys2Proof.Machine.execSts hold d a imm s
  | .stsQ hold d a imm => Sys2Proof.Machine.execStsQ hold d a imm s
  | .tagl hold d a => Sys2Proof.Machine.execTagl hold d a s
  | .tagi hold d a b => Sys2Proof.Machine.execTagi hold d a b s
  | .tage hold d a => Sys2Proof.Machine.execTage hold d a s
  | .tagp hold d a b => Sys2Proof.Machine.execTagp hold d a b s
  | .tagt hold d a b => Sys2Proof.Machine.execTagt hold d a b s
  | .aadd hold d a b => Sys2Proof.Machine.execAadd hold d a b s
  | .amin hold d a b => Sys2Proof.Machine.execAmin hold d a b s
  | .amax hold d a b => Sys2Proof.Machine.execAmax hold d a b s
  | .aand hold d a b => Sys2Proof.Machine.execAand hold d a b s
  | .aor hold d a b => Sys2Proof.Machine.execAor hold d a b s
  | .axor hold d a b => Sys2Proof.Machine.execAxor hold d a b s
  | .axch hold d a b => Sys2Proof.Machine.execAxch hold d a b s
  | .acas hold d a b => Sys2Proof.Machine.execAcas hold d a b s
  | .aadd64 hold d a b => Sys2Proof.Machine.execAadd64 hold d a b s
  | .acas64 hold d a b => Sys2Proof.Machine.execAcas64 hold d a b s
  | .fence hold => Sys2Proof.Machine.execFence hold s
  | .fenceRo hold => Sys2Proof.Machine.execFenceRo hold s
  | .waitc tl cp st ld => Sys2Proof.Machine.execWaitc tl cp st ld s
  | .waitr hold a cls => Sys2Proof.Machine.execWaitr hold a cls s
  | .ctrr hold d cls => Sys2Proof.Machine.execCtrr hold d cls s
  | .bar hold => Sys2Proof.Machine.execBar hold s
  | .baroArr hold a => Sys2Proof.Machine.execBaroArr hold a s
  | .baroWt hold d a b => Sys2Proof.Machine.execBaroWt hold d a b s
  | .xld hold d a b => Sys2Proof.Machine.execXld hold d a b s
  | .xldQ hold d a b => Sys2Proof.Machine.execXldQ hold d a b s
  | .xst hold d a b => Sys2Proof.Machine.execXst hold d a b s
  | .xstQ hold d a b => Sys2Proof.Machine.execXstQ hold d a b s
  | .xat hold d a b => Sys2Proof.Machine.execXat hold d a b s
  | .xcas hold d a b => Sys2Proof.Machine.execXcas hold d a b s
  | .cwdet hold => Sys2Proof.Machine.execCwdet hold s
  | .cwleave hold => Sys2Proof.Machine.execCwleave hold s
  | .cwxch hold d a b => Sys2Proof.Machine.execCwxch hold d a b s
  | .wbld hold tile a => Sys2Proof.Machine.execWbld hold tile a s
  | .wbz hold tile => Sys2Proof.Machine.execWbz hold tile s
  | .mma hold tile a slot => Sys2Proof.Machine.execMma hold tile a slot s
  | .accz hold tile => Sys2Proof.Machine.execAccz hold tile s
  | .accsv hold tile a => Sys2Proof.Machine.execAccsv hold tile a s
  | .accrs hold tile a => Sys2Proof.Machine.execAccrs hold tile a s
  | .tdrain hold tile a => Sys2Proof.Machine.execTdrain hold tile a s
  | .tscale hold tile a sel => Sys2Proof.Machine.execTscale hold tile a sel s
  | .histrd hold d tile => Sys2Proof.Machine.execHistrd hold d tile s
  | .histz hold tile => Sys2Proof.Machine.execHistz hold tile s
  | .cpy hold d a b => Sys2Proof.Machine.execCpy hold d a b s
  | .cpy2d hold d a b => Sys2Proof.Machine.execCpy2d hold d a b s
  | .cpfill hold d a b => Sys2Proof.Machine.execCpfill hold d a b s
  | .cprt hold a b => Sys2Proof.Machine.execCprt hold a b s
  | .nmld hold d a => Sys2Proof.Machine.execNmld hold d a s
  | .nmsw hold d a => Sys2Proof.Machine.execNmsw hold d a s
  | .nmx hold a => Sys2Proof.Machine.execNmx hold a s
  | .nmst hold d a b => Sys2Proof.Machine.execNmst hold d a b s
  | .idxreg hold d a b => Sys2Proof.Machine.execIdxreg hold d a b s
  | .srch hold d a => Sys2Proof.Machine.execSrch hold d a s
  | .scan hold d a => Sys2Proof.Machine.execScan hold d a s
  | .walk hold d a => Sys2Proof.Machine.execWalk hold d a s
  | .xred hold a => Sys2Proof.Machine.execXred hold a s
  | .tkmerge hold d a b => Sys2Proof.Machine.execTkmerge hold d a b s
  | .ivcommit hold d a => Sys2Proof.Machine.execIvcommit hold d a s
  | .qpush hold d a b => Sys2Proof.Machine.execQpush hold d a b s
  | .qpop hold d a => Sys2Proof.Machine.execQpop hold d a s
  | .jcard hold d a => Sys2Proof.Machine.execJcard hold d a s
  | .launch hold d a => Sys2Proof.Machine.execLaunch hold d a s
  | .evset hold a b => Sys2Proof.Machine.execEvset hold a b s
  | .evclr hold a b => Sys2Proof.Machine.execEvclr hold a b s
  | .evrd hold d a => Sys2Proof.Machine.execEvrd hold d a s
  | .ball => Sys2Proof.Machine.execBall s
  | .bsgl hold a => Sys2Proof.Machine.execBsgl hold a s
  | .brow hold a => Sys2Proof.Machine.execBrow hold a s
  | .bcolr hold d a => Sys2Proof.Machine.execBcolr hold d a s
  | .bcolw hold d a => Sys2Proof.Machine.execBcolw hold d a s
  | .bres hold d a => Sys2Proof.Machine.execBres hold d a s
  | .ifm hold a => Sys2Proof.Machine.execIfm hold a s
  | .elm => Sys2Proof.Machine.execElm s
  | .enm => Sys2Proof.Machine.execEnm s
  | .dist hold d a => Sys2Proof.Machine.execDist hold d a s
  | .heapi hold d a b => Sys2Proof.Machine.execHeapi hold d a b s
  | .adj hold d a b => Sys2Proof.Machine.execAdj hold d a b s
  | .ferry hold a => Sys2Proof.Machine.execFerry hold a s
  | .vchk hold d a => Sys2Proof.Machine.execVchk hold d a s
  | .loadReturn => Sys2Proof.Machine.execLoadReturn s
  | .storePerformed => Sys2Proof.Machine.execStorePerformed s
  | .emptyRowTimeout => Sys2Proof.Machine.execEmptyRowTimeout s
  | .heldEventTimeout => Sys2Proof.Machine.execHeldEventTimeout s
  | .waitvTimeout => Sys2Proof.Machine.execWaitvTimeout s
  | .sleepWake => Sys2Proof.Machine.execSleepWake s
  | .yieldWake => Sys2Proof.Machine.execYieldWake s
  | .baroWtTimeout => Sys2Proof.Machine.execBaroWtTimeout s
  | .pairTimeout => Sys2Proof.Machine.execPairTimeout s
  | .loopStepComplete => Sys2Proof.Machine.execLoopStepComplete s
  | .trackedArrival => Sys2Proof.Machine.execTrackedArrival s
  | .xPacketSend => Sys2Proof.Machine.execXPacketSend s
  | .xRequestArrival => Sys2Proof.Machine.execXRequestArrival s
  | .xResponseAccept => Sys2Proof.Machine.execXResponseAccept s
  | .lostNotice => Sys2Proof.Machine.execLostNotice s
  | .cwxchRetry => Sys2Proof.Machine.execCwxchRetry s
  | .cwWithdrawalNotice => Sys2Proof.Machine.execCwWithdrawalNotice s
  | .wbldEntryDone => Sys2Proof.Machine.execWbldEntryDone s
  | .wbzEntryDone => Sys2Proof.Machine.execWbzEntryDone s
  | .mmaEntryDone => Sys2Proof.Machine.execMmaEntryDone s
  | .acczEntryDone => Sys2Proof.Machine.execAcczEntryDone s
  | .accsvEntryDone => Sys2Proof.Machine.execAccsvEntryDone s
  | .accrsEntryDone => Sys2Proof.Machine.execAccrsEntryDone s
  | .tdrainEntryDone => Sys2Proof.Machine.execTdrainEntryDone s
  | .tscaleEntryDone => Sys2Proof.Machine.execTscaleEntryDone s
  | .copyComplete => Sys2Proof.Machine.execCopyComplete s
  | .cprtComplete => Sys2Proof.Machine.execCprtComplete s
  | .nmldComplete => Sys2Proof.Machine.execNmldComplete s
  | .bankLaunchStart => Sys2Proof.Machine.execBankLaunchStart s
  | .bankBudgetExpiry => Sys2Proof.Machine.execBankBudgetExpiry s
  | .searchAccept => Sys2Proof.Machine.execSearchAccept s
  | .searchComplete => Sys2Proof.Machine.execSearchComplete s
  | .walkComplete => Sys2Proof.Machine.execWalkComplete s
  | .walkBudgetExpiry => Sys2Proof.Machine.execWalkBudgetExpiry s
  | .ferryArrival => Sys2Proof.Machine.execFerryArrival s
  | .tkmergeComplete => Sys2Proof.Machine.execTkmergeComplete s
  | .controllerStop => Sys2Proof.Machine.execControllerStop s
  | .crucibleListArrival => Sys2Proof.Machine.execCrucibleListArrival s
  | .crucibleMergeTimeout => Sys2Proof.Machine.execCrucibleMergeTimeout s
  | .crucibleRetry => Sys2Proof.Machine.execCrucibleRetry s
  | .dispatchStep => Sys2Proof.Machine.execDispatchStep s
  | .ladleFill => Sys2Proof.Machine.execLadleFill s
  | .launchComplete => Sys2Proof.Machine.execLaunchComplete s
  | .launchTimeout => Sys2Proof.Machine.execLaunchTimeout s
  | .preemptionCheck => Sys2Proof.Machine.execPreemptionCheck s
  | .groupSave => Sys2Proof.Machine.execGroupSave s
  | .gangSaveMessage => Sys2Proof.Machine.execGangSaveMessage s
  | .gangReady => Sys2Proof.Machine.execGangReady s
  | .gangGo => Sys2Proof.Machine.execGangGo s
  | .assayDrainStart => Sys2Proof.Machine.execAssayDrainStart s
  | .assayComplete => Sys2Proof.Machine.execAssayComplete s
  | .l2ScrubVisit => Sys2Proof.Machine.execL2ScrubVisit s
  | .hbmScrubVisit => Sys2Proof.Machine.execHbmScrubVisit s
  | .quarantineWritebackDone => Sys2Proof.Machine.execQuarantineWritebackDone s
  | .repcmdGo => Sys2Proof.Machine.execRepcmdGo s
  | .repcmdDecline => Sys2Proof.Machine.execRepcmdDecline s
  | .repairComplete => Sys2Proof.Machine.execRepairComplete s
  | .telemetrySample => Sys2Proof.Machine.execTelemetrySample s
  | .pstateRun => Sys2Proof.Machine.execPstateRun s
  | .pstateQuiesce => Sys2Proof.Machine.execPstateQuiesce s
  | .pstateHalt => Sys2Proof.Machine.execPstateHalt s
  | .mdutyWrite => Sys2Proof.Machine.execMdutyWrite s
  | .bactWrite => Sys2Proof.Machine.execBactWrite s
  | .deviceReset => Sys2Proof.Machine.execDeviceReset s
  | .fwctl => Sys2Proof.Machine.execFwctl s
  | .trainComplete => Sys2Proof.Machine.execTrainComplete s
  | .idchal => Sys2Proof.Machine.execIdchal s
  | .idSignComplete => Sys2Proof.Machine.execIdSignComplete s
  | .devnumWrite => Sys2Proof.Machine.execDevnumWrite s
  | .devstatRead => Sys2Proof.Machine.execDevstatRead s
  | .ctxctlEn => Sys2Proof.Machine.execCtxctlEn s
  | .ctxctlStop => Sys2Proof.Machine.execCtxctlStop s
  | .ctxctlKill => Sys2Proof.Machine.execCtxctlKill s
  | .lqdoorHeader => Sys2Proof.Machine.execLqdoorHeader s
  | .lqdoorCard => Sys2Proof.Machine.execLqdoorCard s
  | .harrp => Sys2Proof.Machine.execHarrp s
  | .ctlrst => Sys2Proof.Machine.execCtlrst s
  | .qctlWrite => Sys2Proof.Machine.execQctlWrite s
  | .translationRegWrite => Sys2Proof.Machine.execTranslationRegWrite s
  | .qwayWrite => Sys2Proof.Machine.execQwayWrite s
  | .asyfailWrite => Sys2Proof.Machine.execAsyfailWrite s
  | .routingTableWrite => Sys2Proof.Machine.execRoutingTableWrite s
  | .fabgenWrite => Sys2Proof.Machine.execFabgenWrite s
  | .registerWrite => Sys2Proof.Machine.execRegisterWrite s
  | .flitReceive => Sys2Proof.Machine.execFlitReceive s
  | .linkDown => Sys2Proof.Machine.execLinkDown s
  | .drainMarkerArrival => Sys2Proof.Machine.execDrainMarkerArrival s
  | .eyeMeasurement => Sys2Proof.Machine.execEyeMeasurement s
  | .cxlLinkFailure => Sys2Proof.Machine.execCxlLinkFailure s
  | .hostCxlMemAccess => Sys2Proof.Machine.execHostCxlMemAccess s
  | .linkRetrainComplete => Sys2Proof.Machine.execLinkRetrainComplete s
  | .linkBringUp => Sys2Proof.Machine.execLinkBringUp s
  | .cxlLinkRestore => Sys2Proof.Machine.execCxlLinkRestore s

end Sys2Proof.Machine
end

