-- ==== Sys2Proof/Machine/Issue.lean ====
section
/-! DEFINITION. What a step does around the meaning of an instruction: which fragment of a lane block issues, the fetch of
its words, register interlocks, occupancy and operand banks, co-issue, the bank engines and walkers, and whose turn it is
when the schedule is empty (01 R14, R18, R20, R21, R30, R31; 03 R73, R74, R80, R81; 04 R94; 05 R151, R153; 06 R161, R163;
08 R226 to R228; assumption logs 1 and 2). -/

namespace Sys2Proof.Machine

/-! ## Whose turn it is on a lane block (01 R18) -/

/-- A fragment may issue: it is ready, or its instruction tests its condition again; it is not suspended, its group's tiles are
in place (11 R324), and a group that is to be saved runs only inside trap handlers, or to finish an instruction of 08 that it is held at (05 R151; 08 R238). -/
def State.mayIssue (s : State) (g : Group) (w : Wave) (f : Fragment) : Bool :=
  !f.suspended && g.bound.isNone && f.notBefore ≤ s.cycle &&
    match f.st with
    | .ready => !g.saving || tsNest w.tstat
    | .waiting (.again seen) => (!g.saving || tsNest w.tstat) && seen != s.progress
    | .waiting (.counters seen) => (!g.saving || tsNest w.tstat) && seen != s.progress
    | .waiting (.held seen _) => seen != s.progress
    | _ => false
/-- The entries 0 to 15 in turn, starting after one. -/
def after16 (last : Nat) : List Nat := (List.range 16).map fun j => (last + 1 + j) % 16
/-- The entries of a wave that may issue, in turn. -/
def State.turnOf (s : State) (g : Group) (w : Wave) : List Nat :=
  (after16 w.lastEntry).filter fun e => match w.frag? e with
    | some f => s.mayIssue g w f
    | none => false
/-- The waves on a lane block of a core, by wave slot in turn. -/
def State.wavesOn (s : State) (core block : Nat) : List (Nat × Nat × Group × Wave) :=
  let all := (s.groups.filter fun g => g.2.core = core).flatMap fun g => g.2.waves.map fun w => (g.1, w.1, g.2, w.2)
  (after16 ((s.core core).block block).last).flatMap fun k =>
    all.filter fun x => x.2.2.2.slot = k && k % 4 = block
/-- The fragments of the wave whose turn it is, in turn. -/
def State.nextFragments (s : State) (core block : Nat) : List (Nat × Nat × Nat) :=
  ((s.wavesOn core block).findSome? fun x => match s.turnOf x.2.2.1 x.2.2.2 with
    | [] => none
    | es => some (es.map fun e => (x.1, x.2.1, e))).getD []
/-- Those of them that are ready. -/
def State.readyFragments (s : State) (core block : Nat) : List (Nat × Nat × Nat) :=
  ((s.wavesOn core block).findSome? fun x =>
    match s.stillReady ((s.turnOf x.2.2.1 x.2.2.2).map fun e => (x.1, x.2.1, e)) with
    | [] => none
    | l => some l).getD []
/-- The instructions the decoders of a core have issued in this cycle (01 R14). -/
def State.decoded (s : State) (core : Nat) : Nat :=
  if (s.core core).decodeAt = s.cycle then (s.core core).decodes else 0
/-- A fragment of a wave that yielded has to be ready again now (05 R153). -/
def Wave.yieldDue (w : Wave) : Bool :=
  w.frags.any fun f => !f.2.suspended && match f.2.st with
    | .sleeping (.turns l n) => n = 0 || l = []
    | _ => false
/-- So has one of a lane block: it is woken before anything else issues there. -/
def State.yieldDue (s : State) (core block : Nat) : Bool :=
  s.groups.any fun g => g.2.core = core && g.2.waves.any fun w => w.2.slot % 4 = block && w.2.yieldDue
/-- The lane block takes new work, and the core's two decoders can issue `n` more instructions in this cycle (01 R14). -/
def State.blockFree (s : State) (core block n : Nat) : Bool :=
  ((s.core core).block block).busy ≤ s.cycle && s.decoded core + n ≤ 2 && !s.yieldDue core block

/-! ## The fetch (03 R73, R74, R80) -/

/-- What a fetch gives: what was read, a cause with its address, a poisoned address, or nothing while its line is held. -/
inductive Fetched (α : Type) where
  | got (x : α)
  | bad (c : Cause) (va : DWord)
  | poison (va : DWord)
  | held

/-- One word through the read-only partition of the core. A line that is not there is an access of its own (10 R301). -/
def State.fetchWord (s : State) (fr : Frame) (va : DWord) : State × Fetched Word :=
  match s.locate (some fr.g.core) fr.g.ctx va .fetch fr.priv with
  | .error c => (s, .bad c va)
  | .ok key =>
    let there := ((s.core fr.g.core).ro.look (roKey fr.g.ctx va)).isSome
    if !there && s.accessHeld key then (s, .held)
    else if !(slotsOf fr.act).all fun t => s.roInOrder fr.g.core fr.gid fr.wid t s.nextOp key 4 then (s, .held)
    else
      let s := if there then s else s.noteAccess fr [va] .fetch 3
      let r := s.readRo fr.g.core fr.g.ctx va key 4 true
      (r.1, if r.2.2 then .poison va else .got (wordOfBytes r.2.1))
/-- The instruction at the PC of a fragment: its first word, and what it decodes to. -/
def State.fetch (s : State) (fr : Frame) : State × Fetched (Word × Decoded) :=
  let pc := pcAddr fr.f.pc
  match s.fetchWord fr pc with
  | (s, .got w) =>
    if wordIsLong w then
      match s.fetchWord fr (pc + 4) with
      | (s, .got l) => (s, .got (w, decode w l))
      | (s, .bad c va) => (s, .bad c va)
      | (s, .poison va) => (s, .poison va)
      | (s, .held) => (s, .held)
    else (s, .got (w, decode w 0))
  | (s, .bad c va) => (s, .bad c va)
  | (s, .poison va) => (s, .poison va)
  | (s, .held) => (s, .held)

/-- The register a rejected word names in cr.TCAUSE (03 R80). -/
def Reject.reg : Reject → Nat
  | .operand r => r.toNat
  | _ => 0
/-- A word that is no instruction raises ILL; a uniform opcode raises it for slot u alone (01 R22). -/
def State.rejectWord (s : State) (fr : Frame) (w : Word) (r : Reject) : State :=
  let uni := 0x060 ≤ (fOp w).toNat && (fOp w).toNat ≤ 0x06F
  let m := match uni, fr.uniformSlot with
    | true, some u => slotBit u
    | _, _ => fr.act
  s.trap fr uni fr.w { cause := .ill, mask := m, reg := Reject.reg r }
/-- A poisoned word kills every slot of the fragment (14 R368). -/
def State.fetchPoison (s : State) (fr : Frame) (va : DWord) : State :=
  (s.killSlots fr.gid fr.wid ((slotsOf fr.act).map fun t => (t, va))).moved

/-! ## Interlocks and timing -/

/-- k registers from d on that a result of k words writes: none for a word or a pair named by v0, and v1 to v3 for the quad
named by v0 (01 R26; 06 R157). -/
def writtenFrom (d : Reg) (k : Nat) : List Nat :=
  if d = 0 && k ≤ 2 then [] else ((List.range k).map (d.toNat + ·)).filter (· != 0)
/-- The registers an operation will still write (06 R161). -/
def OpKind.targets : OpKind → List Nat
  | .load d n _ _ => writtenFrom d ((n + 3) / 4)
  | .readOnly d n => writtenFrom d ((n + 3) / 4)
  | .scratchLoad d n => writtenFrom d ((n + 3) / 4)
  | .atomic d n _ => writtenFrom d (n / 4)
  | .remote d n _ => writtenFrom d n
  | .exchange d _ _ _ _ => writtenFrom d 1
  | _ => []
/-- The instruction reads or writes a register that an outstanding operation of the wave will write. -/
def State.interlocked (s : State) (fr : Frame) (i : Instr) : Bool :=
  s.ops.any fun o => o.2.gid = fr.gid && o.2.wave = fr.wid &&
    o.2.kind.targets.any fun r => (touched i ++ fr.w.guardReg i).contains r
/-- The registers an instruction reads, and those it writes. -/
def sources (i : Instr) : List Nat := (((operands i).filter (·.read)).flatMap Opnd.regs).filter (· != 0)
/-- The registers an instruction writes. -/
def results (i : Instr) : List Nat := (((operands i).filter (·.write)).flatMap Opnd.regs).filter (· != 0)
/-- The cycle from which an instruction finds the results it reads (04 R94). -/
def Wave.readyAt (w : Wave) (i : Instr) : Nat :=
  if opGroup i = 2 || opGroup i = 3 then
    (sources i ++ w.guardReg i).foldl (fun m r => Nat.max m (w.fresh.lookD r 0)) 0 else 0
/-- Cycles lost to operand banks by an instruction that reads `reads` (01 R30): every source after the first of its bank,
but for those in the hold latch. A register that is a source twice counts twice, and the guard register is a source (01 R34;
assumption log 49). -/
def conflicts (b : Block) (gid wid : Nat) (reads : List Nat) : Nat :=
  let l := reads.filter fun r => !b.latch.any fun x => x.gid = gid && x.wave = wid && x.reg = r
  l.length - ((l.map (· % 4)).eraseDups).length
/-- The occupancy of an instruction without an access of its own (01 R14; 04 R94; 05 R131; 06 R163). -/
def occupancy (i : Instr) : Nat :=
  if isUniform i then 1
  else match i with
    | .divu _ _ _ _ => 16
    | .divs _ _ _ _ => 16
    | .frcp _ _ _ => 8
    | .frsq _ _ _ => 8
    | .fsqrt _ _ _ => 8
    | .fexp2 _ _ _ => 8
    | .flog2 _ _ _ => 8
    | .reduAdd _ _ _ => 8
    | .reduMin _ _ _ => 8
    | .reduMax _ _ _ => 8
    | .prefx _ _ _ => 8
    | .ldsQ _ _ _ _ => 8
    | .stsQ _ _ _ _ => 8
    | _ => 4
/-- The cycles added by the lines or packets of the operation an instruction has made (06 R163). -/
def Op.extraCycles (o : Op) : Nat :=
  match o.kind with
  | .remote _ _ parts => parts.length - 1
  | .scratchLoad _ _ => 0
  | .scratchStore _ => 0
  | _ => ((o.accs.map fun a => a.va.toNat / 128).eraseDups).length - 4
/-- The cycles an instruction occupies its lane block, seen once it has issued; `first` is the number the next operation
had before. -/
def State.cyclesOf (s : State) (first : Nat) (i : Instr) : Nat :=
  occupancy i + match s.ops.look first with
    | some o => if opGroup i = 5 || opGroup i = 6 then o.extraCycles else 0
    | none => 0
/-- The registers an instruction of a frame has written when it leaves a state: its results, but none when it trapped and no
slot completed it, which is then at no instruction after it and at no join record. -/
def Frame.wrote (fr : Frame) (i : Instr) (t : State) : List Nat :=
  match t.wave? fr.gid fr.wid with
  | none => results i
  | some w =>
    if tsNest w.tstat && !tsNest fr.w.tstat && !w.split.any fun x => match x.2 with
        | .frag f => f.suspended && f.pc = pcPlus fr.f.pc 1 && f.mask &&& fr.act != 0
        | .join j => j.arrived &&& fr.act != 0
      then [] else results i
/-- The hold latch after an instruction of a wave that has written registers (01 R31). -/
def Block.serve (b : Block) (gid wid : Nat) (i : Instr) (wrote : List Nat) : List Latch :=
  let mine : Latch → Bool := fun l => l.gid = gid && l.wave = wid
  let kept := (b.latch.map fun l => if mine l then { l with left := l.left - 1 } else l).filter fun l =>
    l.left != 0 && !(mine l && wrote.contains l.reg)
  match heldReg i with
  | some r =>
    if r = 0 || wrote.contains r.toNat then kept
    else
      let l := kept ++ [{ gid := gid, wave := wid, reg := r.toNat, left := 2 }]
      l.drop (l.length - 3)
  | none => kept
/-- The fragments that yielded on a lane block learn of an issue, and those of other lane blocks of no less (05 R153). -/
def State.sawIssue (s : State) (core block : Nat) (x : Nat × Nat × Nat) : State :=
  { s with groups := s.groups.map fun (g : Nat × Group) =>
      if g.2.core = core then
        (g.1, { g.2 with waves := g.2.waves.map fun (w : Nat × Wave) =>
          (w.1, if w.2.slot % 4 = block then w.2.onYields fun _ l n => (l.filter (· != x), n) else w.2) })
      else g }
/-- An issue opportunity of a lane block has passed for the fragments that had yielded on it before; `x` is the fragment
that had the turn (05 R153; assumption log 96). -/
def State.opportunity (s : State) (core block : Nat) (x : Nat × Nat × Nat) : State :=
  { s with groups := s.groups.map fun (g : Nat × Group) =>
      if g.2.core = core then
        (g.1, { g.2 with waves := g.2.waves.map fun (w : Nat × Wave) =>
          (w.1, if w.2.slot % 4 = block then
            w.2.onYields fun e l n => (l, if (g.1, w.1, e) = x then n else n - 1) else w.2) })
      else g }
/-- The first issue of a fragment that an instruction has placed, given as for an occupancy of four cycles from `now`, moves
with the end of its occupancy (05 R131). -/
def Wave.spaced (w old : Wave) (now stop : Nat) : Wave :=
  { w with split := w.split.map fun (x : Nat × Entry) => match x.2 with
      | .frag f =>
        if f.notBefore ≤ now || (old.frag? x.1).map (·.notBefore) = some f.notBefore then x
        else (x.1, Entry.frag { f with notBefore := f.notBefore + (stop - now) - 4 })
      | .join _ => x }
/-- When the occupancy of an instruction that reads `reads` ends (01 R14, R30). -/
def State.stopAt (s : State) (core slot : Nat) (x : Nat × Nat × Nat) (reads : List Nat) (cycles : Nat) : Nat :=
  s.cycle + cycles + conflicts ((s.core core).block (slot % 4)) x.1 x.2.1 reads
/-- What an issue whose occupancy ends at `stop` leaves on its core, its lane block and its wave: the decoders' count,
occupancy, the positions of 01 R18, the hold latch, and from when a result of group 2 may be read in groups 2 and 3; it has
written the registers `wrote`. -/
def State.noteIssue (s : State) (core slot : Nat) (x : Nat × Nat × Nat) (i : Instr) (wrote : List Nat) (stop : Nat) : State :=
  let s := s.onCore core fun c =>
    { c with decodeAt := s.cycle, decodes := s.decoded core + 1 }
  let s := s.onCore core fun c => c.onBlock (slot % 4) fun b =>
    { busy := Nat.max b.busy stop, last := slot, latch := b.serve x.1 x.2.1 i wrote }
  let s := s.onWave x.1 x.2.1 fun w =>
    { w with lastEntry := x.2.2,
             fresh := if opGroup i = 2 then wrote.foldl (fun t r => t.put r (stop + 2)) w.fresh
               else wrote.foldl (fun t r => t.del r) w.fresh }
  s.sawIssue core (slot % 4) x

/-! ## Issue -/

/-- The fragment is at its instruction still, to test a condition again. -/
def State.testsAgain (s : State) (x : Nat × Nat × Nat) : Bool :=
  match (s.wave? x.1 x.2.1).bind (·.frag? x.2.2) with
  | some f => match f.st with
    | .waiting (.again _) => true
    | .waiting (.held _ _) => true
    | _ => false
  | none => false
/-- The registers an instruction of a frame reads, its guard register among them. -/
def Frame.reads (fr : Frame) (i : Instr) : List Nat := sources i ++ fr.w.guardReg i
/-- The fragment waits on counters: its instruction has issued before (assumption log 113). -/
def Fragment.counting (f : Fragment) : Bool :=
  match f.st with
  | .waiting (.counters _) => true
  | _ => false
/-- An instruction is run for a fragment, and every wait is looked at again; one that has to test again has not issued, and one
that waited on counters has its occupancy behind it. The occupancy ends no earlier than `least`. -/
def State.runInstr (s : State) (fr : Frame) (i : Instr) (least : Nat) : Out :=
  let x := (fr.gid, fr.wid, fr.ent)
  match exec i s with
  | .next t =>
    let t := t.wake
    if t.testsAgain x || fr.f.counting then .next t
    else
      let stop := Nat.max least (s.stopAt fr.g.core fr.w.slot x (fr.reads i) (t.cyclesOf s.nextOp i))
      .next ((t.noteIssue fr.g.core fr.w.slot x i (fr.wrote i t) stop).onWave fr.gid fr.wid fun w => w.spaced fr.w s.cycle stop)
  | .fault f => .fault f
  | .refused r => .refused r
/-- The issuing unit is none again. -/
def settle : Out → Out
  | .next s => .next { s with cur := .none, view := none }
  | .fault f => .fault f
  | .refused r => .refused r
/-- The end of a turn of a lane block, in which the fragment `x` had its turn: an issue opportunity has passed. -/
def endTurn (core block : Nat) (x : Nat × Nat × Nat) : Out → Out
  | .next s => settle (.next (s.opportunity core block x).watch)
  | o => o
/-- The instruction is an access that a fence before it orders (06 R168): a generic or scratchpad access, an atomic, an
arrival or a wait on a barrier object, or a submission to an engine or to the context's queues and events (assumption log
106). -/
def fenceOrders (i : Instr) : Bool :=
  match opcode i with
  | some op => (0x140 ≤ op && op < 0x154) || (0x160 ≤ op && op < 0x168) || (0x180 ≤ op && op < 0x18C) ||
      (0x199 ≤ op && op ≤ 0x19A) || (0x1C0 ≤ op && op < 0x1E3)
  | none => false
/-- A fence of the wave is not complete, and the instruction is an access it holds back (06 R168). -/
def State.fenced (s : State) (fr : Frame) (i : Instr) : Bool :=
  fenceOrders i && fr.w.frags.any fun f => match f.2.st with
    | .waiting (.fence scope before) => (s.releaseUpTo fr.gid fr.wid (BitVec.allOnes 64) scope before).isNone
    | _ => false
/-- The instruction reads memory, a queue or the event vector when it issues. -/
def readsAtIssue : Instr → Bool
  | .qpop _ _ _ => true
  | .evrd _ _ _ => true
  | .waitv _ _ _ _ => true
  | .baroWt _ _ _ _ => true
  | _ => false
/-- An acquire of the fragment's slots is not performed, and the instruction is an access that reads at issue: it comes after it
(09 R260). -/
def State.behindAcquire (s : State) (fr : Frame) (i : Instr) : Bool :=
  readsAtIssue i && (slotsOf fr.act).any fun t => (s.earlier fr.gid fr.wid t s.nextOp).any fun x => x.1.kind.acquires
/-- A decoded instruction of a fragment: it waits for its registers, an acquire or a fence of its wave, or runs. -/
def State.issueInstr (s : State) (fr : Frame) (i : Instr) : Out :=
  if s.interlocked fr i || s.fenced fr i || s.behindAcquire fr i then .next (s.stall fr)
  else if s.cycle < fr.w.readyAt i then
    .next (s.putWave fr (fr.w.setFrag fr.ent { fr.f with st := .ready, notBefore := fr.w.readyAt i }))
  else s.runInstr fr i 0
/-- The issuing fragment fetches, decodes and runs its instruction. -/
def State.issueFrame (s : State) (fr : Frame) : Out :=
  match s.fetch fr with
  | (s, .got (_, .instr i)) => s.issueInstr fr i
  | (s, .got (w, .reject r)) => .next (s.rejectWord fr w r)
  | (s, .bad c va) => .next (s.trapAll fr c fr.act 0 va)
  | (s, .poison va) => .next (s.fetchPoison fr va)
  | (s, .held) => .next (s.stall fr)
/-- A lane block issues the fragment whose turn it is. -/
def State.issueTurn (s : State) (core block : Nat) : Out :=
  match s.nextFragments core block with
  | [] => .fault .badTurn
  | x :: _ =>
    let s : State := { s with cur := .wave x.1 x.2.1 x.2.2, view := none }
    match s.frame? with
    | none => .fault .badTurn
    | some fr => if s.blockFree core block 1 then endTurn core block x (s.issueFrame fr) else .fault .badTurn

/-! ## Co-issue (01 R20, R21) -/

/-- The instruction may share its beats with another. -/
def pairs (i : Instr) : Bool :=
  opGroup i < 4 && !isUniform i && match i with
    | .setm _ _ _ => false
    | .setmi _ => false
    | .tagw _ _ => false
    | _ => true
/-- The destination registers of two instructions differ. -/
def apart (i j : Instr) : Bool :=
  !((operands i).filter (·.write)).any fun o => o.regs.any fun r => ((operands j).filter (·.write)).any fun p => p.regs.contains r
/-- The instruction reads and clears STAT. -/
def readsStat : Instr → Bool
  | .stat _ _ _ => true
  | _ => false
/-- The second instruction of a pair reads its wave as it stood before the first; it does not run when the first has
suspended its fragment or ended its group. -/
def State.runSecond (s : State) (gid wid ent : Nat) (old : Wave) (i : Instr) (stop : Nat) : Out :=
  let s : State := { s with cur := .wave gid wid ent, view := some old }
  match s.frame? with
  | none => .next s
  | some fr => if fr.f.suspended then .next s else s.runInstr fr i stop
/-- Two fragments of a wave issue in the same beats, which end at `stop`. A stat that issues second runs first, so that it
clears no flag it has not read. -/
def State.runPair (s : State) (fr fs : Frame) (i j : Instr) (stop : Nat) : Out :=
  if readsStat j then
    match ({ s with cur := .wave fs.gid fs.wid fs.ent } : State).runInstr fs j stop with
    | .next t => t.runSecond fr.gid fr.wid fr.ent fr.w i stop
    | o => o
  else match s.runInstr fr i stop with
    | .next t => t.runSecond fs.gid fs.wid fs.ent fr.w j stop
    | o => o
/-- When the occupancy of a pair ends. DESIGN CHOICE (assumption log 49): the two read their operands in the same beats, each
from the banks of its own lane pairs, so the pair loses the larger number of conflicts of the two, not their sum. -/
def State.pairStop (s : State) (fr fs : Frame) (i j : Instr) : Nat :=
  let one : Frame → Instr → Nat := fun x k =>
    s.stopAt x.g.core x.w.slot (x.gid, x.wid, x.ent) (x.reads k) (occupancy k)
  Nat.max (one fr i) (one fs j)
/-- A lane block issues the ready fragment whose turn it is together with the ready fragment of its wave in entry `ent`
(assumption log 52). -/
def State.coissueTurn (s : State) (core block ent : Nat) : Out :=
  match s.readyFragments core block with
  | [] => .fault .badTurn
  | x :: rest =>
    let s : State := { s with cur := .wave x.1 x.2.1 x.2.2, view := none }
    match s.frame?, ({ s with cur := .wave x.1 x.2.1 ent } : State).frame? with
    | some fr, some fs =>
      if !rest.contains (x.1, x.2.1, ent) then .fault .badTurn
      else match s.fetch fr with
      | (s, .got (_, .instr i)) =>
        match s.fetch fs with
        | (s, .got (_, .instr j)) =>
          if pairs i && pairs j && apart i j && s.blockFree core block 2 && !s.interlocked fr i &&
              !s.interlocked fs j && fr.w.readyAt i ≤ s.cycle && fr.w.readyAt j ≤ s.cycle then
            endTurn core block x (s.runPair fr fs i j (s.pairStop fr fs i j))
          else .fault .badTurn
        | _ => .fault .badTurn
      | _ => .fault .badTurn
    | _, _ => .fault .badTurn

/-! ## Bank engines and walkers (08 R226 to R228) -/

/-- The words at a place of a list that holds n words, if the instruction lies within it. -/
def wordsAt (read : Nat → Word) (n pc : Nat) : Option Decoded :=
  if n ≤ pc then none
  else if wordIsLong (read pc) then (if n ≤ pc + 1 then none else some (decode (read pc) (read (pc + 1))))
  else some (decode (read pc) 0)
/-- A bank engine runs one instruction of its program. -/
def State.bankTurn (s : State) (e : Nat) : Out :=
  let g := s.engine e
  match g.prog with
  | none => .fault .badTurn
  | some p =>
    if p.spent then .next ((s.endBank e 0x24).wake).moved
    else match wordsAt (fun k => g.store.lookD (512 * p.code + k) 0) 512 p.pc with
      | some (.instr i) =>
        match exec i { s with cur := .bank e } with
        | .next t => settle (.next t.wake)
        | o => o
      | _ => .next ((s.endBank e 0x01).wake).moved
/-- The address of a poisoned word that a walker fetches at a place of its image: the word there, or the literal after it (08
R228). -/
def Command.poisonAt (c : Command) (pc : Nat) : Option DWord :=
  let k := pc / 4
  if pc % 4 != 0 then none
  else if c.imageBad.contains k then some (c.imageVa + BitVec.ofNat 64 pc)
  else if wordIsLong (c.image.getD k 0) && c.imageBad.contains (k + 1) then some (c.imageVa + BitVec.ofNat 64 (pc + 4))
  else none
/-- A walker runs one instruction of its image; a walk that has used up its budget ends instead. -/
def State.walkerTurn (s : State) (id : Nat) : Out :=
  match s.walkers.look id with
  | none => .fault .badTurn
  | some w =>
    match w.place, s.commands.look w.cmd with
    | .running _, some c =>
      if c.spent then (match s.walkBudget w.cmd with
        | some t => .next t.wake.moved
        | none => .fault .badTurn)
      else match c.poisonAt w.pc with
        | some va => .next ((s.endWalkerPoison id va).wake).moved
        | none => match (if w.pc % 4 = 0 then wordsAt (fun k => c.image.getD k 0) c.image.length (w.pc / 4) else none) with
          | some (.instr i) =>
            (match exec i { s.countWalker w.cmd c with cur := .walker id } with
            | .next t => settle (.next t.wake)
            | o => o)
          | _ => .next ((s.endWalker id 0x01).wake).moved
    | _, _ => .fault .badTurn

/-! ## Turns -/

/-- An event happens. -/
def State.eventTurn (s : State) (i : Instr) (p : Particulars) : Out :=
  if (opcode i).isSome then .fault .badTurn else exec i { s with cur := .none, about := p }
/-- The last cycle before which a wake that is due, or a bound of a held event, has to come (05 R131, R151): a sleep or a
waitv of a fragment that no trap suspends wakes within 64 cycles of its tick, and an event is held 2^20 ticks (assumption
log 102). -/
def Wave.bounds (w : Wave) : List Nat :=
  (match w.heldSince with
    | some t => if tsApend w.tstat then [7 * (t + 2 ^ 20)] else []
    | none => []) ++
  w.frags.filterMap fun f => if f.2.suspended then none else match f.2.st with
    | .sleeping (.tick t) => some (7 * t + 64)
    | .waiting (.event _ _ _ _ t) => some (7 * t + 64)
    | _ => none
/-- The last cycle of a reference tick. -/
def lastCycle (tick : Nat) : Nat := 7 * tick + 6
/-- The cycles by which the time-outs of an operation come: of its accesses that wait on empty rows (06 R166), and of a half of
an exchange whose fragment waits and is not suspended (06 R196). -/
def State.opBounds (s : State) (id : Nat) (o : Op) : List Nat :=
  (o.accs.filterMap fun a => if a.done then none else a.arrived.map fun t => lastCycle (t + o.tmo)) ++
    match o.kind with
    | .exchange _ _ _ _ deadline =>
      if (s.wave? o.gid o.wave).any fun w => w.frags.any fun f => f.2.st = .waiting (.exchange id) && !f.2.suspended then
        [lastCycle deadline] else []
    | _ => []
/-- The cycles the clock may not pass before what is due has happened: those bounds; the next sample of telemetry, every
1,000 reference ticks (14 R378); a fragment that yielded and has to be ready again (05 R153); and messages of a withdrawal, 2^10
ticks after it (06 R193). -/
def State.bounds (s : State) : List Nat :=
  [lastCycle s.dev.nextSample] ++ (s.groups.flatMap fun g => g.2.waves.flatMap fun w =>
      w.2.bounds ++ if w.2.yieldDue then [s.cycle] else []) ++
    (s.ops.flatMap fun o => s.opBounds o.1 o.2) ++ (s.mail.filterMap fun m => m.due.map lastCycle) ++
    (List.range 44).map fun k => lastCycle ((Nat.max (eyePeriod s.tick) ((s.report k).period + 1)) * 2 ^ 24)
/-- The clock moves, past nothing that is due. -/
def State.clockTurn (s : State) (n : Nat) : Out :=
  if s.bounds.all fun b => s.cycle + n ≤ b then .next ({ s with cycle := s.cycle + n } : State).moved
  else .fault .badTurn
/-- A turn of the device's own that is possible, after which every wait is looked at again. -/
def ifTurn (x : Option State) : Out :=
  match x with
  | some t => .next t.wake.moved
  | none => .fault .badTurn
/-- One turn. -/
def takeTurn (t : Turn) (s : State) : Out :=
  match t with
  | .issue core block => s.issueTurn core block
  | .coissue core block ent => s.coissueTurn core block ent
  | .event i p => s.eventTurn i p
  | .bank e => s.bankTurn e
  | .walker id => s.walkerTurn id
  | .clock n => s.clockTurn n
  | .evictRo core l => .next (s.onCore core fun c => { c with ro := c.ro.del l }).moved
  | .fillRo core ctx va words units => ifTurn (s.fillRo core ctx va words units)
  | .writeBack die l => .next (s.onDie die fun d => { d with lines := d.lines.del l }).moved
  | .evictCoreTlb core k => .next (s.onCore core fun c => { c with tlb := c.tlb.del k }).moved
  | .evictDieTlb die k => .next (s.onDie die fun d => { d with tlb := d.tlb.del k }).moved
  | .upset u => ifTurn (s.upset u)
  | .forward p => ifTurn (s.forward p)
  | .idle k => ifTurn (s.sendIdle k)
  | .deliver m => ifTurn (s.deliver m)

/-! ## The turns of an empty schedule (assumption log 1) -/

/-- The events an outstanding operation can come to, for the slots it has not performed. -/
def opTurns (x : Nat × Op) : List Turn :=
  let open' := (x.2.accs.filter fun a => !a.done).map (·.slot)
  let m := maskOf open'
  let each : List Turn := match open' with
    | [_] => []
    | l => l.flatMap fun k => [Instr.loadReturn, .storePerformed, .emptyRowTimeout].map
        fun i => Turn.event i { op := x.1, slots := slotBit k }
  let own : List Turn := match x.2.kind with
    | .reduce l => [.event .crucibleListArrival
        { switch := l.mergeId.toNat % 32, list := some { l with op := some x.1 } }]
    | _ => []
  [Instr.loadReturn, .storePerformed, .emptyRowTimeout, .copyComplete, .cprtComplete, .nmldComplete, .searchComplete,
    .walkComplete, .walkBudgetExpiry, .tkmergeComplete, .crucibleRetry, .cwxchRetry].map
      (fun i => Turn.event i { op := x.1, slots := m }) ++ each ++ own
/-- The events a wave and its fragments can come to. -/
def waveTurns (gid wid : Nat) (w : Wave) : List Turn :=
  .event .heldEventTimeout { gid := gid, wave := wid } :: (w.frags.flatMap fun f =>
    [Instr.waitvTimeout, .sleepWake, .yieldWake, .baroWtTimeout, .pairTimeout, .loopStepComplete, .trackedArrival].map
      fun i => Turn.event i { gid := gid, wave := wid, ent := f.1 })
/-- The turns of a group: its save, its waves' events, and its lane blocks. -/
def groupTurns (x : Nat × Group) : List Turn :=
  .event .groupSave { gid := x.1 } :: x.2.waves.flatMap fun w =>
    .issue x.2.core (w.2.slot % 4) :: waveTurns x.1 w.1 w.2
/-- The turns of a core: its matrix queue, its packets and its assay. -/
def coreTurns (c : Nat) : List Turn :=
  ([Instr.wbldEntryDone, .wbzEntryDone, .mmaEntryDone, .acczEntryDone, .accsvEntryDone, .accrsEntryDone, .tdrainEntryDone,
    .tscaleEntryDone, .xPacketSend].map fun i => Turn.event i { core := c }) ++
    [.event .assayComplete { core := c, flag := true }]
/-- The turns of a core that asks for an early assay: its isle drains it (06 R184; 11 R325). -/
def earlyTurns (x : Nat × Core) : List Turn :=
  if x.2.early then [.event .assayDrainStart { isle := x.1 / 24 }] else []
/-- The turns of a launch: its end, the go of a gang that this device is home to, and the ladles of its records. -/
def launchTurns (dev ctx serial : Nat) (l : Launch) : List Turn :=
  ([Instr.launchComplete, .launchTimeout].map fun i => Turn.event i { ctx := ctx, serial := serial }) ++
    (if l.hdr.gdev = dev then l.plan.toList.map fun p => Turn.event .gangGo { ctx := ctx, serial := serial, unit := p.1 }
      else []) ++
    l.chunks.map fun k => Turn.event .ladleFill { core := k.core }
/-- A link by the number of its report. -/
def linkAt (k : Nat) : LinkId := if k < 32 then .strait k else if k < 40 then .cxl (k - 32) else .ucie (k - 40)
/-- The eye measurements that are due: they find each link as it was, with nothing counted (14 R386). -/
def State.eyeTurns (s : State) : List Turn :=
  ((List.range 44).filter fun k => (s.report k).period < eyePeriod s.tick).map fun k =>
    let r := s.report k
    .event .eyeMeasurement { link := some (linkAt k), eye := some { width := r.width, height := r.height, lane := r.lane,
                                                                    fecc := 0, fecu := 0, replays := 0, retrains := 0 } }
/-- Every turn that may be possible. -/
def State.turns (s : State) : List Turn :=
  s.ops.flatMap opTurns ++ s.groups.flatMap groupTurns ++ (s.cores.flatMap fun c => coreTurns c.1 ++ earlyTurns c) ++
    (s.engines.flatMap fun e => [Turn.bank e.1, .event .bankLaunchStart { engine := e.1 }]) ++
    (s.walkers.flatMap fun w => [Turn.walker w.1, .event .ferryArrival { op := w.1 }]) ++
    (s.commands.map fun c => Turn.event .searchAccept { stack := c.2.stack }) ++
    (s.hbm.map fun k => Turn.event .repairComplete { stack := k.1 }) ++
    ((s.net.filter fun p => !isList p).map fun p => if p.ptype = 9 then
        .event .drainMarkerArrival { switch := p.strait.toNat, flag := p.gen,
                                     port := (s.switch p.strait.toNat).landing p.gen p.sdev.toNat }
      else if packetGoal p != s.dev.devnum then .forward p
      else if p.ptype = 10 then .event .lostNotice { ctx := p.ctx.toNat, port := p.strait.toNat }
      else if p.ptype = 8 then .event .xResponseAccept { pkt := some p }
      else .event .xRequestArrival { pkt := some p }) ++
    s.mail.map .deliver ++ s.eyeTurns ++
    (s.switches.flatMap fun k => (List.range k.2.merges.length).map fun j =>
      Turn.event .crucibleMergeTimeout { switch := k.1, index := j }) ++
    (s.contexts.flatMap fun c => c.2.launches.flatMap fun l => launchTurns s.dev.devnum c.1 l.1 l.2) ++
    (s.dies.flatMap fun d => d.2.qway.map fun q => Turn.event .quarantineWritebackDone { die := d.1, slice := q.1 }) ++
    [Turn.event .dispatchStep {}, .event .preemptionCheck {}, .event .idSignComplete {}, .event .telemetrySample {}, .clock 1]
/-- What a state does when its schedule is empty: of its turns, from a place that moves on with its progress, the first that
leads on. -/
def State.defaultTurn (s : State) : Out :=
  let l := s.turns
  let k := s.progress % l.length
  match (l.drop k ++ l.take k).findSome? fun t => match takeTurn t s with
      | .next s' => some s'
      | _ => none with
  | some s' => .next s'
  | none => .fault .badTurn

/-! ## Code placed from outside (assumption log 3) -/

/-- The VA of placed code: device memory of die 0, offset 0. -/
def State.codeVa (s : State) : DWord := s.vaOf 0 0
/-- The words of a list of bytes. -/
def twoWords (bs : List Byte) : Tab Word := [(0, wordOfBytes (bs.take 4)), (1, wordOfBytes (bs.drop 4))]
/-- Code at the PC of the only wave of the device, in context 0 on core 0, whose translation is on; its page is in the core's
TLB. -/
def State.withCoreCode (s : State) (bs : List Byte) (priv : Bool) : State :=
  let key := keyOf 0 0 false 0
  let w := { newWave 0 0 0 s.codeVa s.cycle with priv := priv }
  let g : Group :=
    { ctx := 0, serial := s.nextSerial, unit := 0, member := 0, core := 0, base := 0, size := 0, regs := 128, waves := [(0, w)],
      notes := [], written := [], attached := true, present := true, held := false, gone := [], left := [], saving := false,
      image := none, bound := none }
  let x : Xlat := { frame := 0, tier := 0, bl := false, w := true, x := true, sup := false }
  let s := s.setBytes key bs
  let s := s.onCore 0 fun c => { c with ro := [], tlb := c.tlb.put (tlbKey 0 0) x, blocks := [] }
  let s := s.onDie 0 fun d => { d with retired := [], qway := [], troot := d.troot.put 0 0x10001 }
  { s with groups := [(0, g)], nextGroup := Nat.max 1 s.nextGroup, poison := s.poison.del (key / 16), schedule := [.issue 0 0] }
/-- Code at the start of a program of bank engine 0. -/
def State.withBankCode (s : State) (bs : List Byte) : State :=
  let l : BankLaunch :=
    { ctx := 0, op := s.nextOp, recKey := keyOf 0 0 false 0, start := 0, mode := modeAtLaunch &&& 0x3FFFFF#32, regVa := 0, rowBase := 0, sid := 0, args := 0,
      argKeys := [], rowKeys := [], object := none, budget := 0 }
  let p : BankProg :=
    { launch := l, code := 0, regs := [], tags := [], mask := BitVec.allOnes 128, masks := [], loops := [], allBank := false,
      bank := 0, row := none, flags := 0, pc := 0, count := 0 }
  let g := s.engine 0
  let ws := twoWords bs
  { s.setEngine 0 { g with prog := some p, store := (g.store.write 0 0 (ws.lookD 0 0)).write 0 1 (ws.lookD 1 0) } with
    schedule := [.bank 0] }
/-- Code at the start of the image of a walker. -/
def State.withWalkerCode (s : State) (bs : List Byte) : State :=
  let c : Command :=
    { ctx := 0, priv := false, want := 2, answer := none, kind := 2, topk := false, pop := 0, k := 1, index := none, region := none,
      die := 0, stack := 0, query := [], queryBad := none, out := 0, outKeys := [], cmdKey := keyOf 0 0 false 0,
      object := none, first := 0, limit := 0, recsz := 0, foff := 0, ftag := 0, opA := 0, opB := 0, cap := 0, budget := 0,
      image := (twoWords bs).map (·.2), imageVa := 0, imageBad := [], mode := modeAtLaunch &&& 0x3FFFFF#32, snapshot := 0, walkers := 1, accepted := true,
      heap := [], code := 0, ended := 0, ran := 0, poisonMet := false }
  let w : Walker := { cmd := s.nextOp, place := .running 0, regs := [], tags := [], flags := 0, pc := 0 }
  { s with commands := s.commands.put s.nextOp c, walkers := s.walkers.put 0 w, schedule := [.walker 0] }

end Sys2Proof.Machine
end

