-- ==== Sys2Proof/Machine/Step.lean ====
section
/-! DEFINITION. One step of the device, and the state whose next step runs a given instruction (assumption log 1). -/

namespace Sys2Proof.Machine

/-- One step: the next turn of the schedule, or the turn of an empty schedule. -/
def step (s : State) : Host.Outcome State Fault Refusal :=
  match s.schedule with
  | [] => s.defaultTurn
  | t :: r => takeTurn t { s with schedule := r }

/-- The state with an instruction where the next step fetches it: at the PC of a wave of its own on core 0, in the program
of bank engine 0 when only bank engines run it, or in the image of a walker when only walkers do. -/
def State.withFetchWord (s : State) (nbits w : Nat) : State :=
  match decodeTableWord nbits w with
  | some i =>
    if runsOn .core i then s.withCoreCode (tableBytes nbits w) (needsPrivilege i)
    else if runsOn .bank i then s.withBankCode (tableBytes nbits w)
    else s.withWalkerCode (tableBytes nbits w)
  | none => s.withCoreCode (tableBytes nbits w) false

end Sys2Proof.Machine
end

