-- ==== Sys2Proof/Safety.lean ====
section
/-! DEFINITION. What claims are stated in: memory in canonical form, when an instruction runs its own effect on a unit,
and what the rules say
of an instruction of opcode groups 0 to 3 and of an instruction that accesses memory. -/

namespace Sys2Proof.Machine

/-! ## Memory -/

/-- The canonical form of memory: addresses strictly rising, no byte that equals what an unlisted address reads as. -/
abbrev Memory.wf (m : Tab Byte) : Bool := Tab.canon 0 m

/-! ## When an instruction runs its own effect -/

/-- Instruction `i` issues for fragment `fr` of a core and nothing that comes before its own effect stops it: no deferred
load fault, no ILL, PRIV or STACK (01 R41; 03 R80, R81; 05 R143; 06 R427). -/
abbrev Starts (s : State) (fr : Frame) (i : Instr) : Prop :=
  s.frame? = some fr ∧ fr.loadFault i = none ∧ runsOn .core i = true ∧ badOperand fr.g.regs i = none ∧
    numbersOk i = true ∧ (needsPrivilege i = true → fr.w.priv = true) ∧
    (placesSlots i = false → (fr.w.advance fr.ent fr.f (sizeOf4 i / 4) s.cycle).isSome = true)

/-- Instruction `i` runs in the program `p` of bank engine `e` without ILL (03 R81; 08 R226). -/
abbrev BankStarts (s : State) (e : Nat) (p : BankProg) (i : Instr) : Prop :=
  s.cur = .bank e ∧ (s.engine e).prog = some p ∧ runsOn .bank i = true ∧ badOperand 16 i = none ∧ numbersOk i = true

/-- Instruction `i` runs on walker `w` of command `c` without ILL (03 R81; 08 R227). -/
abbrev WalkerStarts (s : State) (id : Nat) (w : Walker) (c : Command) (i : Instr) : Prop :=
  s.cur = .walker id ∧ s.walkers.look id = some w ∧ s.commands.look w.cmd = some c ∧ runsOn .walker i = true ∧
    badOperand 32 i = none ∧ numbersOk i = true

/-- Instructions of a list go on whenever they start on a core, the tags of the registers named beside them pass their
checks (01 R28), and what they need of the frame holds: exec answers the next state, in which the fragment has gone on
after the instruction and the issuing wave alone has its results (01 R35; 05 R129). -/
def GoOn (l : List (Instr × List (Reg × (Byte → Bool)))) (needs : Frame → Prop := fun _ => True) : Prop :=
  ∀ (s : State) (fr : Frame), ∀ x ∈ l, Starts s fr x.1 → x.2.all fr.look.ok = true → needs fr →
    ∃ w : Wave, exec x.1 s = .next (s.finish fr w x.1)

/-! ## Where a fragment goes -/

/-- The state in which the issuing wave is `w` and something has happened. -/
def State.becomes (s : State) (fr : Frame) (w : Wave) : State := (s.putWave fr w).moved

/-- The fragment of a frame at a place, ready to issue from a cycle on, with a mask and a join link. -/
def Frame.fragAt (fr : Frame) (pc : Pc) (mask : DWord) (link : Option Nat) (from' : Nat) : Fragment :=
  { fr.f with pc := pc, mask := mask, st := .ready, link := link, notBefore := from' }

/-- Nothing but the issuing fragment moves when it does: it has slots, all of them alive; the wave is in no loop; every
other fragment has slots of its own; every join record still waits for a slot. -/
abbrev Frame.Quiet (fr : Frame) : Prop :=
  fr.w.loops = [] ∧ fr.f.mask ≠ 0 ∧ fr.act = fr.f.mask ∧ fr.f.mask &&& fr.w.alive = fr.f.mask ∧
    fr.w.split.all (fun x => match x.2 with
      | .frag g => (if x.1 = fr.ent then decide (g = fr.f) else g.mask != 0 && decide (g.mask &&& fr.f.mask = 0)) &&
          (match g.st with
            | .waiting (.loopStep _) => false
            | _ => true)
      | .join j => x.1 != fr.ent && j.wait != 0) = true

/-- No fragment of a group waits at its barrier. -/
abbrev Group.noneAtBar (g : Group) : Prop :=
  g.waves.all (fun x => x.2.split.all fun y => match y.2 with
    | .frag f => !decide (f.st = .waiting .barrier)
    | .join _ => true) = true

/-! ## What a register result changes -/

/-- Wave `w'` is `w` with a result: register `d` (and the next one of a pair) holds it in the slots of `m`, no other
register of any slot changes, v0 is never written, the tag and the flags are set, and nothing else of the wave changes. -/
def Wave.Result (w w' : Wave) (d : Nat) (wide : Bool) (m : DWord) (val : Nat → DWord) (tag : Option Byte)
    (flags : FlagSet) : Prop :=
  (∀ n t, t < 64 → w'.reg n t =
    if d ≠ 0 ∧ n = d ∧ inMask m t = true then (val t).extractLsb' 0 32
    else if d ≠ 0 ∧ wide = true ∧ n = d + 1 ∧ inMask m t = true then (val t).extractLsb' 32 32
    else w.reg n t) ∧
  (∀ n, w'.tag n =
    match tag with
    | some g => if d ≠ 0 ∧ (n = d ∨ wide = true ∧ n = d + 1) then g else w.tag n
    | none => w.tag n) ∧
  w'.stat = w.stat ||| flags.setWidth 32 ∧
  { w' with regs := w.regs, tags := w.tags, stat := w.stat } = w

/-- The same for a bank wave: lanes of the current mask, no pairs. -/
def BankProg.Result (p q : BankProg) (d : Nat) (m : BitVec 128) (val : Nat → Word) (tag : Option Byte) (flags : FlagSet) :
    Prop :=
  (∀ n l, l < 128 → q.reg n l = if d ≠ 0 ∧ n = d ∧ m.getLsbD l = true then val l else p.reg n l) ∧
  (∀ n, q.tag n =
    match tag with
    | some g => if d ≠ 0 ∧ n = d then g else p.tag n
    | none => p.tag n) ∧
  q.flags = p.flags ||| flags ∧
  { q with regs := p.regs, tags := p.tags, flags := p.flags } = p

/-- The same for a walker. -/
def Walker.Result (w w' : Walker) (d : Nat) (wide : Bool) (val : DWord) (tag : Option Byte) (flags : FlagSet) : Prop :=
  (∀ n, w'.reg n =
    if d ≠ 0 ∧ n = d then val.extractLsb' 0 32
    else if d ≠ 0 ∧ wide = true ∧ n = d + 1 then val.extractLsb' 32 32
    else w.reg n) ∧
  (∀ n, w'.tag n =
    match tag with
    | some g => if d ≠ 0 ∧ (n = d ∨ wide = true ∧ n = d + 1) then g else w.tag n
    | none => w.tag n) ∧
  w'.flags = w.flags ||| flags ∧
  { w' with regs := w.regs, tags := w.tags, flags := w.flags } = w

/-! ## Rules of opcode groups 0 to 3 -/

/-- What the spec says of an instruction of groups 0 to 3: its destination, whether it is a pair, whether it obeys the
guard, the tag checks and what else the tags must fit, the result tag (none leaves the tag), and the result and flags of a
lane. -/
structure Rule where
  instr : Instr
  d : Reg
  wide : Bool := false
  guarded : Bool := true
  checks : View → List (Reg × (Byte → Bool))
  needs : View → Bool := fun _ => true
  tag : View → Option Byte
  val : View → Nat → DWord
  flags : View → Nat → FlagSet := fun _ _ => 0

/-- Every tag check passes. -/
def Rule.passes (r : Rule) (v : View) : Bool := (r.checks v).all v.ok && r.needs v
/-- The thread slots an instruction acts for. -/
def Rule.slots (r : Rule) (fr : Frame) : DWord := if r.guarded then fr.part else fr.act
/-- No lane is invalid under MODE.inv_trap. -/
def Rule.untrapped (r : Rule) (fr : Frame) : Bool :=
  !modeInvTrap fr.v.mode || (slotsOf (r.slots fr)).all fun t => !hasIV (r.flags fr.look t)
/-- The flags of the lanes of a list together. -/
def Rule.raised (r : Rule) (v : View) (ts : List Nat) : FlagSet := ts.foldl (fun g t => g ||| r.flags v t) 0

/-- On a core: each slot of the fragment that passes the guard gets its result, in the state of the wave alone. -/
def Rule.OnCore (r : Rule) : Prop :=
  ∀ s fr, Starts s fr r.instr → isUniform r.instr = false → r.passes fr.look = true → r.untrapped fr = true →
    ∃ w, exec r.instr s = .next (s.finish fr w r.instr) ∧
      fr.w.Result w r.d.toNat r.wide (r.slots fr) (r.val fr.look) (r.tag fr.look)
        (r.raised fr.look (slotsOf (r.slots fr)))

/-- A uniform form on a core: slot u computes and every live slot of the wave gets the result, and the tag is written; with
no slot u nothing is written (01 R22; 04 R108). -/
def Rule.Uniform (r : Rule) : Prop :=
  ∀ s fr, Starts s fr r.instr →
    (lowest fr.part = none → exec r.instr s = .next (s.finish fr fr.w r.instr)) ∧
    ∀ u, lowest fr.part = some u → r.passes fr.look = true →
      ∃ w, exec r.instr s = .next (s.finish fr w r.instr) ∧
        fr.w.Result w r.d.toNat r.wide fr.w.live (fun _ => r.val fr.look u) (r.tag fr.look) 0

/-- In a bank program: every lane of the current mask gets its result (08 R225). -/
def Rule.OnBank (r : Rule) : Prop :=
  ∀ s e p, BankStarts s e p r.instr → r.passes p.look = true →
    ∃ q, exec r.instr s = .next (s.setProg e (q.advance (sizeOf4 r.instr / 4))).moved ∧
      p.Result q r.d.toNat p.mask (fun l => (r.val p.look l).extractLsb' 0 32) (r.tag p.look)
        (r.raised p.look (lanesOf p.mask))

/-- On a walker: its one lane gets its result (08 R227). -/
def Rule.OnWalker (r : Rule) : Prop :=
  ∀ s id w c, WalkerStarts s id w c r.instr → r.passes (w.look c.mode) = true →
    ∃ w', exec r.instr s = .next (s.walkOn id w' c (sizeOf4 r.instr / 4)).moved ∧
      w.Result w' r.d.toNat r.wide (r.val (w.look c.mode) 0) (r.tag (w.look c.mode)) (r.flags (w.look c.mode) 0)

/-- The rule holds on every unit that runs the instruction. -/
def Rule.Holds (r : Rule) : Prop := r.OnCore ∧ r.OnBank ∧ r.OnWalker

/-! ## Values by the rules -/

/-- A register pattern as a number (02 R49). -/
def num (signed : Bool) (x : Word) : Int := if signed then x.toInt else (x.toNat : Int)
/-- The low 32 bits of a result, or the nearest end of the range under MODE.sat (02 R50). -/
def fitted (v : View) (signed : Bool) (z : Int) : Word :=
  if modeSat v.mode then
    if signed then BitVec.ofInt 32 (if z < -2147483648 then -2147483648 else if 2147483647 < z then 2147483647 else z)
    else BitVec.ofInt 32 (if z < 0 then 0 else if 4294967295 < z then 4294967295 else z)
  else BitVec.ofInt 32 z
/-- The same for 64 bits, signed (04 R101). -/
def fittedPair (v : View) (z : Int) : DWord :=
  if modeSat v.mode then
    BitVec.ofInt 64 (if z < -9223372036854775808 then -9223372036854775808
      else if 9223372036854775807 < z then 9223372036854775807 else z)
  else BitVec.ofInt 64 z
/-- The signedness 04 R92 gives: by the tag of a, or of b when a is v0. -/
def signedBy (v : View) (a b : Reg) : Bool := v.res (if a = 0 then b.toNat else a.toNat) = 0x10
/-- The tag of a signed or an unsigned integer. -/
def tagOf (signed : Bool) : Byte := if signed then 0x10 else 0x11
/-- A word as a result. -/
def word (x : Word) : DWord := x.setWidth 64
/-- One bit as a result. -/
def bit (b : Bool) : DWord := if b then 1 else 0
/-- A pair of a lane; the pair named by v0 reads zero (04 R93). -/
def pairOf (v : View) (r : Reg) (t : Nat) : DWord := if r = 0 then 0 else v.reg (r.toNat + 1) t ++ v.reg r.toNat t
/-- The checks of a pair (04 R93). -/
def pairTags (r : Reg) : List (Reg × (Byte → Bool)) := if r = 0 then [] else [(r, (· = 0x12)), (r + 1, (· = 0x12))]
/-- INT (04 R92). -/
def intTags (rs : List Reg) : List (Reg × (Byte → Bool)) := rs.map fun r => (r, fun t => t = 0x10 || t = 0x11)
/-- ANY: the assigned codes of 02 R68 but 0x70 (02 R69). -/
def anyTags (rs : List Reg) : List (Reg × (Byte → Bool)) := rs.map fun r => (r, assignedTag)
/-- F32 (04 R109). -/
def floatTags (rs : List Reg) : List (Reg × (Byte → Bool)) := rs.map fun r => (r, (· = 0x20))

/-! ## Trap entry (01 R38 to R42; 05 R147) -/

/-- What trap entry leaves of a wave whose slots `m` of the fragment raised the cause: the trap registers, supervisor
privilege, and every other fragment suspended (05 R147). -/
def Wave.trapped (w : Wave) (fr : Frame) (cause : Cause) (reg : Nat) (uni : Bool) (addr : DWord) (m : DWord) : Wave :=
  { w with tpc := fr.f.pc ++ 0#2, tmask := m,
           tcause := BitVec.ofNat 32 (cause.code + reg * 256 + (if uni then 32768 else 0)),
           taddr := if cause.hasAddr then addr else 0,
           tstat := (w.tstat &&& 0x40#32) ||| BitVec.ofNat 32 (1 + (if w.priv then 2 else 0) + fr.ent * 4),
           priv := true, adopted := false,
           split := w.split.map fun x => match x.2 with
             | .frag f => (x.1, .frag { f with suspended := true })
             | .join _ => x }
/-- The state after all slots of the fragment took a trap: the fragment at the supervisor entry of its context. -/
def State.trapped (s : State) (fr : Frame) (w : Wave) (cause : Cause) (reg : Nat) (uni : Bool) (addr : DWord) : State :=
  s.becomes fr ((w.trapped fr cause reg uni addr fr.act).setFrag fr.ent
    { pc := (s.context fr.g.ctx).sup.extractLsb' 2 62, mask := fr.act, st := .ready, link := fr.f.link,
      suspended := false, notBefore := s.cycle + 28 })
/-- A trap enters the supervisor: no trap is being handled, the context has an entry, and no save has begun. -/
abbrev Frame.TrapsTo (fr : Frame) (s : State) : Prop :=
  fr.act ≠ 0 ∧ fr.ent < 16 ∧ tsNest fr.w.tstat = false ∧ (s.context fr.g.ctx).sup ≠ 0 ∧ fr.g.saving = false

/-! ## Events -/

/-- Event `e` takes state s to t, after which every wait of every fragment is looked at again. -/
def State.Takes (s : State) (e : Instr) (t : State) : Prop := exec e s = .next t.wake.moved

/-! ## Tag faults (01 R28, R41) -/

/-- The first operand of a rule, in the order d, a, b, whose tag its check refuses. -/
def Rule.firstWrong (r : Rule) (v : View) : Option Nat := ((r.checks v).find? fun c => !v.ok c).map (·.1.toNat)
/-- An operand whose tag its check refuses raises TAG naming its register, before anything is written, on a core for every
slot of the fragment; it ends a bank program and a walker with code 0x02. -/
def Rule.StopsOnTags (r : Rule) : Prop :=
  (∀ s fr n, Starts s fr r.instr → isUniform r.instr = false → fr.TrapsTo s → r.needs fr.look = true →
    r.firstWrong fr.look = some n → exec r.instr s = .next (s.trapped fr fr.w .tag n false 0)) ∧
  (∀ s e p n, BankStarts s e p r.instr → r.needs p.look = true → r.firstWrong p.look = some n →
    exec r.instr s = .next (s.endBank e 0x02).moved) ∧
  ∀ s id w c n, WalkerStarts s id w c r.instr → r.needs (w.look c.mode) = true → r.firstWrong (w.look c.mode) = some n →
    exec r.instr s = .next (s.endWalker id 0x02).moved

/-- TAG naming a register wherever a condition on what the instruction reads holds (01 R41; 08 R226, R227). -/
def Rule.StopsNaming (r : Rule) (cond : View → Bool) (n : Nat) : Prop :=
  (∀ s fr, Starts s fr r.instr → isUniform r.instr = false → fr.TrapsTo s → cond fr.look = true →
    exec r.instr s = .next (s.trapped fr fr.w .tag n false 0)) ∧
  (∀ s e p, BankStarts s e p r.instr → cond p.look = true → exec r.instr s = .next (s.endBank e 0x02).moved) ∧
  ∀ s id w c, WalkerStarts s id w c r.instr → cond (w.look c.mode) = true →
    exec r.instr s = .next (s.endWalker id 0x02).moved

/-- Flags in which an invalid operation of one lane is one of every lane (04 R127). -/
def Rule.together (r : Rule) : Rule :=
  { r with flags := fun v t => r.flags v t ||| (if v.lanes.any fun u => hasIV (r.flags v u) then flagIV else 0) }
/-- Under MODE.inv_trap the slots with an invalid operation raise FPINV: they keep their registers and enter the supervisor;
the other slots have their results and flags and wait, suspended, at the next instruction; the tag is written (01 R41;
02 R60; 04 R91; 05 R147). -/
def Rule.TrapsInvalid (r : Rule) : Prop :=
  ∀ (s : State) (fr : Frame) (bad : DWord) (e : Nat), Starts s fr r.instr → isUniform r.instr = false → fr.TrapsTo s →
    r.passes fr.look = true → modeInvTrap fr.v.mode = true → bad ≠ 0 →
    (∀ t, inMask bad t = (inMask (r.slots fr) t && hasIV (r.flags fr.look t))) →
    let good := r.slots fr &&& ~~~bad
    let rest := fr.act &&& ~~~bad
    ∃ w, fr.w.Result w r.d.toNat r.wide good (r.val fr.look) (r.tag fr.look) (r.raised fr.look (slotsOf good)) ∧
      (rest = 0 → exec r.instr s = .next (s.trapped fr w .fpinv 0 false 0)) ∧
      (rest ≠ 0 → fr.w.emptyEntry = some e → exec r.instr s = .next (s.becomes fr
        (((w.trapped fr .fpinv 0 false 0 bad).setFrag e
          { fr.f with pc := pcPlus fr.f.pc 1, mask := rest, st := .ready, suspended := true }).setFrag fr.ent
          { pc := (s.context fr.g.ctx).sup.extractLsb' 2 62, mask := bad, st := .ready, link := fr.f.link,
            suspended := false, notBefore := s.cycle + 28 })))

/-- A conversion whose source and MODE.etype do not fit together raises TAG naming the source (04 R115 to R117). -/
def Rule.StopsOnMisfit (r : Rule) (source : Reg) : Prop :=
  (∀ s fr, Starts s fr r.instr → isUniform r.instr = false → fr.TrapsTo s → r.needs fr.look = false →
    exec r.instr s = .next (s.trapped fr fr.w .tag source.toNat false 0)) ∧
  (∀ s e p, BankStarts s e p r.instr → r.needs p.look = false → exec r.instr s = .next (s.endBank e 0x02).moved) ∧
  ∀ s id w c, WalkerStarts s id w c r.instr → r.needs (w.look c.mode) = false →
    exec r.instr s = .next (s.endWalker id 0x02).moved

/-! ## Integer arithmetic (04 R95 to R97, R105, R107) -/

/-- A two-source arithmetic instruction: `f` of two integers, signed by 04 R92, wrapped or clamped. -/
def arithRule (i : Instr) (d a b : Reg) (f : Int → Int → Int) : Rule :=
  { instr := i, d := d, checks := fun _ => intTags [a, b], tag := fun v => some (tagOf (signedBy v a b)),
    val := fun v t =>
      let g := signedBy v a b
      word (fitted v g (f (num g (v.reg a.toNat t)) (num g (v.reg b.toNat t)))) }
/-- The same with the immediate in place of b, signed by a alone (04 R105). -/
def arithImmRule (i : Instr) (d a : Reg) (k : BitVec 7) (f : Int → Int → Int) : Rule :=
  { instr := i, d := d, checks := fun _ => intTags [a], tag := fun v => some (tagOf (signedBy v a 0)),
    val := fun v t =>
      let g := signedBy v a 0
      word (fitted v g (f (num g (v.reg a.toNat t)) (num g (k.signExtend 32)))) }
/-- mulh: the high word of the 64-bit product. -/
def mulhRule (hold : BitVec 2) (d a b : Reg) : Rule :=
  { instr := .mulh hold d a b, d := d, checks := fun _ => intTags [a, b], tag := fun v => some (tagOf (signedBy v a b)),
    val := fun v t =>
      let ext : Word → DWord := fun x => if signedBy v a b then x.signExtend 64 else x.setWidth 64
      word ((ext (v.reg a.toNat t) * ext (v.reg b.toNat t)).extractLsb' 32 32) }
/-- mad: z + x × y. -/
def madRule (hold : BitVec 2) (d a b : Reg) : Rule :=
  { instr := .mad hold d a b, d := d, checks := fun _ => intTags [d, a, b],
    tag := fun v => some (tagOf (signedBy v a b)),
    val := fun v t =>
      let g := signedBy v a b
      word (fitted v g (num g (v.reg d.toNat t) + num g (v.reg a.toNat t) * num g (v.reg b.toNat t))) }
/-- divu and divs: the mnemonic decides signedness (04 R97). -/
def divRules (hold : BitVec 2) (d a b : Reg) : List Rule :=
  [ { instr := .divu hold d a b, d := d, checks := fun _ => intTags [a, b], tag := fun _ => some 0x11,
      val := fun v t =>
        let x := v.reg a.toNat t
        let y := v.reg b.toNat t
        word (if y = 0 then 0xFFFFFFFF else BitVec.ofNat 32 (x.toNat / y.toNat)) },
    { instr := .divs hold d a b, d := d, checks := fun _ => intTags [a, b], tag := fun _ => some 0x10,
      val := fun v t =>
        let x := (v.reg a.toNat t).toInt
        let y := (v.reg b.toNat t).toInt
        word (if y = 0 then (if 0 ≤ x then 0x7FFFFFFF else 0x80000000)
          else if x = -2147483648 ∧ y = -1 then (if modeSat v.mode then 0x7FFFFFFF else 0x80000000)
          else BitVec.ofInt 32 (x.tdiv y)) } ]
/-- abs and neg: signed by a alone (04 R96). -/
def signRule (i : Instr) (d a : Reg) (f : Int → Int) : Rule :=
  { instr := i, d := d, checks := fun _ => intTags [a], tag := fun v => some (tagOf (signedBy v a 0)),
    val := fun v t =>
      let g := signedBy v a 0
      word (fitted v g (f (num g (v.reg a.toNat t)))) }
/-- addl: signed by the resolved tag of d. -/
def addlRule (d : Reg) (lit : Word) : Rule :=
  { instr := .addl d lit, d := d, checks := fun _ => intTags [d], tag := fun v => some (tagOf (signedBy v d 0)),
    val := fun v t =>
      let g := signedBy v d 0
      word (fitted v g (num g (v.reg d.toNat t) + num g lit)) }
/-- The arithmetic instructions, but for the divisions. -/
def arithmeticRules (hold : BitVec 2) (d a b : Reg) (k : BitVec 7) (lit : Word) : List Rule :=
  [ arithRule (.add hold d a b) d a b (· + ·), arithRule (.sub hold d a b) d a b (· - ·),
    arithRule (.mul hold d a b) d a b (· * ·), mulhRule hold d a b, madRule hold d a b,
    arithRule (.min hold d a b) d a b min, arithRule (.max hold d a b) d a b max,
    signRule (.abs hold d a) d a fun x => if x < 0 then -x else x, signRule (.neg hold d a) d a fun x => -x,
    arithImmRule (.addi hold d a k) d a k (· + ·), arithImmRule (.muli hold d a k) d a k (· * ·),
    arithImmRule (.mini hold d a k) d a k min, arithImmRule (.maxi hold d a k) d a k max, addlRule d lit ]

/-! ## Logic, shifts and bit fields (04 R98 to R100, R105, R107) -/

/-- A two-source bitwise instruction: the tag of a, or of b when a is v0. -/
def logicRule (i : Instr) (d a b : Reg) (f : Word → Word → Word) : Rule :=
  { instr := i, d := d, checks := fun _ => anyTags [a, b],
    tag := fun v => some (v.res (if a = 0 then b.toNat else a.toNat)),
    val := fun v t => word (f (v.reg a.toNat t) (v.reg b.toNat t)) }
/-- The same with a literal or an immediate; the source that stands with it decides the tag. -/
def logicImmRule (i : Instr) (d a : Reg) (k : Word) (f : Word → Word → Word) : Rule :=
  { instr := i, d := d, checks := fun _ => anyTags [a], tag := fun v => some (v.res a.toNat),
    val := fun v t => word (f (v.reg a.toNat t) k) }
/-- A one-source instruction, tagged as a. -/
def bitsRule (i : Instr) (d a : Reg) (f : Word → Word) : Rule :=
  { instr := i, d := d, checks := fun _ => anyTags [a], tag := fun v => some (v.res a.toNat),
    val := fun v t => word (f (v.reg a.toNat t)) }
/-- A bit count, tagged U32. -/
def countRule (i : Instr) (d a : Reg) (f : Word → Nat) : Rule :=
  { instr := i, d := d, checks := fun _ => anyTags [a], tag := fun _ => some 0x11,
    val := fun v t => word (BitVec.ofNat 32 (f (v.reg a.toNat t))) }
/-- How many bits of a word are 1 (04 R98). -/
def onesOf (x : Word) : Nat := (List.range 32).countP x.getLsbD
/-- How many bits above the highest 1 are 0; 32 for zero (04 R98). -/
def zerosAbove (x : Word) : Nat := if x = 0 then 32 else 31 - x.toNat.log2
/-- A shift or rotate: `f` of the signedness, the value and the amount. -/
def shiftRule (i : Instr) (d a b : Reg) (f : Bool → Word → Nat → Word) : Rule :=
  { instr := i, d := d, checks := fun _ => anyTags [a] ++ intTags [b], tag := fun v => some (v.res a.toNat),
    val := fun v t => word (f (signedBy v a b) (v.reg a.toNat t) (v.reg b.toNat t).toNat) }
/-- The same by an immediate. -/
def shiftImmRule (i : Instr) (d a : Reg) (k : BitVec 7) (f : Bool → Word → Nat → Word) : Rule :=
  { instr := i, d := d, checks := fun _ => anyTags [a], tag := fun v => some (v.res a.toNat),
    val := fun v t => word (f (signedBy v a 0) (v.reg a.toNat t) k.toNat) }
/-- Left by n. -/
def leftBy (_ : Bool) (x : Word) (n : Nat) : Word := x <<< n
/-- Right by n, arithmetic when signed. -/
def rightBy (g : Bool) (x : Word) (n : Nat) : Word := if g then x.sshiftRight n else x >>> n
/-- Left round by n mod 32. -/
def roundLeft (_ : Bool) (x : Word) (n : Nat) : Word := x.rotateLeft n
/-- Right round by n mod 32. -/
def roundRight (_ : Bool) (x : Word) (n : Nat) : Word := x.rotateRight n
/-- pos of 04 R100. -/
def fieldAt (b : Word) : Nat := (b.extractLsb' 0 5).toNat
/-- L of 04 R100. -/
def fieldLen (b : Word) : Nat := min (b.extractLsb' 8 6).toNat (32 - fieldAt b)
/-- bfe and bfi. -/
def fieldRules (hold : BitVec 2) (d a b : Reg) : List Rule :=
  [ { instr := .bfe hold d a b, d := d, checks := fun _ => anyTags [a] ++ intTags [b],
      tag := fun v => some (tagOf (signedBy v a b)),
      val := fun v t =>
        let y := v.reg b.toNat t
        let f := (v.reg a.toNat t).extractLsb' (fieldAt y) (fieldLen y)
        word (if signedBy v a b then f.signExtend 32 else f.setWidth 32) },
    { instr := .bfi hold d a b, d := d, checks := fun _ => anyTags [d, a] ++ intTags [b],
      tag := fun v => some (v.res d.toNat),
      val := fun v t =>
        let y := v.reg b.toNat t
        let hole : Word := (BitVec.allOnes (fieldLen y)).setWidth 32 <<< fieldAt y
        word ((v.reg d.toNat t &&& ~~~hole) ||| (v.reg a.toNat t <<< fieldAt y &&& hole)) } ]
/-- The logic and shift instructions. -/
def logicRules (hold : BitVec 2) (d a b : Reg) (k : BitVec 7) (lit : Word) : List Rule :=
  [ logicRule (.and hold d a b) d a b (· &&& ·), logicRule (.or hold d a b) d a b (· ||| ·),
    logicRule (.xor hold d a b) d a b (· ^^^ ·), logicRule (.andn hold d a b) d a b fun x y => x &&& ~~~y,
    logicImmRule (.andi hold d a k) d a (k.setWidth 32) (· &&& ·),
    logicImmRule (.ori hold d a k) d a (k.setWidth 32) (· ||| ·),
    logicImmRule (.xori hold d a k) d a (k.setWidth 32) (· ^^^ ·),
    logicImmRule (.andl d lit) d d lit (· &&& ·), logicImmRule (.orl d lit) d d lit (· ||| ·),
    bitsRule (.not hold d a) d a (~~~ ·), bitsRule (.brev hold d a) d a BitVec.reverse,
    countRule (.popc hold d a) d a onesOf, countRule (.clz hold d a) d a zerosAbove,
    shiftRule (.shl hold d a b) d a b leftBy, shiftRule (.shr hold d a b) d a b rightBy,
    shiftRule (.rotl hold d a b) d a b roundLeft, shiftRule (.rotr hold d a b) d a b roundRight,
    shiftImmRule (.shli hold d a k) d a k leftBy, shiftImmRule (.shri hold d a k) d a k rightBy,
    shiftImmRule (.rotli hold d a k) d a k roundLeft ] ++
  fieldRules hold d a b

/-! ## Pairs (04 R93, R101) -/

/-- A pair instruction: both halves of the result are tagged 0x12. -/
def pairRule (i : Instr) (d : Reg) (checks : List (Reg × (Byte → Bool))) (val : View → Nat → DWord) : Rule :=
  { instr := i, d := d, wide := true, checks := fun _ => checks, tag := fun _ => some 0x12, val := val }
/-- The pair instructions. -/
def pairRules (hold : BitVec 2) (d a b : Reg) (k : BitVec 7) : List Rule :=
  [ pairRule (.add64 hold d a b) d (pairTags a ++ pairTags b) fun v t =>
      fittedPair v ((pairOf v a t).toInt + (pairOf v b t).toInt),
    pairRule (.sub64 hold d a b) d (pairTags a ++ pairTags b) fun v t =>
      fittedPair v ((pairOf v a t).toInt - (pairOf v b t).toInt),
    pairRule (.shl64 hold d a b) d (pairTags a ++ intTags [b]) fun v t => pairOf v a t <<< (v.reg b.toNat t).toNat,
    pairRule (.shr64 hold d a b) d (pairTags a ++ intTags [b]) fun v t => pairOf v a t >>> (v.reg b.toNat t).toNat,
    pairRule (.addx hold d a b) d (pairTags a ++ intTags [b]) fun v t =>
      pairOf v a t + (if v.res b.toNat = 0x10 then (v.reg b.toNat t).signExtend 64 else (v.reg b.toNat t).setWidth 64),
    pairRule (.addi64 hold d a k) d (pairTags a) fun v t => fittedPair v ((pairOf v a t).toInt + k.toInt) ]

/-! ## Compares, sel and moves (04 R102 to R107) -/

/-- A compare of bits. -/
def bitsCompare (i : Instr) (d a b : Reg) (f : Word → Word → Bool) : Rule :=
  { instr := i, d := d, checks := fun _ => anyTags [a, b], tag := fun _ => some 0x11,
    val := fun v t => bit (f (v.reg a.toNat t) (v.reg b.toNat t)) }
/-- A compare of integers. -/
def intCompare (i : Instr) (d a b : Reg) (f : Int → Int → Bool) : Rule :=
  { instr := i, d := d, checks := fun _ => intTags [a, b], tag := fun _ => some 0x11,
    val := fun v t =>
      let g := signedBy v a b
      bit (f (num g (v.reg a.toNat t)) (num g (v.reg b.toNat t))) }
/-- The compares with an immediate. -/
def compareImmRules (hold : BitVec 2) (d a : Reg) (k : BitVec 7) : List Rule :=
  [ { instr := .seqi hold d a k, d := d, checks := fun _ => anyTags [a], tag := fun _ => some 0x11,
      val := fun v t => bit (v.reg a.toNat t == k.signExtend 32) },
    { instr := .snei hold d a k, d := d, checks := fun _ => anyTags [a], tag := fun _ => some 0x11,
      val := fun v t => bit (v.reg a.toNat t != k.signExtend 32) },
    { instr := .slti hold d a k, d := d, checks := fun _ => intTags [a], tag := fun _ => some 0x11,
      val := fun v t =>
        let g := signedBy v a 0
        bit (num g (v.reg a.toNat t) < num g (k.signExtend 32)) },
    { instr := .slei hold d a k, d := d, checks := fun _ => intTags [a], tag := fun _ => some 0x11,
      val := fun v t =>
        let g := signedBy v a 0
        bit (num g (v.reg a.toNat t) ≤ num g (k.signExtend 32)) } ]
/-- sel: every live active slot, whatever the guard, takes a where it passes the guard and b elsewhere (04 R103). -/
def selRule (hold : BitVec 2) (d a b : Reg) : Rule :=
  { instr := .sel hold d a b, d := d, guarded := false,
    checks := fun v => if a = 0 then anyTags [b] else [(b, (· = v.res a.toNat))],
    tag := fun v => some (v.res (if a = 0 then b.toNat else a.toNat)),
    val := fun v t => word (v.reg (if v.passes t then a.toNat else b.toNat) t) }
/-- mov: bits and tag as they are (04 R104). -/
def movRule (hold : BitVec 2) (d a : Reg) : Rule :=
  { instr := .mov hold d a, d := d, checks := fun _ => [], tag := fun v => some (v.tag a.toNat),
    val := fun v t => word (v.reg a.toNat t) }
/-- movk and movh (04 R106). -/
def constantRules (d : Reg) (imm : BitVec 16) : List Rule :=
  [ { instr := .movk d imm, d := d, checks := fun _ => [], tag := fun _ => some 0x11, val := fun _ _ => imm.setWidth 64 },
    { instr := .movh d imm, d := d, checks := fun _ => [], tag := fun _ => none,
      val := fun v t => word (imm.setWidth 32 <<< 16 ||| (v.reg d.toNat t &&& 0xFFFF)) } ]
/-- lit: the literal, tagged as MODE says (04 R107). -/
def litRule (d : Reg) (lit : Word) : Rule :=
  { instr := .lit d lit, d := d, checks := fun _ => [], tag := fun v => some (modeEtype v.mode), val := fun _ _ => word lit }
/-- The compares, sel and lit. -/
def moveRules (hold : BitVec 2) (d a b : Reg) (k : BitVec 7) (lit : Word) : List Rule :=
  [ bitsCompare (.seq hold d a b) d a b (· == ·), bitsCompare (.sne hold d a b) d a b (· != ·),
    intCompare (.slt hold d a b) d a b (· < ·), intCompare (.sle hold d a b) d a b (· ≤ ·),
    selRule hold d a b, litRule d lit ] ++
  compareImmRules hold d a k

/-! ## Uniform forms (01 R22; 04 R108) -/

/-- The rule of another instruction of the same operands. -/
def Rule.as (r : Rule) (i : Instr) : Rule := { r with instr := i }
/-- The uniform forms: each acts as the instruction it is named after. -/
def uniformRules (hold : BitVec 2) (d a b : Reg) (k : BitVec 7) : List Rule :=
  [ arithRule (.addU hold d a b) d a b (· + ·), arithRule (.subU hold d a b) d a b (· - ·),
    arithRule (.mulU hold d a b) d a b (· * ·), logicRule (.andU hold d a b) d a b (· &&& ·),
    logicRule (.orU hold d a b) d a b (· ||| ·), logicRule (.xorU hold d a b) d a b (· ^^^ ·),
    shiftRule (.shlU hold d a b) d a b leftBy, shiftRule (.shrU hold d a b) d a b rightBy,
    arithRule (.minU hold d a b) d a b min, arithRule (.maxU hold d a b) d a b max,
    bitsCompare (.seqU hold d a b) d a b (· == ·), intCompare (.sltU hold d a b) d a b (· < ·),
    (movRule hold d a).as (.movU hold d a),
    pairRule (.add64U hold d a b) d (pairTags a ++ pairTags b) fun v t =>
      fittedPair v ((pairOf v a t).toInt + (pairOf v b t).toInt),
    arithImmRule (.addiU hold d a k) d a k (· + ·), shiftImmRule (.shliU hold d a k) d a k leftBy ]

/-! ## FP32 (04 R109 to R112) -/

/-- A register of a lane as a pattern. -/
def pat (v : View) (r : Reg) (t : Nat) : Nat := (v.reg r.toNat t).toNat
/-- An instruction whose result a number-format operation gives. -/
def floatRule (i : Instr) (d : Reg) (srcs : List Reg) (tag : Byte) (f : View → Nat → Res) : Rule :=
  { instr := i, d := d, checks := fun _ => floatTags srcs, tag := fun _ => some tag,
    val := fun v t => BitVec.ofNat 64 ((f v t).bits % 2 ^ 32), flags := fun v t => (f v t).flags }
/-- The sum, difference, product or fused product of values, exact and then rounded once (04 R109). -/
def sumOf (v : View) (xs : List Val) : Res := Fmt.f32.deliver v.round (exactSum v.round.down xs)
/-- An FP32 register. -/
def fp (v : View) (r : Reg) (t : Nat) : Val := Fmt.f32.read (pat v r t)
/-- The arithmetic of FP32. -/
def floatRules (hold : BitVec 2) (d a b : Reg) : List Rule :=
  [ floatRule (.fadd hold d a b) d [a, b] 0x20 fun v t => sumOf v [fp v a t, fp v b t],
    floatRule (.fsub hold d a b) d [a, b] 0x20 fun v t => sumOf v [fp v a t, (fp v b t).negate],
    floatRule (.fmul hold d a b) d [a, b] 0x20 fun v t => Fmt.f32.deliver v.round ((fp v a t).mul (fp v b t)),
    floatRule (.fma hold d a b) d [d, a, b] 0x20 fun v t =>
      Fmt.f32.deliver v.round (exactDot v.round.down (fp v d t) [(fp v a t, fp v b t)]),
    floatRule (.fmin hold d a b) d [a, b] 0x20 fun v t => Fmt.f32.pick false (pat v a t) (pat v b t),
    floatRule (.fmax hold d a b) d [a, b] 0x20 fun v t => Fmt.f32.pick true (pat v a t) (pat v b t),
    floatRule (.fabs hold d a) d [a] 0x20 fun v t => { bits := (v.reg a.toNat t &&& 0x7FFFFFFF).toNat, flags := 0 },
    floatRule (.fneg hold d a) d [a] 0x20 fun v t => { bits := (v.reg a.toNat t ^^^ 0x80000000).toNat, flags := 0 } ]
/-- Whether x is less than y, or equal. A NaN is neither (04 R112). -/
def below (x y : Val) : Bool := x.cmp y == some .lt
/-- Equal values: −0 equals +0. -/
def same (x y : Val) : Bool := x.cmp y == some .eq
/-- A float compare: 1 or 0, tagged U32, IV for a signalling NaN. -/
def floatCompare (i : Instr) (d a b : Reg) (f : Val → Val → Bool) : Rule :=
  floatRule i d [a, b] 0x11 fun v t =>
    { bits := if f (fp v a t) (fp v b t) then 1 else 0,
      flags := if (fp v a t).isSig || (fp v b t).isSig then flagIV else 0 }
/-- The float compares. -/
def floatCompareRules (hold : BitVec 2) (d a b : Reg) : List Rule :=
  [ floatCompare (.fseq hold d a b) d a b same, floatCompare (.fsne hold d a b) d a b fun x y => !same x y,
    floatCompare (.fslt hold d a b) d a b below, floatCompare (.fsle hold d a b) d a b fun x y => below x y || same x y ]
/-- The elementary functions. -/
def elementaryRules (hold : BitVec 2) (d a : Reg) : List Rule :=
  [ floatRule (.frcp hold d a) d [a] 0x20 fun v t => elementary v.round .rcp (pat v a t),
    floatRule (.frsq hold d a) d [a] 0x20 fun v t => elementary v.round .rsq (pat v a t),
    floatRule (.fsqrt hold d a) d [a] 0x20 fun v t => elementary v.round .sqrt (pat v a t),
    floatRule (.fexp2 hold d a) d [a] 0x20 fun v t => elementary v.round .exp2 (pat v a t),
    floatRule (.flog2 hold d a) d [a] 0x20 fun v t => elementary v.round .log2 (pat v a t) ]

/-! ## Packed 16-bit arithmetic, dot products and conversions (04 R113 to R117) -/

/-- The reference operand of 04 R113. -/
def refOf (d a b : Reg) (readsD : Bool) : Reg := if a ≠ 0 then a else if b ≠ 0 then b else if readsD then d else 0
/-- The tag that decides the format. -/
def pkTag (v : View) (ref : Reg) : Byte := if ref = 0 then 0x21 else v.res ref.toNat
/-- Its element format. -/
def pkFmt (v : View) (ref : Reg) : Fmt := if pkTag v ref = 0x22 then .b16 else .f16
/-- Element k of a packed register. -/
def elem16 (v : View) (r : Reg) (t k : Nat) : Nat := pat v r t / 2 ^ (16 * k) % 2 ^ 16
/-- A packed instruction: `f` on elements 0 and 1, in the format, for d, a and b. -/
def packedRule (i : Instr) (d a b : Reg) (readsD : Bool) (f : Fmt → Round → Nat → Nat → Nat → Res) : Rule :=
  let ref := refOf d a b readsD
  let at' : View → Nat → Nat → Res := fun v t k => f (pkFmt v ref) v.round (elem16 v d t k) (elem16 v a t k) (elem16 v b t k)
  { instr := i, d := d,
    checks := fun v => (if readsD then [d, a, b] else [a, b]).map fun r =>
      (r, if r = ref then fun t => t = 0x21 || t = 0x22 else (· = v.res ref.toNat)),
    tag := fun v => some (pkTag v ref),
    val := fun v t => BitVec.ofNat 64 ((at' v t 0).bits + (at' v t 1).bits * 2 ^ 16),
    flags := fun v t => (at' v t 0).flags ||| (at' v t 1).flags }
/-- Packed 16-bit arithmetic. -/
def packedRules (hold : BitVec 2) (d a b : Reg) : List Rule :=
  [ packedRule (.hadd hold d a b) d a b false fun f r _ x y => f.deliver r (exactSum r.down [f.read x, f.read y]),
    packedRule (.hsub hold d a b) d a b false fun f r _ x y =>
      f.deliver r (exactSum r.down [f.read x, (f.read y).negate]),
    packedRule (.hmul hold d a b) d a b false fun f r _ x y => f.deliver r ((f.read x).mul (f.read y)),
    packedRule (.hfma hold d a b) d a b true fun f r z x y =>
      f.deliver r (exactDot r.down (f.read z) [(f.read x, f.read y)]),
    packedRule (.hmin hold d a b) d a b false fun f _ _ x y => f.pick false x y,
    packedRule (.hmax hold d a b) d a b false fun f _ _ x y => f.pick true x y ]
/-- The packed tags a dot product accepts: 16-bit floats, 8-bit integers, binary8 or 4-bit integers (04 R114). -/
def dotAccepts (w : Nat) (ints : Bool) (t : Byte) : Bool :=
  if w = 16 then !ints && (t = 0x21 || t = 0x22)
  else if w = 8 then
    if ints then t = 0x30 || t = 0x31
    else (0x42 ≤ t.toNat && t.toNat ≤ 0x4F) || (0x52 ≤ t.toNat && t.toNat ≤ 0x5F)
  else ints && (t = 0x32 || t = 0x33)
/-- A dot product sums integers: by the first of a and b that is not v0, else by d (assumption log 25). -/
def dotInts (w : Nat) (v : View) (d a b : Reg) : Bool :=
  let r := if a ≠ 0 then a else b
  if r ≠ 0 then dotAccepts w true (v.res r.toNat)
  else if w = 16 then false else if w = 4 then true else !(d ≠ 0 && v.res d.toNat = 0x20)
/-- The element type a source is read as. -/
def dotType (v : View) (r : Reg) : Elem := if r = 0 then .int 8 false else (elemOf (v.res r.toNat)).getD (.int 8 false)
/-- Elements k of a and b of a lane, as patterns. -/
def dotPairs (w : Nat) (v : View) (a b : Reg) (t : Nat) : List (Nat × Nat) :=
  (List.range (32 / w)).map fun k => (pat v a t / 2 ^ (w * k) % 2 ^ w, pat v b t / 2 ^ (w * k) % 2 ^ w)
/-- An integer element. -/
def intElem (e : Elem) (x : Nat) : Int :=
  match e with
  | .int w s => if s && 2 ^ (w - 1) ≤ x then (x : Int) - 2 ^ w else x
  | .flt _ => 0
/-- The float sum of a dot product. -/
def dotFloat (w : Nat) (v : View) (d a b : Reg) (t : Nat) : Res :=
  Fmt.f32.deliver v.round (exactDot v.round.down (fp v d t)
    ((dotPairs w v a b t).map fun p => ((dotType v a).read p.1, (dotType v b).read p.2)))
/-- The integer sum of a dot product. -/
def dotSum (w : Nat) (v : View) (d a b : Reg) (t : Nat) : Int :=
  num (v.res d.toNat = 0x10) (v.reg d.toNat t) +
    ((dotPairs w v a b t).map fun p => intElem (dotType v a) p.1 * intElem (dotType v b) p.2).sum
/-- A dot product of elements of w bits. -/
def dotRule (i : Instr) (w : Nat) (d a b : Reg) : Rule :=
  { instr := i, d := d,
    checks := fun v =>
      let ints := dotInts w v d a b
      [(d, fun t => if ints then t = 0x10 || t = 0x11 else t = 0x20), (a, dotAccepts w ints), (b, dotAccepts w ints)],
    needs := fun v =>
      let r := if a ≠ 0 then a else b
      r = 0 || dotAccepts w true (v.res r.toNat) || dotAccepts w false (v.res r.toNat),
    tag := fun v => some (if dotInts w v d a b then v.res d.toNat else 0x20),
    val := fun v t =>
      if dotInts w v d a b then word (fitted v (v.res d.toNat = 0x10) (dotSum w v d a b t))
      else BitVec.ofNat 64 ((dotFloat w v d a b t).bits % 2 ^ 32),
    flags := fun v t => if dotInts w v d a b then 0 else (dotFloat w v d a b t).flags }
/-- The dot products. -/
def dotRules (hold : BitVec 2) (d a b : Reg) : List Rule :=
  [dotRule (.dot2 hold d a b) 16 d a b, dotRule (.dot4 hold d a b) 8 d a b, dotRule (.dot8 hold d a b) 4 d a b]

/-- The element width of the class of a tag; none for 0x12 and codes without elements (04 before R115). -/
def widthOf (t : Byte) : Option Nat := (elemOf t).map Elem.bits
/-- A conversion applies: the widths of the source and of MODE.etype fit (04 R115 to R117). -/
def converts (v : View) (a : Reg) (fits : Nat → Nat → Bool) : Bool :=
  match widthOf (v.res a.toNat), widthOf (modeEtype v.mode) with
  | some x, some y => fits x y
  | _, _ => false
/-- The source and destination types. -/
def typesOf (v : View) (a : Reg) : Elem × Elem :=
  ((elemOf (v.res a.toNat)).getD (.int 32 false), (elemOf (modeEtype v.mode)).getD (.int 32 false))
/-- A conversion: a's tag is checked with the widths. -/
def convertRule (i : Instr) (d a b : Reg) (fits : Nat → Nat → Bool) (f : View → Elem → Elem → Nat → Res) : Rule :=
  { instr := i, d := d,
    checks := fun _ => anyTags [a] ++ intTags [b], needs := fun v => converts v a fits,
    tag := fun v => some (modeEtype v.mode),
    val := fun v t => BitVec.ofNat 64 ((f v (typesOf v a).1 (typesOf v a).2 t).bits % 2 ^ 32),
    flags := fun v t => (f v (typesOf v a).1 (typesOf v a).2 t).flags }
/-- cvt, pack and unpk. -/
def convertRules (hold : BitVec 2) (d a b : Reg) : List Rule :=
  [ convertRule (.cvt hold d a) d a 0 (· == ·) fun v x y t =>
      let rs := (List.range (32 / x.bits)).map fun k => convert v.round x y (pat v a t / 2 ^ (x.bits * k) % 2 ^ x.bits)
      { bits := rs.foldr (fun r z => z * 2 ^ x.bits + r.bits % 2 ^ x.bits) 0,
        flags := rs.foldl (fun g r => g ||| r.flags) 0 },
    convertRule (.pack hold d a b) d a b (fun x y => x == 32 && y != 32) fun v x y t =>
      let r := convert v.round x y (pat v a t)
      let at' := y.bits * (pat v b t % (32 / y.bits))
      let old := pat v d t
      { bits := old - old / 2 ^ at' % 2 ^ y.bits * 2 ^ at' + r.bits % 2 ^ y.bits * 2 ^ at', flags := r.flags },
    convertRule (.unpk hold d a b) d a b (fun x y => x != 32 && y == 32) fun v x y t =>
      convert v.round x y (pat v a t / 2 ^ (x.bits * (pat v b t % (32 / x.bits))) % 2 ^ x.bits) ]

/-! ## Cross-lane instructions, tags and identity (04 R119, R122 to R128) -/

/-- An instruction without tag checks that writes U32. -/
def plainRule (i : Instr) (d : Reg) (val : View → Nat → Word) : Rule :=
  { instr := i, d := d, checks := fun _ => [], tag := fun _ => some 0x11, val := fun v t => word (val v t) }
/-- A pair result without tag checks. -/
def maskRule (i : Instr) (d : Reg) (val : View → DWord) : Rule := pairRule i d [] fun v _ => val v
/-- The votes: over the slots that pass the guard. -/
def voteRules (hold : BitVec 2) (d a : Reg) : List Rule :=
  [ plainRule (.voteAny hold d a) d fun v _ => if v.lanes.any fun t => v.reg a.toNat t != 0 then 1 else 0,
    plainRule (.voteAll hold d a) d fun v _ => if v.lanes.all fun t => v.reg a.toNat t != 0 then 1 else 0,
    maskRule (.voteBal hold d a) d fun v => maskOf (v.lanes.filter fun t => v.reg a.toNat t != 0) ]
/-- A shuffle: slot t takes a of the source slot where that is available, else it keeps d. -/
def shuffleRule (i : Instr) (d a b : Reg) (src : View → Nat → Nat → Int) : Rule :=
  { instr := i, d := d, checks := fun _ => intTags [b], tag := fun v => some (v.tag a.toNat),
    val := fun v t =>
      let from' := src v t (pat v b t)
      word (if 0 ≤ from' ∧ v.avail from'.toNat = true then v.reg a.toNat from'.toNat else v.reg d.toNat t) }
/-- The shuffles and bcast, which reads b in the lowest slot that passes the guard. -/
def shuffleRules (hold : BitVec 2) (d a b : Reg) : List Rule :=
  [ shuffleRule (.shflIdx hold d a b) d a b fun _ _ n => n, shuffleRule (.shflUp hold d a b) d a b fun _ t n => t - n,
    shuffleRule (.shflDn hold d a b) d a b fun _ t n => t + n,
    shuffleRule (.shflXor hold d a b) d a b fun _ t n => (t ^^^ n : Nat),
    shuffleRule (.bcast hold d a b) d a b fun v _ _ => pat v b (v.lanes.headD 0) ]
/-- The numbers of a register over slots. -/
def numsOver (v : View) (a : Reg) (ts : List Nat) : List Int := ts.map fun t => num (signedBy v a 0) (v.reg a.toNat t)
/-- The FP32 minimum or maximum of patterns by 04 R110. -/
def extreme (wantMax : Bool) (xs : List Nat) : Res :=
  if xs.any fun x => (Fmt.f32.read x).isSig then { bits := 0x7FC00000, flags := flagIV }
  else match xs with
    | [] => { bits := 0, flags := 0 }
    | x :: rest =>
      { bits := rest.foldl (fun y z => (Fmt.f32.pick wantMax y z).bits) (if (Fmt.f32.read x).isNan then 0x7FC00000 else x),
        flags := 0 }
/-- A combination over slots: integers fitted once, or FP32. -/
def combineRule (i : Instr) (d a : Reg) (among : View → Nat → List Nat) (ints : List Int → Int)
    (floats : View → List Nat → Res) : Rule :=
  let asFloat : View → Bool := fun v => a ≠ 0 && v.res a.toNat = 0x20
  let res : View → Nat → Res := fun v t => floats v ((among v t).map fun u => pat v a u)
  { instr := i, d := d, checks := fun _ => [(a, fun t => t = 0x10 || t = 0x11 || t = 0x20)],
    tag := fun v => some (v.res a.toNat),
    val := fun v t =>
      if asFloat v then BitVec.ofNat 64 ((res v t).bits % 2 ^ 32)
      else word (fitted v (signedBy v a 0) (ints (numsOver v a (among v t)))),
    flags := fun v t => if asFloat v then (res v t).flags else 0 }
/-- The least and the greatest of a list of integers, 0 of none. -/
def leastOf (xs : List Int) : Int := xs.min?.getD 0
/-- The greatest. -/
def greatestOf (xs : List Int) : Int := xs.max?.getD 0
/-- The reductions and prefx. -/
def reductionRules (hold : BitVec 2) (d a : Reg) : List Rule :=
  [ combineRule (.reduAdd hold d a) d a (fun v _ => v.lanes) List.sum fun v xs => sumOf v (xs.map Fmt.f32.read),
    combineRule (.reduMin hold d a) d a (fun v _ => v.lanes) leastOf fun _ xs => extreme false xs,
    combineRule (.reduMax hold d a) d a (fun v _ => v.lanes) greatestOf fun _ xs => extreme true xs,
    combineRule (.prefx hold d a) d a (fun v t => v.lanes.filter fun u => u ≤ t) List.sum fun v xs =>
      sumOf v (xs.map Fmt.f32.read) ]
/-- tagr, lane, maskr and liver. -/
def identityRules (hold : BitVec 2) (d a : Reg) : List Rule :=
  [ plainRule (.tagr hold d a) d fun v _ => (v.tag a.toNat).setWidth 32, plainRule (.lane hold d) d fun _ t => BitVec.ofNat 32 t,
    maskRule (.maskr hold d) d fun v => v.mask, maskRule (.liver hold d) d fun v => v.live ]

/-! ## Loads, stores and atomics (06 R157 to R177) -/

/-- What the rules say of an instruction that accesses memory in each slot: its tag checks, the address of a slot, the
bytes it accesses, whether they are scratchpad bytes, the permission it needs, its counter, the registers it tags at issue
with what, and the operation it becomes with the data and the compared value of a slot. -/
structure MemRule where
  instr : Instr
  checks : List (Reg × (Byte → Bool))
  addr : Frame → Nat → DWord
  bytes : Nat
  scratch : Bool
  perm : AccKind
  sampled : Nat
  ctr : CtrKind
  d : Reg
  tagged : Nat
  tag : View → Byte
  kind : View → OpKind
  data : Frame → Nat → BitVec 128
  cmp : Frame → Nat → BitVec 128
/-- Where the access of an address leads: aligned and translated, or a scratchpad cell (06 R159, R172). -/
def MemRule.leads (r : MemRule) (s : State) (fr : Frame) (va : DWord) : Except Cause Nat :=
  if r.scratch then s.scratch fr.g (va.setWidth 32) r.bytes r.bytes true
  else if va.toNat % r.bytes ≠ 0 then .error .align
  else s.locate (some fr.g.core) fr.g.ctx va r.perm fr.priv
/-- One, two or four consecutive registers of a slot as one value, the first lowest (01 R26; 06 R157). -/
def held (fr : Frame) (d : Reg) (k t : Nat) : BitVec 128 :=
  if k = 4 then fr.v.quad d.toNat t
  else if k = 2 then (fr.v.pair d.toNat t).setWidth 128
  else (fr.v.reg d.toNat t).setWidth 128
/-- Wave `w` is `w₀` with counter `c` one higher and k registers from d tagged; v0's tag does not change. -/
def Issued (w₀ w : Wave) (c : CtrKind) (d : Reg) (k : Nat) (tag : Byte) : Prop :=
  (∀ n, w.tag n = if n ≠ 0 ∧ d.toNat ≤ n ∧ n < d.toNat + k ∧ (d = 0 → k ≠ 2) then tag else w₀.tag n) ∧
    (∀ x, w.ctr.get x = if x = c then w₀.ctr.get x + 1 else w₀.ctr.get x) ∧
    { w with tags := w₀.tags, ctr := w₀.ctr } = w₀
/-- An instruction whose participating slots all access what they may, with its counter below 63, becomes one outstanding
operation with an access for each slot, raises its counter, tags its registers and goes on; its memory effects come
later. -/
def MemRule.Issues (r : MemRule) : Prop :=
  ∀ (s : State) (fr : Frame) (key : Nat → Nat), Starts s fr r.instr → r.checks.all fr.look.ok = true → fr.part ≠ 0 →
    fr.w.ctr.get r.ctr ≠ 63 → (∀ t ∈ slotsOf fr.part, r.leads s fr (r.addr fr t) = .ok (key t)) →
    let noted := if r.scratch then s else s.noteAccess fr ((slotsOf fr.part).map (r.addr fr)) r.perm r.sampled
    ∃ w, Issued fr.w w r.ctr r.d r.tagged (r.tag fr.look) ∧
      exec r.instr s = .next ((noted.pushOp
        { gid := fr.gid, wave := fr.wid, ctx := fr.g.ctx, serial := fr.g.serial, core := fr.g.core, ctr := some r.ctr,
          kind := r.kind fr.look,
          accs := (slotsOf fr.part).map fun t =>
            { slot := t, va := r.addr fr t, key := key t, data := r.data fr t, cmp := r.cmp fr t, done := false, grp := false,
              heed := fr.w.heard.lookD t 0 },
          scope := modeScope fr.v.mode, promote := modePromote fr.v.mode, issued := s.tick, tmo := modeTmo fr.v.mode }).finish
        fr w r.instr)
/-- With no participating slot it performs no access and goes on; a counter at 63 holds it; when every slot of the
fragment raises one cause they trap with it, at the address of the lowest. -/
def MemRule.Otherwise (r : MemRule) : Prop :=
  ∀ (s : State) (fr : Frame), Starts s fr r.instr → r.checks.all fr.look.ok = true →
    (fr.part = 0 → ∃ w, exec r.instr s = .next (s.finish fr w r.instr) ∧ { w with tags := fr.w.tags } = fr.w) ∧
    (fr.part ≠ 0 → fr.w.ctr.get r.ctr = 63 → (∀ t ∈ slotsOf fr.part, (r.leads s fr (r.addr fr t)).isOk = true) →
      exec r.instr s = .next (s.holdOn fr)) ∧
    ∀ c, fr.part = fr.act → fr.TrapsTo s → (∀ t ∈ slotsOf fr.act, r.leads s fr (r.addr fr t) = .error c) →
      exec r.instr s = .next (s.trapped fr fr.w c 0 false (r.addr fr fr.u))

/-- A generic address: pair a plus the signed immediate in units of the access. -/
def pairAddr (a : Reg) (k : BitVec 7) (n : Nat) (fr : Frame) (t : Nat) : DWord :=
  fr.v.pair a.toNat t + BitVec.ofInt 64 (k.toInt * n)
/-- A scratch address: a word plus the signed immediate in units of the access. -/
def wordAddr (a : Reg) (k : BitVec 7) (n : Nat) (fr : Frame) (t : Nat) : DWord :=
  (fr.v.reg a.toNat t + BitVec.ofInt 32 (k.toInt * n)).setWidth 64
/-- Registers of n bytes. -/
def wordsIn (n : Nat) : Nat := (n + 3) / 4
/-- A load of n bytes. -/
def loadRule (i : Instr) (d a : Reg) (k : BitVec 7) (n type : Nat) (kind : OpKind) : MemRule :=
  { instr := i, checks := pairTags a, addr := pairAddr a k n, bytes := n, scratch := false, perm := .load,
    sampled := type, ctr := .ld, d := d, tagged := wordsIn n, tag := fun v => modeEtype v.mode, kind := fun _ => kind, data := fun _ _ => 0,
    cmp := fun _ _ => 0 }
/-- A store of n bytes. -/
def storeRule (i : Instr) (d a : Reg) (k : BitVec 7) (n : Nat) (rel : Bool) : MemRule :=
  { instr := i, checks := pairTags a, addr := pairAddr a k n, bytes := n, scratch := false, perm := .store, sampled := 1,
    ctr := .st, d := 0, tagged := 0, tag := fun _ => 0, kind := fun _ => .store n rel,
    data := fun fr => held fr d (wordsIn n), cmp := fun _ _ => 0 }
/-- A scratchpad load. -/
def scratchLoadRule (i : Instr) (d a : Reg) (k : BitVec 7) (n : Nat) : MemRule :=
  { instr := i, checks := intTags [a], addr := wordAddr a k n, bytes := n, scratch := true, perm := .load, sampled := 0,
    ctr := .ld, d := d, tagged := wordsIn n, tag := fun v => modeEtype v.mode, kind := fun _ => .scratchLoad d n,
    data := fun _ _ => 0, cmp := fun _ _ => 0 }
/-- A scratchpad store. -/
def scratchStoreRule (i : Instr) (d a : Reg) (k : BitVec 7) (n : Nat) : MemRule :=
  { instr := i, checks := intTags [a], addr := wordAddr a k n, bytes := n, scratch := true, perm := .store, sampled := 0,
    ctr := .st, d := 0, tagged := 0, tag := fun _ => 0, kind := fun _ => .scratchStore n,
    data := fun fr => held fr d (wordsIn n), cmp := fun _ _ => 0 }
/-- An atomic on n bytes with the operand tags `bs`, compared with d when `cas`. -/
def atomicRule (i : Instr) (d a b : Reg) (n : Nat) (checks : List (Reg × (Byte → Bool))) (f : View → AtomOp) : MemRule :=
  { instr := i, checks := checks, addr := fun fr t => fr.v.pair a.toNat t, bytes := n, scratch := false, perm := .atomic,
    sampled := 2, ctr := if d = 0 then .st else .ld, d := d, tagged := wordsIn n,
    tag := fun v => if n = 8 then 0x12 else v.res b.toNat, kind := fun v => .atomic d n (f v),
    data := fun fr => held fr b (wordsIn n), cmp := fun fr => held fr d (wordsIn n) }
/-- The loads. -/
def loadRules (hold : BitVec 2) (d a : Reg) (k : BitVec 7) : List MemRule :=
  [ loadRule (.ldb hold d a k) d a k 1 0 (.load d 1 false false), loadRule (.ldbs hold d a k) d a k 1 0 (.load d 1 true false),
    loadRule (.ldh hold d a k) d a k 2 0 (.load d 2 false false), loadRule (.ldhs hold d a k) d a k 2 0 (.load d 2 true false),
    loadRule (.ld hold d a k) d a k 4 0 (.load d 4 false false), loadRule (.ldd hold d a k) d a k 8 0 (.load d 8 false false),
    loadRule (.ldq hold d a k) d a k 16 0 (.load d 16 false false),
    loadRule (.ldAcq hold d a k) d a k 4 0 (.load d 4 false true), loadRule (.lddAcq hold d a k) d a k 8 0 (.load d 8 false true),
    loadRule (.ldro hold d a k) d a k 4 3 (.readOnly d 4), loadRule (.ldroQ hold d a k) d a k 16 3 (.readOnly d 16) ]
/-- The stores. -/
def storeRules (hold : BitVec 2) (d a : Reg) (k : BitVec 7) : List MemRule :=
  [ storeRule (.stb hold d a k) d a k 1 false, storeRule (.sth hold d a k) d a k 2 false,
    storeRule (.st hold d a k) d a k 4 false, storeRule (.std hold d a k) d a k 8 false,
    storeRule (.stq hold d a k) d a k 16 false, storeRule (.stRel hold d a k) d a k 4 true,
    storeRule (.stdRel hold d a k) d a k 8 true ]
/-- The scratchpad accesses. -/
def scratchRules (hold : BitVec 2) (d a : Reg) (k : BitVec 7) : List MemRule :=
  [ scratchLoadRule (.lds hold d a k) d a k 4, scratchLoadRule (.ldsQ hold d a k) d a k 16,
    scratchStoreRule (.sts hold d a k) d a k 4, scratchStoreRule (.stsQ hold d a k) d a k 16 ]
/-- The atomics. -/
def atomicRules (hold : BitVec 2) (d a b : Reg) : List MemRule :=
  let int := pairTags a ++ intTags [b]
  let any := pairTags a ++ anyTags [b]
  let wide := pairTags d ++ pairTags a ++ pairTags b
  [ atomicRule (.aadd hold d a b) d a b 4 int fun _ => .add,
    atomicRule (.amin hold d a b) d a b 4 int fun v => .min (v.res b.toNat = 0x10),
    atomicRule (.amax hold d a b) d a b 4 int fun v => .max (v.res b.toNat = 0x10),
    atomicRule (.aand hold d a b) d a b 4 any fun _ => .and, atomicRule (.aor hold d a b) d a b 4 any fun _ => .or,
    atomicRule (.axor hold d a b) d a b 4 any fun _ => .xor, atomicRule (.axch hold d a b) d a b 4 any fun _ => .xch,
    atomicRule (.acas hold d a b) d a b 4 (anyTags [d] ++ any) fun _ => .cas,
    atomicRule (.aadd64 hold d a b) d a b 8 wide fun _ => .add, atomicRule (.acas64 hold d a b) d a b 8 wide fun _ => .cas ]

end Sys2Proof.Machine
end

