-- ==== Sys2Proof/Certificates/Slice0/Obligations.lean ====
section
/-! DEFINITION. The statements for the provers. Each formalises rules of the spec, named in its docstring; where it rests on
something the spec leaves open, the docstring names the assumption log's entry. A step keeps what a conclusion says it
keeps; where a conclusion gives the whole next state, everything else is as it was. -/

open Sys2Proof Sys2Proof.Machine

/-- (R50, R91, R92, R93, R95, R96, R101, R105, R107.) The integer arithmetic instructions and the pair instructions,
in every form, on every unit that runs them: each participating lane gets the exact result, wrapped to its width or
clamped under MODE.sat, with the tag the table gives; nothing else of the wave changes. Each of them, from add to
addi64, goes on whenever it starts and its operands are integers, or pairs. -/
def Obligations.IntegerArithmetic : Prop :=
  (∀ hold d a b k lit, ∀ r ∈ arithmeticRules hold d a b k lit ++ pairRules hold d a b k, r.Holds) ∧
  ∀ hold d a b k lit,
    let ab := intTags [a, b]
    GoOn [(.add hold d a b, ab), (.sub hold d a b, ab), (.mul hold d a b, ab), (.mulh hold d a b, ab),
      (.mad hold d a b, intTags [d] ++ ab), (.min hold d a b, ab), (.max hold d a b, ab), (.abs hold d a, intTags [a]),
      (.neg hold d a, intTags [a]), (.addi hold d a k, intTags [a]), (.muli hold d a k, intTags [a]),
      (.mini hold d a k, intTags [a]), (.maxi hold d a k, intTags [a]), (.addl d lit, intTags [d]),
      (.add64 hold d a b, pairTags a ++ pairTags b), (.sub64 hold d a b, pairTags a ++ pairTags b),
      (.shl64 hold d a b, pairTags a ++ intTags [b]), (.shr64 hold d a b, pairTags a ++ intTags [b]),
      (.addx hold d a b, pairTags a ++ intTags [b]), (.addi64 hold d a k, pairTags a)]

/-- (R28, R41, R97, R147, R226, R227, R228.) divu and divs: their words, the units that run them, their results for
every pair of operands with division by zero and the overflow of divs, their result tags, no flag, and TAG for an
operand that is no integer, which enters the supervisor on a core and ends a bank program or a walker with 0x02. Each
goes on whenever it starts and its operands are integers. That cr.TMASK holds slots that fail the guard too
(assumption log 98) and the cycle the handler issues from (assumption log 63) are the model's choices. -/
def Obligations.DivisionFollowsTheMnemonic : Prop :=
  ∀ hold d a b, decode (wordR 0x006 hold d a b) 0 = .instr (.divu hold d a b) ∧
    decode (wordR 0x007 hold d a b) 0 = .instr (.divs hold d a b) ∧
    (∀ i ∈ [Instr.divu hold d a b, .divs hold d a b],
      runsOn .core i = true ∧ runsOn .walker i = true ∧ runsOn .bank i = false) ∧
    (∀ r ∈ divRules hold d a b, r.Holds ∧ r.StopsOnTags) ∧
    GoOn [(.divu hold d a b, intTags [a, b]), (.divs hold d a b, intTags [a, b])]

/-- (R92, R98, R99, R100, R105, R107.) The bitwise instructions, bit counts, shifts, rotates and bit fields, in
register, immediate and literal form, on every unit that runs them. Each goes on whenever it starts and the tags of
its sources are ANY, those of its amounts and fields INT. -/
def Obligations.LogicAndShifts : Prop :=
  (∀ hold d a b k lit, ∀ r ∈ logicRules hold d a b k lit, r.Holds) ∧
  ∀ hold d a b k lit,
    let one := anyTags [a]
    let two := anyTags [a, b]
    let by' := anyTags [a] ++ intTags [b]
    GoOn [(.and hold d a b, two), (.or hold d a b, two), (.xor hold d a b, two), (.andn hold d a b, two),
      (.andi hold d a k, one), (.ori hold d a k, one), (.xori hold d a k, one), (.andl d lit, anyTags [d]),
      (.orl d lit, anyTags [d]), (.not hold d a, one), (.brev hold d a, one), (.popc hold d a, one), (.clz hold d a, one),
      (.shl hold d a b, by'), (.shr hold d a b, by'), (.rotl hold d a b, by'), (.rotr hold d a b, by'),
      (.shli hold d a k, one), (.shri hold d a k, one), (.rotli hold d a k, one), (.bfe hold d a b, by'),
      (.bfi hold d a b, anyTags [d] ++ by')]

/-- (R102, R103, R105, R107.) The compares, sel, which writes every live active slot whatever the guard, and lit. Each
goes on whenever it starts and the tags of its operands pass; those of sel are alike. -/
def Obligations.ComparesAndMoves : Prop :=
  (∀ hold d a b k lit, ∀ r ∈ moveRules hold d a b k lit, r.Holds) ∧
  ∀ hold d a b k lit,
    GoOn [(.seq hold d a b, anyTags [a, b]), (.sne hold d a b, anyTags [a, b]), (.slt hold d a b, intTags [a, b]),
      (.sle hold d a b, intTags [a, b]), (.seqi hold d a k, anyTags [a]), (.snei hold d a k, anyTags [a]),
      (.slti hold d a k, intTags [a]), (.slei hold d a k, intTags [a]), (.lit d lit, [])] ∧
    GoOn [(.sel hold d a b, anyTags [a, b])] fun fr => a = 0 ∨ b = 0 ∨ fr.look.res a.toNat = fr.look.res b.toNat

/-- (R104.) mov: its word with field b zero, and no other; the bits and the tag of a as they are, whatever the tag, to
each live active slot that passes the guard. No counter changes. It goes on whenever it starts. -/
def Obligations.MovCopiesBitsAndTag : Prop :=
  ∀ hold d a, decode (wordR 0x023 hold d a 0) 0 = .instr (.mov hold d a) ∧
    (∀ b, b ≠ 0 → decode (wordR 0x023 hold d a b) 0 = .reject .reserved) ∧ (movRule hold d a).Holds ∧
    GoOn [(.mov hold d a, [])]

/-- (R106.) movk and movh: their words, and what each slot that passes the guard gets; movk tags U32, movh leaves the
tag, and neither checks one. No counter changes. Each goes on whenever it starts. -/
def Obligations.ConstantsOfSixteenBits : Prop :=
  ∀ d imm, decode (wordK 0x050 d imm) 0 = .instr (.movk d imm) ∧ decode (wordK 0x051 d imm) 0 = .instr (.movh d imm) ∧
    (∀ r ∈ constantRules d imm, r.Holds) ∧ GoOn [(.movk d imm, []), (.movh d imm, [])]

/-- (R22, R108.) The uniform forms: slot u computes as the instruction each is named after, every live slot of the
wave gets the result and the tag is written; without a slot u it goes on and nothing is written, whatever the tags,
which is the model's reading (assumption log 56). Each goes on whenever it starts and its operands pass. -/
def Obligations.UniformForms : Prop :=
  (∀ hold d a b k, ∀ r ∈ uniformRules hold d a b k, r.Uniform) ∧
  ∀ hold d a b k,
    let ints := intTags [a, b]
    let any := anyTags [a, b]
    let by' := anyTags [a] ++ intTags [b]
    GoOn [(.addU hold d a b, ints), (.subU hold d a b, ints), (.mulU hold d a b, ints), (.andU hold d a b, any),
      (.orU hold d a b, any), (.xorU hold d a b, any), (.shlU hold d a b, by'), (.shrU hold d a b, by'),
      (.minU hold d a b, ints), (.maxU hold d a b, ints), (.seqU hold d a b, any), (.sltU hold d a b, ints),
      (.movU hold d a, []), (.add64U hold d a b, pairTags a ++ pairTags b), (.addiU hold d a k, intTags [a]),
      (.shliU hold d a k, anyTags [a])]

/-- (R35, R41, R56, R57, R58, R60, R109, R110, R111, R112.) FP32 arithmetic, the float compares and the elementary
functions: the exact value rounded once under MODE, NaNs, infinities and zeros as stated, and the flags of the
participating slots added to STAT. Under MODE.inv_trap the slots with an invalid operation raise FPINV and keep their
registers, the others complete; the cycle the handler issues from is the model's choice (assumption log 63). Each of
them, from fadd to fsle, goes on whenever it starts, its operands are FP32 and MODE.inv_trap is 0; fabs and fneg
whatever MODE.inv_trap is. -/
def Obligations.FloatArithmetic : Prop :=
  (∀ hold d a b, ∀ r ∈ floatRules hold d a b ++ floatCompareRules hold d a b ++ elementaryRules hold d a,
    r.Holds ∧ r.TrapsInvalid) ∧
  ∀ hold d a b,
    let two := floatTags [a, b]
    let one := floatTags [a]
    GoOn [(.fadd hold d a b, two), (.fsub hold d a b, two), (.fmul hold d a b, two), (.fma hold d a b, floatTags [d] ++ two),
      (.fmin hold d a b, two), (.fmax hold d a b, two), (.frcp hold d a, one), (.frsq hold d a, one), (.fsqrt hold d a, one),
      (.fexp2 hold d a, one), (.flog2 hold d a, one), (.fseq hold d a b, two), (.fsne hold d a b, two),
      (.fslt hold d a b, two), (.fsle hold d a b, two)] (fun fr => modeInvTrap fr.v.mode = false) ∧
    GoOn [(.fabs hold d a, one), (.fneg hold d a, one)]

/-- (R41, R60, R61, R113, R114, R115, R116, R117.) Packed 16-bit arithmetic, the dot products, which sum exactly and
fit or round once, and cvt, pack and unpk. Under MODE.inv_trap the slots with an invalid operation raise FPINV and
keep their registers, the others complete; the cycle the handler issues from is the model's choice (assumption log
63). Each goes on whenever it starts, the formats of its operands fit and MODE.inv_trap is 0. A dot product with a and
b both v0 takes its class from d (assumption log 25), and infinities of both signs beside a NaN are invalid
(assumption log 85): both are the model's choices. -/
def Obligations.PackedDotAndConversions : Prop :=
  (∀ hold d a b, ∀ r ∈ packedRules hold d a b ++ dotRules hold d a b ++ convertRules hold d a b,
    r.Holds ∧ r.TrapsInvalid) ∧
  ∀ hold d a b,
    let calm : Frame → Prop := fun fr => modeInvTrap fr.v.mode = false
    let tags : List Reg → (Byte → Bool) → List (Reg × (Byte → Bool)) := fun rs f => rs.map fun r => (r, f)
    (∀ x : Byte, (x = 0x21 ∨ x = 0x22) →
      let two := tags [a, b] (· = x)
      GoOn [(.hadd hold d a b, two), (.hsub hold d a b, two), (.hmul hold d a b, two), (.hfma hold d a b, tags [d] (· = x) ++ two),
        (.hmin hold d a b, two), (.hmax hold d a b, two)] calm) ∧
    (a ≠ 0 ∨ b ≠ 0 →
      GoOn [(.dot2 hold d a b, tags [d] (· = 0x20) ++ tags [a, b] (dotAccepts 16 false)),
        (.dot4 hold d a b, tags [d] (· = 0x20) ++ tags [a, b] (dotAccepts 8 false))] calm ∧
      GoOn [(.dot4 hold d a b, intTags [d] ++ tags [a, b] (dotAccepts 8 true)),
        (.dot8 hold d a b, intTags [d] ++ tags [a, b] (dotAccepts 4 true))]) ∧
    GoOn [(.cvt hold d a, anyTags [a])] (fun fr => calm fr ∧ ∃ n, widthOf (fr.look.res a.toNat) = some n ∧
      widthOf (modeEtype fr.v.mode) = some n) ∧
    GoOn [(.pack hold d a b, anyTags [a] ++ intTags [b])] (fun fr => calm fr ∧ widthOf (fr.look.res a.toNat) = some 32 ∧
      ∃ n, n < 32 ∧ widthOf (modeEtype fr.v.mode) = some n) ∧
    GoOn [(.unpk hold d a b, anyTags [a] ++ intTags [b])] fun fr => calm fr ∧ widthOf (modeEtype fr.v.mode) = some 32 ∧
      ∃ n, n < 32 ∧ widthOf (fr.look.res a.toNat) = some n

namespace Sys2Proof.Machine

/-- The votes, shuffles, bcast, reductions, prefx and the identity reads tagr, lane, maskr and liver give each participating
slot what their tables say; each goes on whenever it starts and its operands pass, a reduction of FP32 with MODE.inv_trap
0. -/
def CrossLaneRules : Prop :=
  (∀ hold d a b, ∀ r ∈ voteRules hold d a ++ shuffleRules hold d a b ++ reductionRules hold d a ++ identityRules hold d a,
    r.Holds) ∧
  (∀ hold d a, ∀ r ∈ reductionRules hold d a, r.together.TrapsInvalid) ∧
  ∀ hold d a b,
    GoOn [(.voteAny hold d a, []), (.voteAll hold d a, []), (.voteBal hold d a, []), (.shflIdx hold d a b, intTags [b]),
      (.shflUp hold d a b, intTags [b]), (.shflDn hold d a b, intTags [b]), (.shflXor hold d a b, intTags [b]),
      (.bcast hold d a b, intTags [b]), (.tagr hold d a, []), (.lane hold d, []), (.maskr hold d, []), (.liver hold d, []),
      (.reduAdd hold d a, intTags [a]), (.reduMin hold d a, intTags [a]), (.reduMax hold d a, intTags [a]),
      (.prefx hold d a, intTags [a])] ∧
    GoOn [(.reduAdd hold d a, floatTags [a]), (.reduMin hold d a, floatTags [a]), (.reduMax hold d a, floatTags [a]),
      (.prefx hold d a, floatTags [a])] fun fr => modeInvTrap fr.v.mode = false

end Sys2Proof.Machine

/-- (R28, R41, R91, R114, R115, R116, R117, R147, R225, R226, R227, R228.) Every instruction of opcode groups 0 to 3
but the uniform forms raises TAG when an operand's tag fails its check, naming the first such register in the order d,
a, b, before anything is written; it ends a bank program or a walker with 0x02. So does cvt, pack or unpk, naming a,
when the source and MODE.etype do not fit together, and a dot product whose source has no class it accepts, naming
that source, or d where d holds neither an integer nor FP32; sources of two classes name b. That cr.TMASK holds slots
that fail the guard too (assumption log 98), that v0 as the source of cvt, pack and unpk is U32 (assumption log 57),
what decides the class of a dot product (assumption log 25), and the cycle the handler issues from (assumption log 63)
are the model's choices. -/
def Obligations.TagFaults : Prop :=
  (∀ hold d a b k lit, ∀ r ∈ arithmeticRules hold d a b k lit ++ pairRules hold d a b k ++ logicRules hold d a b k lit ++
      moveRules hold d a b k lit ++ floatRules hold d a b ++ floatCompareRules hold d a b ++ elementaryRules hold d a ++
      packedRules hold d a b ++ dotRules hold d a b ++ convertRules hold d a b ++ shuffleRules hold d a b ++
      reductionRules hold d a, r.StopsOnTags) ∧
  (∀ hold d a b, ∀ r ∈ convertRules hold d a b, r.StopsOnMisfit a) ∧
  ∀ hold d a b, ∀ r ∈ dotRules hold d a b,
    let number : View → Bool := fun v => v.ok (d, fun t => t = 0x10 || t = 0x11 || t = 0x20)
    r.StopsNaming (fun v => !r.needs v && number v) (if a ≠ 0 then a else b).toNat ∧
      r.StopsNaming (fun v => !r.needs v && !number v) d.toNat

/-- (R36, R157, R158, R159, R160, R161, R163, R164, R165, R172, R173, R176.) Every load, store, scratchpad access and
atomic issues as its rule says: the accesses of the participating slots become one outstanding operation, the counter
rises, registers that will be loaded are tagged, and memory changes later; without a participating slot there is no
access; a counter at 63 holds the instruction; a cause in every slot traps. Each of them, from ldb to acas64, goes on
whenever it starts, some slot participates, its operands pass, no counter stands at 63 and every participating slot's
address is aligned and may be accessed. That a load all of whose slots trap leaves its tag alone (assumption log 58)
and the cycle the handler issues from (assumption log 63) are the model's choices. -/
def Obligations.AccessesIssue : Prop :=
  (∀ hold d a b k, ∀ r ∈ loadRules hold d a k ++ storeRules hold d a k ++ scratchRules hold d a k ++ atomicRules hold d a b,
    r.Issues ∧ r.Otherwise) ∧
  ∀ hold d a b k (s : State) (fr : Frame), fr.part ≠ 0 → (∀ c, fr.w.ctr.get c ≠ 63) →
    let goesOn : Instr → Prop := fun i => ∃ (u : State) (w : Wave), exec i s = .next (u.finish fr w i) ∧
      ((u.ops.look s.nextOp).map fun o => (o.gid, o.wave, o.accs.map (·.slot))) = some (fr.gid, fr.wid, slotsOf fr.part)
    let may : (Nat → DWord) → Nat → AccKind → Prop := fun addr n perm => ∀ t ∈ slotsOf fr.part,
      (addr t).toNat % n = 0 ∧ (s.locate (some fr.g.core) fr.g.ctx (addr t) perm fr.priv).isOk = true
    ((pairTags a).all fr.look.ok = true → ∀ i n perm, (i, n, perm) ∈
        [(Instr.ldb hold d a k, 1, AccKind.load), (.ldbs hold d a k, 1, .load), (.ldh hold d a k, 2, .load),
          (.ldhs hold d a k, 2, .load), (.ld hold d a k, 4, .load), (.ldd hold d a k, 8, .load), (.ldq hold d a k, 16, .load),
          (.ldAcq hold d a k, 4, .load), (.lddAcq hold d a k, 8, .load), (.ldro hold d a k, 4, .load),
          (.ldroQ hold d a k, 16, .load), (.stb hold d a k, 1, .store), (.sth hold d a k, 2, .store), (.st hold d a k, 4, .store),
          (.std hold d a k, 8, .store), (.stq hold d a k, 16, .store), (.stRel hold d a k, 4, .store),
          (.stdRel hold d a k, 8, .store)] →
      Starts s fr i → may (pairAddr a k n fr) n perm → goesOn i) ∧
    ((intTags [a]).all fr.look.ok = true → ∀ i n, (i, n) ∈
        [(Instr.lds hold d a k, 4), (.ldsQ hold d a k, 16), (.sts hold d a k, 4), (.stsQ hold d a k, 16)] →
      Starts s fr i → (∀ t ∈ slotsOf fr.part, (s.scratch fr.g ((wordAddr a k n fr t).setWidth 32) n n true).isOk = true) →
      goesOn i) ∧
    ∀ i n tags, (i, n, tags) ∈
        [(Instr.aadd hold d a b, 4, intTags [b]), (.amin hold d a b, 4, intTags [b]), (.amax hold d a b, 4, intTags [b]),
          (.aand hold d a b, 4, anyTags [b]), (.aor hold d a b, 4, anyTags [b]), (.axor hold d a b, 4, anyTags [b]),
          (.axch hold d a b, 4, anyTags [b]), (.acas hold d a b, 4, anyTags [d, b]), (.aadd64 hold d a b, 8, pairTags d ++ pairTags b),
          (.acas64 hold d a b, 8, pairTags d ++ pairTags b)] →
      Starts s fr i → (pairTags a ++ tags).all fr.look.ok = true → may (fr.v.pair a.toNat) n .atomic → goesOn i

/-! ## Control registers (01 R32, R33, R35, R43; 04 R118, R120, R121) -/

/-- (R33, R41, R43, R118, R120, R121.) tagw, setm, setmi, getm and stat run their effect whatever the guard and touch
nothing else of the wave: the tag of d; MODE, the bits of STAT that are written as 1, or a half of cr.TPC and
cr.TMASK, from slot u; the selector's value to every live active slot; STAT as it stood to the slots that pass the
guard, then its bits cleared. A value refused for MODE raises MODE, and MODE keeps its value. That a written cr.TMASK
counts for tret (assumption log 23) and the cycle the handler issues from (assumption log 63) are the model's
choices. -/
def Obligations.ControlRegisters : Prop :=
  ∀ (s : State) (fr : Frame),
    (∀ d code, Starts s fr (.tagw d code) →
      exec (.tagw d code) s = .next (s.finish fr (fr.w.setTag d.toNat code) (.tagw d code))) ∧
    (∀ lit, Starts s fr (.setmi lit) → waveModeBad fr.g.regs lit = false →
      exec (.setmi lit) s = .next (s.finish fr { fr.w with mode := lit } (.setmi lit))) ∧
    (∀ hold a sel, Starts s fr (.setm hold a sel) →
      let x := fr.v.reg a.toNat fr.u
      let after : Wave → Prop := fun w => exec (.setm hold a sel) s = .next (s.finish fr w (.setm hold a sel))
      (sel = 0x00 → waveModeBad fr.g.regs x = false → after { fr.w with mode := x }) ∧
      (sel = 0x01 → after { fr.w with stat := fr.w.stat &&& ~~~(x &&& 0x1F) }) ∧
      (sel = 0x08 → after { fr.w with tpc := fr.w.tpc.extractLsb' 32 32 ++ x }) ∧
      (sel = 0x09 → after { fr.w with tpc := x ++ fr.w.tpc.extractLsb' 0 32 }) ∧
      (sel = 0x0A → after { fr.w with tmask := fr.w.tmask.extractLsb' 32 32 ++ x, adopted := false }) ∧
      (sel = 0x0B → after { fr.w with tmask := x ++ fr.w.tmask.extractLsb' 0 32, adopted := false }) ∧
      (sel ∈ [0x0C#7, 0x0D#7, 0x0E#7, 0x0F#7] → after fr.w) ∧
      (sel = 0x00 → waveModeBad fr.g.regs x = true → fr.TrapsTo s →
        exec (.setm hold a sel) s = .next (s.trapped fr fr.w .mode 0 false 0))) ∧
    (∀ lit, Starts s fr (.setmi lit) → waveModeBad fr.g.regs lit = true → fr.TrapsTo s →
      exec (.setmi lit) s = .next (s.trapped fr fr.w .mode 0 false 0)) ∧
    (∀ (regs : Nat) (x : Word), waveModeBad regs x = true ↔
      (5 ≤ (x.extractLsb' 16 3).toNat ∨ x.getLsbD 23 = true ∨ x.extractLsb' 24 3 = 7 ∨
        (assignedTag (x.extractLsb' 8 8) = false ∨ x.extractLsb' 8 8 = 0) ∨
        (x.extractLsb' 0 7 ≠ 0 ∧ regs ≤ (x.extractLsb' 0 7).toNat))) ∧
    (∀ hold d sel, Starts s fr (.getm hold d sel) →
      ∃ w, exec (.getm hold d sel) s = .next (s.finish fr w (.getm hold d sel)) ∧
        fr.w.Result w d.toNat false fr.act (fun _ => word (fr.v.control sel.toNat)) (some 0x11) 0) ∧
    ∀ hold d a, Starts s fr (.stat hold d a) →
      let cleared : Word := match lowest fr.part with
        | some u => fr.v.reg a.toNat u &&& 0x1F
        | none => 0
      ∃ w, exec (.stat hold d a) s = .next (s.finish fr { w with stat := fr.w.stat &&& ~~~cleared } (.stat hold d a)) ∧
        fr.w.Result w d.toNat false fr.part (fun _ => word fr.v.statWord) (some 0x11) 0

/-! ## Control flow (05 R129 to R154) -/

/-- (R15, R74, R129.) An instruction that does not place its slots itself leaves the fragment at the next instruction,
in its entry and with its slots and link, and changes nothing else of the wave. -/
def Obligations.InstructionsGoOnInSequence : Prop :=
  ∀ (s : State) (fr : Frame) (i : Instr) (w : Wave), s.frame? = some fr → fr.Quiet → w.split = fr.w.split → w.loops = [] → w.alive = fr.w.alive →
    s.finish fr w i = s.becomes fr
      (w.setFrag fr.ent (fr.fragAt (pcPlus fr.f.pc (sizeOf4 i / 4)) fr.f.mask fr.f.link s.cycle))

namespace Sys2Proof.Machine

/-- br moves the whole fragment when slot u's register is nonzero and goes on otherwise; bru moves the slots with a
nonzero register, dividing the fragment when some stay: they go to the lowest empty entry; jmp moves the fragment; nop goes
on. A transfer issues its first instruction seven cycles later. -/
def BranchesMoveSlots : Prop :=
  ∀ (s : State) (fr : Frame), fr.Quiet →
    let next : Wave := fr.w.setFrag fr.ent (fr.fragAt (pcPlus fr.f.pc 1) fr.act fr.f.link s.cycle)
    let goTo : BitVec 16 → Wave := fun off =>
      fr.w.setFrag fr.ent (fr.fragAt (fr.f.pc + off.signExtend 62) fr.act fr.f.link (s.cycle + 7))
    (∀ hold, Starts s fr (.nop hold) → exec (.nop hold) s = .next (s.becomes fr next)) ∧
    (∀ off, Starts s fr (.jmp off) → exec (.jmp off) s = .next (s.becomes fr (goTo off))) ∧
    (∀ a off, Starts s fr (.br a off) →
      exec (.br a off) s = .next (s.becomes fr (if fr.v.reg a.toNat fr.u ≠ 0 then goTo off else next))) ∧
    ∀ a off, Starts s fr (.bru a off) →
      let x := fr.act &&& maskWhere fun t => fr.v.reg a.toNat t != 0
      (x = 0 → exec (.bru a off) s = .next (s.becomes fr next)) ∧
      (x = fr.act → exec (.bru a off) s = .next (s.becomes fr (goTo off))) ∧
      (∀ e, x ≠ 0 → x ≠ fr.act → fr.w.emptyEntry = some e →
        exec (.bru a off) s = .next (s.becomes fr
          ((fr.w.setFrag fr.ent (fr.fragAt (pcPlus fr.f.pc 1) (fr.act &&& ~~~x) fr.f.link s.cycle)).setFrag e
            (fr.fragAt (fr.f.pc + off.signExtend 62) x fr.f.link (s.cycle + 7)))))

/-- call leaves pc + 4 in pair a of every slot of the fragment, tagged 0x12, and moves it to its target. jmpr and ret move
every slot to the address in its pair: the fragment where all hold one address, and where they hold two, the slots of the
lower in its entry and those of the higher in the lowest empty one. -/
def CallsAndReturns : Prop :=
  ∀ (s : State) (fr : Frame), fr.Quiet →
    (∀ a off, Starts s fr (.call a off) →
      ∃ w, fr.w.Result w a.toNat true fr.act (fun _ => pcPlus fr.f.pc 1 ++ 0#2) (some 0x12) 0 ∧
        exec (.call a off) s = .next (s.becomes fr
          (w.setFrag fr.ent (fr.fragAt (fr.f.pc + off.signExtend 62) fr.act fr.f.link (s.cycle + 7))))) ∧
    ∀ hold a i, (i = .jmpr hold a ∨ i = .ret hold a) → Starts s fr i → (pairTags a).all fr.look.ok = true →
      (∀ p : Pc, (∀ t ∈ slotsOf fr.act, pairOf fr.look a t = p ++ 0#2) →
        exec i s = .next (s.becomes fr (fr.w.setFrag fr.ent (fr.fragAt p fr.act fr.f.link (s.cycle + 7))))) ∧
      ∀ (p q : Pc) (x : DWord) e, p.toNat < q.toNat → fr.act &&& x ≠ 0 → fr.act &&& ~~~x ≠ 0 →
        (∀ t ∈ slotsOf fr.act, pairOf fr.look a t = (if inMask x t then p else q) ++ 0#2) → fr.w.emptyEntry = some e →
        exec i s = .next (s.becomes fr
          ((fr.w.setFrag fr.ent (fr.fragAt p (fr.act &&& x) fr.f.link (s.cycle + 7))).setFrag e
            (fr.fragAt q (fr.act &&& ~~~x) fr.f.link (s.cycle + 7))))

end Sys2Proof.Machine

/-- (R131, R132, R135, R136, R137, R138, R156.) Here the wave is in no loop, and every target is aligned. br moves the
whole fragment when slot u's register is nonzero and goes on otherwise; bru moves the slots with a nonzero register,
dividing the fragment when some stay: they go to the lowest empty entry; jmp moves the fragment; nop goes on. A
transfer issues its first instruction seven cycles later. call leaves pc + 4 in pair a of every slot of the fragment,
tagged 0x12, and moves it to its target. jmpr and ret move every slot to the address in its pair: the fragment where
all hold one address, and where they hold two, the slots of the lower in its entry and those of the higher in the
lowest empty one. A bru whose target is pc + 4 divides its fragment as any other, which is the model's choice
(assumption log 91). Here the wave is in no loop and every target is aligned. A bru whose target is pc + 4 divides its
fragment like any other, which is the model's choice (assumption log 91). -/
def Obligations.BranchesAndCalls : Prop :=
  Sys2Proof.Machine.BranchesMoveSlots ∧ Sys2Proof.Machine.CallsAndReturns

/-- (R17, R133, R139, R140, R141.) joinat creates a record in the lowest empty entry that waits for the slots of the
fragment; join arrives them there and frees their entry, and the last arrival turns the record into the fused fragment
at the join PC; brk takes the slots out of the record they are linked to and arrives them at its parent, or lets them
go on where it has none. That a record made before a trap and satisfied while it is handled gives a suspended fragment
is the model's choice (assumption log 20). -/
def Obligations.JoinRecords : Prop :=
  ∀ (s : State) (fr : Frame), fr.Quiet →
    let next : Option Nat → Fragment := fun l => fr.fragAt (pcPlus fr.f.pc 1) fr.act l s.cycle
    (∀ off e, Starts s fr (.joinat off) → fr.w.emptyEntry = some e →
      exec (.joinat off) s = .next (s.becomes fr ((fr.w.setJoin e
        { pc := fr.f.pc + off.signExtend 62, wait := fr.act, arrived := 0, parent := fr.f.link, loop := none,
          inTrap := tsNest fr.w.tstat }).setFrag fr.ent (next (some e))))) ∧
    (∀ i, ((∃ hold, i = .join hold) ∨ i = .brk 0) → Starts s fr i →
      (fr.f.link = none → exec i s = .next (s.becomes fr (fr.w.setFrag fr.ent (next none)))) ∧
      ∀ e j, fr.f.link = some e → fr.w.join? e = some j →
        (j.wait &&& ~~~fr.act ≠ 0 → exec i s = .next (s.becomes fr ((fr.w.freeEntry fr.ent).setJoin e
          { j with wait := j.wait &&& ~~~fr.act, arrived := j.arrived ||| fr.act }))) ∧
        (e < 16 → j.wait &&& ~~~fr.act = 0 → j.loop = none → exec i s = .next (s.becomes fr ((fr.w.freeEntry fr.ent).setFrag e
          { pc := j.pc, mask := j.arrived ||| fr.act, st := .ready, link := j.parent,
            suspended := tsNest fr.w.tstat && !j.inTrap, notBefore := s.cycle + 7 })))) ∧
    ∀ n e j, 0 < n.toNat → Starts s fr (.brk n) → fr.f.link = some e → fr.w.join? e = some j → j.loop = none →
      j.wait &&& ~~~fr.act ≠ 0 →
      let left := fr.w.setJoin e { j with wait := j.wait &&& ~~~fr.act }
      (j.parent = none → exec (.brk n) s = .next (s.becomes fr (left.setFrag fr.ent (next none)))) ∧
      ∀ p k, n = 1 → j.parent = some p → p ≠ e → fr.w.join? p = some k → k.wait &&& ~~~fr.act ≠ 0 →
        exec (.brk n) s = .next (s.becomes fr ((left.freeEntry fr.ent).setJoin p
          { k with wait := k.wait &&& ~~~fr.act, arrived := k.arrived ||| fr.act }))

namespace Sys2Proof.Machine

/-- The fragment of a frame is quiet, but for the loops its wave is in. -/
abbrev Frame.QuietInLoops (fr : Frame) : Prop := ({ fr with w := { fr.w with loops := [] } } : Frame).Quiet

/-- What completing an instruction at the end of the innermost loop does with a wave `w` that its effect left. While the loop's
record waits for other slots, the slots arrive there and their entry is empty. With the last of them and a count above 1, the
fused fragment goes back, one count lower, under a new record in the lowest empty entry that waits for the loop's slots; with
a count of 1 the loop pops, and the fused fragment goes on under the record's parent; it arrives at once at the record of
the next loop when that ends there too. -/
def LoopEnds : Prop :=
  ∀ (s : State) (fr : Frame) (i : Instr) (w : Wave) (l : LoopEnt) (rest : List LoopEnt) (r : Nat) (j : JoinRec),
    s.frame? = some fr → fr.QuietInLoops → w.split = fr.w.split → w.alive = fr.w.alive → w.tstat = fr.w.tstat →
    w.loops = l :: rest → l.mask &&& fr.act = fr.act → (∀ x ∈ rest, x.id ≠ l.id ∧ x.mask ≠ 0) →
    (l.stop = fr.f.pc ∨ sizeOf4 i = 8 ∧ l.stop = pcPlus fr.f.pc 1) → w.loopRec l.id = some r → w.join? r = some j →
    let all := j.arrived ||| fr.act
    let fused : Option Nat → Fragment := fun link =>
      { pc := j.pc, mask := all, st := .ready, link := link, suspended := tsNest w.tstat && !j.inTrap, notBefore := s.cycle }
    let ends : List LoopEnt → List Nat → (Wave → Prop) → Prop := fun loops touched p =>
      ∃ w' : Wave, s.finish fr w i = s.becomes fr w' ∧ w'.loops = loops ∧ p w' ∧
        (∀ e, e ∉ touched → w'.split.look e = if e = fr.ent then none else w.split.look e) ∧
        { w' with split := w.split, loops := w.loops } = w
    (j.wait &&& ~~~fr.act ≠ 0 → ends w.loops [r] fun w' =>
      w'.join? r = some { j with wait := j.wait &&& ~~~fr.act, arrived := all }) ∧
    (j.wait &&& ~~~fr.act = 0 →
      (∀ e, 1 < l.count.toNat → (w.freeEntry fr.ent).emptyEntry = some e →
        ends ({ l with count := l.count - 1 } :: rest) [r, e] fun w' => w'.frag? r = some (fused (some e)) ∧
          w'.join? e = some { pc := if l.count = 2 then pcPlus l.stop 1 else l.start, wait := l.mask, arrived := 0,
                              parent := j.parent, loop := some l.id, inTrap := tsNest w.tstat }) ∧
      (l.count = 1 → (∀ x ∈ rest, x.stop ≠ l.stop) → ends rest [r] fun w' => w'.frag? r = some (fused j.parent)) ∧
      ∀ o more q k, l.count = 1 → rest = o :: more → o.stop = l.stop → o.mask &&& all ≠ 0 → w.loopRec o.id = some q →
        w.join? q = some k → k.wait &&& ~~~all ≠ 0 → ends rest [r, q] fun w' => w'.split.look r = none ∧
          w'.join? q = some { k with wait := k.wait &&& ~~~all, arrived := k.arrived ||| all })

/-- A jmp to an address in the ranges of the loops its slots are in stays in them. -/
def JumpsInsideLoops : Prop :=
  ∀ (s : State) (fr : Frame) (off : BitVec 16), Starts s fr (.jmp off) → fr.QuietInLoops →
    let target := fr.f.pc + off.signExtend 62
    (∀ x ∈ fr.w.loops, x.mask ≠ 0 ∧ (x.mask &&& fr.act = 0 ∨ x.start.ule target = true ∧ target.ule x.stop = true)) →
    exec (.jmp off) s = .next (s.becomes fr (fr.w.setFrag fr.ent (fr.fragAt target fr.act fr.f.link (s.cycle + 7))))

/-- loop without a body goes on, with a count of 0 skips the body, and otherwise pushes the loop with its record, and the
fragment goes to the body's start. lexit outside loops divides its fragment as bru does; in one loop it takes its slots out of
the loop and of its record, and their link is the record's parent; so does a jmp to an address outside the loop. -/
def LoopsOpenAndClose : Prop :=
  ∀ (s : State) (fr : Frame) (a : Reg) (off : BitVec 16),
    let start := pcPlus fr.f.pc 1
    let target := fr.f.pc + off.signExtend 62
    (Starts s fr (.loop a off) →
      let c := fr.v.reg a.toNat fr.u
      (off.toInt ≤ 0 → fr.Quiet → exec (.loop a off) s = .next (s.becomes fr
        (fr.w.setFrag fr.ent (fr.fragAt start fr.act fr.f.link s.cycle)))) ∧
      (0 < off.toInt → c = 0 → exec (.loop a off) s = .next (s.becomes fr
        (fr.w.setFrag fr.ent { fr.f with pc := pcPlus target 1, st := .ready }))) ∧
      ∀ e, 0 < off.toInt → c ≠ 0 → tsNest fr.w.tstat = false → fr.w.loops.length < 4 → fr.w.emptyEntry = some e →
        exec (.loop a off) s = .next (s.becomes fr
          (({ fr.w with
              nextLoop := fr.w.nextLoop + 1,
              loops := { id := fr.w.nextLoop, start := start, stop := target, count := c, mask := fr.act } :: fr.w.loops }
              : Wave).setJoin e
            { pc := if c = 1 then pcPlus target 1 else start, wait := fr.act, arrived := 0, parent := fr.f.link,
              loop := some fr.w.nextLoop, inTrap := false }
            |>.setFrag fr.ent { fr.f with pc := start, link := some e, st := .ready }))) ∧
    (Starts s fr (.lexit a off) → fr.Quiet →
      let x := if a = 0 then fr.act else fr.act &&& maskWhere fun t => fr.v.reg a.toNat t != 0
      (x = 0 → exec (.lexit a off) s = .next (s.becomes fr
        (fr.w.setFrag fr.ent (fr.fragAt start fr.act fr.f.link s.cycle)))) ∧
      (x = fr.act → exec (.lexit a off) s = .next (s.becomes fr
        (fr.w.setFrag fr.ent (fr.fragAt target fr.act fr.f.link (s.cycle + 7))))) ∧
      ∀ e, x ≠ 0 → x ≠ fr.act → fr.w.emptyEntry = some e → exec (.lexit a off) s = .next (s.becomes fr
        ((fr.w.setFrag fr.ent (fr.fragAt start (fr.act &&& ~~~x) fr.f.link s.cycle)).setFrag e
          (fr.fragAt target x fr.f.link (s.cycle + 7))))) ∧
    ∀ l r j i, (i = .lexit a off ∧ a = 0 ∨ i = .jmp off ∧ ¬(l.start.ule target = true ∧ target.ule l.stop = true)) →
      Starts s fr i → fr.w.loops = [l] → fr.QuietInLoops →
      l.mask &&& fr.act = fr.act → l.mask &&& ~~~fr.act ≠ 0 → fr.f.link = some r → fr.w.loopRec l.id = some r →
      fr.w.join? r = some j → j.wait &&& ~~~fr.act ≠ 0 →
      ∃ w, exec i s = .next (s.becomes fr w) ∧ w.loops = [{ l with mask := l.mask &&& ~~~fr.act }] ∧
        w.join? r = some { j with wait := j.wait &&& ~~~fr.act } ∧
        w.frag? fr.ent = some (fr.fragAt target fr.act j.parent (s.cycle + 7)) ∧
        (∀ e, e ≠ fr.ent → e ≠ r → w.split.look e = fr.w.split.look e) ∧
        { w with loops := fr.w.loops, split := fr.w.split } = fr.w

end Sys2Proof.Machine

/-- (R134, R142, R143, R145.) loop without a body goes on, with a count of 0 skips the body, and otherwise pushes the
loop with its record, and the fragment goes to the body's start. Completing an instruction at the loop's end: while
the loop's record waits for other slots, the slots arrive there and their entry is empty; with the last of them the
fused fragment goes back one count lower, under a new record, and at a count of 1 the loop pops and the fragment goes
on, or arrives at the end of the next loop where that stands at the same address. A jump inside a loop stays in it.
lexit outside loops divides its fragment as bru does; in one loop it takes its slots out of the loop and of its
record, and their link is the record's parent; so does a jmp to an address outside the loop. The model's choices:
lexit without a loop, and a loop of count 0 at an enclosing loop's end (assumption log 60), a lexit to pc + 4
(assumption log 91), and the cycle a fused fragment of a loop issues from (assumption log 113). -/
def Obligations.HardwareLoops : Prop :=
  Sys2Proof.Machine.LoopsOpenAndClose ∧ Sys2Proof.Machine.LoopEnds ∧ Sys2Proof.Machine.JumpsInsideLoops

/-- (R23, R24, R146.) exit sets the exited bit of its slots and frees their entry; when they are the last of the last
wave of a group without peers, the group ends and leaves the core. -/
def Obligations.ExitEndsSlots : Prop :=
  ∀ (s : State) (fr : Frame) (hold : BitVec 2), Starts s fr (.exit hold) → fr.Quiet → tsNest fr.w.tstat = false → fr.g.noneAtBar →
    (fr.w.alive &&& ~~~fr.act ≠ 0 →
      fr.w.split.all (fun x => match x.2 with
        | .frag _ => true
        | .join j => j.wait &&& ~~~fr.act != 0) = true →
      ∃ t w, exec (.exit hold) s = .next t ∧ t.wave? fr.gid fr.wid = some w ∧ w.exited = fr.w.exited ||| fr.act ∧
        w.frag? fr.ent = none ∧ (∀ e, e ≠ fr.ent → w.frag? e = fr.w.frag? e) ∧ w.regs = fr.w.regs ∧
        t.mem = s.mem ∧ t.ops = s.ops) ∧
    (fr.w.alive &&& ~~~fr.act = 0 → fr.g.waves.length = 1 → s.gangSize fr.g = 1 → fr.g.held = false →
      fr.w.dfr = none → fr.w.efr = none →
      ∃ t, exec (.exit hold) s = .next t ∧ t.groups.look fr.gid = none ∧
        ∀ k, k ≠ fr.gid → t.groups.look k = s.groups.look k)

/-- (R152, R153, R154.) waitv whose bits hold writes the pending bits to pair d, tagged 0x12, and goes on; yield with
no other ready fragment on its lane block goes on, with others it sleeps until each has issued or stopped being ready
or 64 opportunities have passed; sleep sleeps to the tick at least n reference ticks away, and sleep 0 is yield. -/
def Obligations.WaitsOfGroupFour : Prop :=
  ∀ (s : State) (fr : Frame),
    (∀ hold d a b, Starts s fr (.waitv hold d a b) →
      let m := pairOf fr.look a fr.u
      let ctl := fr.v.reg b.toNat fr.u
      let pending := quarterOf (s.context fr.g.ctx).events (ctl.extractLsb' 0 2).toNat &&& m
      (if ctl.getLsbD 8 then pending = m else pending ≠ 0) →
      ∃ w, exec (.waitv hold d a b) s = .next (s.finish fr w (.waitv hold d a b)) ∧
        fr.w.Result w d.toNat true fr.act (fun _ => pending) (some 0x12) 0) ∧
    let others := (s.readyOn fr.g.core (fr.w.slot % 4)).filter fun x => x != (fr.gid, fr.wid, fr.ent)
    let asleep : Sleep → State := fun z => s.becomes fr (fr.w.setFrag fr.ent { fr.f with st := .sleeping z })
    (∀ i, ((∃ hold, i = .yield hold) ∨ i = .sleep 0) → Starts s fr i →
      exec i s = .next (if others = [] then s.finish fr fr.w i else asleep (.turns others 64))) ∧
    ∀ n : BitVec 16, n ≠ 0 → Starts s fr (.sleep n) →
      exec (.sleep n) s = .next (asleep (.tick ((s.cycle + 7 * n.toNat + 6) / 7)))

/-! ## Traps (01 R38 to R42; 05 R147 to R150) -/

namespace Sys2Proof.Machine

/-- trap raises the cause it names for every slot of the fragment: cr.TPC, cr.TMASK, cr.TCAUSE, cr.TADDR and cr.TSTAT are
set as stated, the wave is privileged, the other fragments are suspended, and the fragment goes to cr.SUP. -/
def TrapEntersTheSupervisor : Prop :=
  ∀ (s : State) (fr : Frame) (svc cause : Byte), Starts s fr (.trap svc cause) → fr.TrapsTo s →
    exec (.trap svc cause) s = .next (s.trapped fr fr.w (causeOf cause.toNat) 0 false 0)

end Sys2Proof.Machine

namespace Sys2Proof.Machine

/-- tret ends the trap: the slots of cr.TMASK that the handler's fragment holds go on at cr.TPC in its entry, which is empty
when there is none; the fragment's other slots exit; privilege returns to what it was, nest and the held event are cleared, and
the suspended fragments run again. -/
def TrapsReturn : Prop :=
  ∀ (s : State) (fr : Frame) (hold : BitVec 2), Starts s fr (.tret hold) → fr.Quiet → fr.g.noneAtBar →
    fr.w.notConverged fr.ent = false → fr.w.tpc.extractLsb' 0 2 = 0 →
    let r := fr.w.tmask &&& fr.act
    let gone := fr.act &&& ~~~r
    (r = fr.act ∨ fr.w.adopted = false ∧ fr.w.alive &&& ~~~gone ≠ 0 ∧ fr.w.split.all (fun x => match x.2 with
      | .frag _ => true
      | .join j => decide (j.wait &&& ~~~gone ≠ 0) && decide (j.arrived &&& gone = 0)) = true) →
    ∃ t w, exec (.tret hold) s = .next t ∧ t.wave? fr.gid fr.wid = some w ∧
      w.frag? fr.ent = (if r = 0 then none else some { fr.f with
        pc := fr.w.tpc.extractLsb' 2 62, mask := r, st := .ready, suspended := false, notBefore := s.cycle + 28 }) ∧
      (∀ e f, e ≠ fr.ent → fr.w.frag? e = some f → w.frag? e = some { f with suspended := false }) ∧
      w.priv = fr.w.tstat.getLsbD 1 ∧ w.tstat = fr.w.tstat &&& ~~~0x41#32 ∧ w.regs = fr.w.regs ∧ w.mode = fr.w.mode ∧
      w.exited = fr.w.exited ||| gone ∧ t.mem = s.mem

/-- A trap while a trap is handled is a DOUBLE, and so is a tret whose handler has not come together or whose cr.TPC is no
address of an instruction: the group ends, and its record, with cause 0x10, goes to the context's fault ring. -/
def DoubleTrapsEndTheGroup : Prop :=
  ∀ (s : State) (fr : Frame) (i : Instr), Starts s fr i →
    ((∃ svc cause, i = .trap svc cause) ∨ (∃ hold, i = .tret hold) ∧
      (fr.w.notConverged fr.ent = true ∨ fr.w.tpc.extractLsb' 0 2 ≠ 0)) →
    fr.act ≠ 0 → tsNest fr.w.tstat = true → s.gangSize fr.g = 1 →
    (∀ k w, (k, w) ∈ fr.g.waves → w.dfr = none ∧ w.efr = none) →
    ∃ t, exec i s = .next t ∧ t.groups.look fr.gid = none ∧ (∀ k, k ≠ fr.gid → t.groups.look k = s.groups.look k) ∧
      t.mem = (s.post fr.g.ctx { workId := fr.w.slotId ((lowest fr.act).getD 0), addr := fr.f.pc ++ 0#2, cause := 0x10,
                                 core := fr.g.core }).mem

end Sys2Proof.Machine

/-- (R131, R149, R150.) tret ends the trap: the slots of cr.TMASK that the handler's fragment holds go on at cr.TPC in
its entry, which is empty when there is none; the fragment's other slots, which the handler has dropped from cr.TMASK,
exit; privilege returns to what it was, nest and the held event are cleared, and the suspended fragments run again. A
trap while a trap is handled is a DOUBLE, and so is a tret whose handler has not come together or whose cr.TPC is no
address of an instruction: the group ends, and its record, with cause 0x10, goes to the context's fault ring. The
cycle the slots issue from (assumption log 63) is the model's choice. -/
def Obligations.TrapReturn : Prop :=
  Sys2Proof.Machine.TrapsReturn ∧ Sys2Proof.Machine.DoubleTrapsEndTheGroup

namespace Sys2Proof.Machine

/-- A privileged instruction in user mode raises PRIV for the slots of the fragment; an odd or missing pair register raises
ILL naming it; both before anything is written. -/
def SynchronousTraps : Prop :=
  ∀ (s : State) (fr : Frame), s.frame? = some fr → fr.TrapsTo s →
    (∀ i, runsOn .core i = true → fr.loadFault i = none → badOperand fr.g.regs i = none → numbersOk i = true →
      needsPrivilege i = true → fr.w.priv = false → exec i s = .next (s.trapped fr fr.w .priv 0 false 0)) ∧
    ∀ hold d a b (r : Reg), fr.loadFault (.add64 hold d a b) = none →
      ([d, a, b].find? fun x => decide (x.toNat % 2 ≠ 0) || decide (fr.g.regs < x.toNat + 2)) = some r →
      exec (.add64 hold d a b) s = .next (s.trapped fr fr.w .ill r.toNat false 0)

end Sys2Proof.Machine

/-- (R26, R38, R39, R41, R81, R147, R148.) trap raises the cause it names for every slot of the fragment: cr.TPC,
cr.TMASK, cr.TCAUSE, cr.TADDR and cr.TSTAT are set as stated, the wave is privileged, the other fragments are
suspended, and the fragment goes to cr.SUP. A privileged instruction in user mode raises PRIV for the slots of the
fragment; an odd or missing pair register raises ILL naming it; both before anything is written. The first issue of
the handler is counted from the issue of the instruction that traps (assumption log 63). Which register an ILL names
first is the model's choice (assumption log 57). -/
def Obligations.TrapsEnterTheSupervisor : Prop :=
  Sys2Proof.Machine.TrapEntersTheSupervisor ∧ Sys2Proof.Machine.SynchronousTraps

namespace Sys2Proof.Machine

/-- The word j of a load of n bytes that reads `f`: a byte or a halfword is extended, sign-extended when `sg` (06 R164). -/
def readWord (f : Nat → Byte) (n : Nat) (sg : Bool) (j : Nat) : Word :=
  if n = 1 then (if sg then (f 0).signExtend 32 else (f 0).setWidth 32)
  else if n = 2 then
    let h : BitVec 16 := f 1 ++ f 0
    if sg then h.signExtend 32 else h.setWidth 32
  else f (4 * j + 3) ++ f (4 * j + 2) ++ f (4 * j + 1) ++ f (4 * j)

/-- Wave `w` is `w₀` with the words of a load in registers from d of one slot; v0 and a pair named by it take none. What
the wave has acquired of its group's stores may grow. -/
def Loaded (w₀ w : Wave) (d : Reg) (k slot : Nat) (val : Nat → Word) : Prop :=
  (∀ n t, w.reg n t =
    if t = slot ∧ n ≠ 0 ∧ d.toNat ≤ n ∧ n < d.toNat + k ∧ (d = 0 → k ≠ 2) then val (n - d.toNat) else w₀.reg n t) ∧
    { w with regs := w₀.regs, ctr := w₀.ctr, heard := w₀.heard } = w₀

/-- An event names one access of an outstanding operation that is not performed yet. -/
abbrev Names (s : State) (o : Op) (a : SlotAcc) : Prop :=
  s.ops.look s.about.op = some o ∧ s.about.slots = slotBit a.slot ∧ o.named (slotBit a.slot) = some [a]

/-- The counter of an operation drops, and it leaves the table, when the access was its last; else the access is marked. -/
def Settles (s t : State) (o : Op) (a : SlotAcc) (w₀ w : Wave) : Prop :=
  if o.accs.all (fun b => b.done || b.slot = a.slot) = true then
    t.ops.look s.about.op = none ∧
      ∀ c, w.ctr.get c = if o.ctr = some c ∧ w₀.ctr.get c ≠ 0 then w₀.ctr.get c - 1 else w₀.ctr.get c
  else w.ctr = w₀.ctr ∧ t.ops.look s.about.op =
    some { o with accs := o.accs.map fun b => if b.slot = a.slot then { b with done := true } else b }

/-- LOAD_RETURN answers whenever every load it names is ready, for any number of slots. For one live slot whose bytes are
not poisoned it writes the words to the registers of that slot and to nothing else: a generic load the bytes as the group
sees them, a scratchpad load its bytes, a read-only load the line its core holds or else memory's. Memory does not
change. -/
def LoadsReturn : Prop :=
  ∀ (s : State) (o : Op),
    (∀ l, s.ops.look s.about.op = some o → o.named s.about.slots = some l → (∀ a ∈ l, s.loadReady s.about.op o a = true) →
      ∃ t : State, exec .loadReturn s = .next t.wake.moved) ∧
    ∀ (a : SlotAcc) (w : Wave) (d : Reg) (n : Nat) (sg : Bool) (f : Nat → Byte), Names s o a → a.slot < 64 →
      s.wave? o.gid o.wave = some w → inMask w.alive a.slot = true → s.loadReady s.about.op o a = true →
      n ∈ [1, 2, 4, 8, 16] →
      ((∃ acq, o.kind = .load d n sg acq ∧ s.poisonedIn a.key n = false ∧ f = fun j => s.groupByte o.gid (a.key + j)) ∨
        (o.kind = .scratchLoad d n ∧ sg = false ∧ f = fun j => s.byte (a.key + j)) ∨
        (o.kind = .readOnly d n ∧ sg = false ∧ spaceOf a.key < 8 ∧ (s.core o.core).ro.look (roKey o.ctx a.va) = none ∧
          s.poisonedIn a.key n = false ∧ a.key % n = 0 ∧ a.va.toNat % 128 = a.key % 128 ∧ f = fun j => s.byte (a.key + j)) ∨
        ∃ r : RoLine, o.kind = .readOnly d n ∧ sg = false ∧ spaceOf a.key < 8 ∧ a.va.toNat % n = 0 ∧
          (s.core o.core).ro.look (roKey o.ctx a.va) = some r ∧ r.poison = List.replicate 8 false ∧
          r.bytes.length = 128 ∧ f = fun j => r.bytes.getD (a.va.toNat % 128 + j) 0) →
      ∃ (t : State) (w' : Wave), exec .loadReturn s = .next t.wake.moved ∧ t.wave? o.gid o.wave = some w' ∧
        Loaded w w' d (wordsIn n) a.slot (readWord f n sg) ∧ Settles s t o a w w' ∧ t.mem = s.mem

/-- A load of a poisoned 16-byte unit kills its slot: the slot is no longer live, and no register is written. -/
def PoisonKillsSlots : Prop :=
  ∀ (s : State) (o : Op) (a : SlotAcc) (w : Wave) (d : Reg) (n : Nat) (sg acq : Bool), Names s o a → a.slot < 64 →
    s.wave? o.gid o.wave = some w → inMask w.alive a.slot = true → w.alive ≠ slotBit a.slot →
    o.kind = .load d n sg acq → s.loadReady s.about.op o a = true → s.poisonedIn a.key n = true →
    ∃ (t : State) (w' : Wave), exec .loadReturn s = .next t.wake.moved ∧ t.wave? o.gid o.wave = some w' ∧
      w'.live = w.live &&& ~~~slotBit a.slot ∧ w'.exited = w.exited ∧ w'.regs = w.regs ∧ w'.tags = w.tags

end Sys2Proof.Machine

/-- (R157, R164, R165, R167, R172, R368.) LOAD_RETURN answers whenever every load it names is ready, for any number of
slots. For one live slot whose bytes are not poisoned it writes the words to the registers of that slot and to nothing
else: a generic load the bytes as the group sees them, a scratchpad load its bytes, a read-only load the line its core
holds or else memory's. Memory does not change. A load of a poisoned 16-byte unit kills its slot: the slot is no
longer live, and no register is written. -/
def Obligations.LoadsReturn : Prop :=
  Sys2Proof.Machine.LoadsReturn ∧ Sys2Proof.Machine.PoisonKillsSlots

namespace Sys2Proof.Machine

/-- The new value of an atomic: m in memory, x the operand, c the compared register (06 R176). -/
def atomicValue {n : Nat} (f : AtomOp) (m x c : BitVec n) : BitVec n :=
  match f with
  | .add => m + x
  | .min g => if (if g then x.slt m else x.ult m) then x else m
  | .max g => if (if g then m.slt x else m.ult x) then x else m
  | .and => m &&& x
  | .or => m ||| x
  | .xor => m ^^^ x
  | .xch => x
  | .cas => if m = c then x else m

/-- Bytes key to key + n − 1 of memory become those of x, lowest first, and every other byte is as it was. -/
def Stored (s t : State) (key n : Nat) (x : BitVec 128) : Prop :=
  ∀ k, t.byte k = if key ≤ k ∧ k < key + n then x.extractLsb' (8 * (k - key)) 8 else s.byte k

end Sys2Proof.Machine

/-- (R157, R165, R173, R365, R371.) STORE_PERFORMED of a ready store in its place writes the bytes of its data and no
other, and of a scratchpad store too. A store to a retired frame or behind a lost link changes nothing. No register
changes. -/
def Obligations.StoresPerform : Prop :=
  ∀ (s : State) (o : Op) (a : SlotAcc) (n : Nat), Names s o a → s.storeReady s.about.op o (slotBit a.slot) a = true →
    o.groupFirst [a] = false → n ∈ [1, 2, 4, 8, 16] →
    ((∃ rel, o.kind = .store n rel ∧ (s.retired a.key || s.linkLost a.key) = false) ∨
      (o.kind = .scratchStore n ∧ isScratch a.key = true) →
      ∃ t : State, exec .storePerformed s = .next t.wake.moved ∧ Stored s t a.key n a.data ∧
        ∀ g w, (t.wave? g w).map (fun x => (x.regs, x.tags, x.mode)) = (s.wave? g w).map fun x => (x.regs, x.tags, x.mode)) ∧
    ∀ rel, o.kind = .store n rel → (s.retired a.key || s.linkLost a.key) = true →
      ∃ t : State, exec .storePerformed s = .next t.wake.moved ∧ t.mem = s.mem

/-- (R176, R177.) STORE_PERFORMED of a ready atomic on bytes that are not poisoned stores its new value in one piece
and gives the old value to d of its slot; d = v0 takes nothing. -/
def Obligations.AtomicsPerform : Prop :=
  ∀ (s : State) (o : Op) (a : SlotAcc) (w : Wave) (d : Reg) (n : Nat) (f : AtomOp), Names s o a → a.slot < 64 →
    o.kind = .atomic d n f → n = 4 ∨ n = 8 → s.wave? o.gid o.wave = some w → inMask w.alive a.slot = true →
    s.storeReady s.about.op o (slotBit a.slot) a = true → s.poisonedIn a.key n = false →
    (s.retired a.key || s.linkLost a.key) = false → a.data.toNat < 2 ^ (8 * n) → a.cmp.toNat < 2 ^ (8 * n) →
    let m : BitVec 128 := BitVec.ofNat 128 (s.num a.key n)
    ∃ (t : State) (w' : Wave), exec .storePerformed s = .next t.wake.moved ∧ t.wave? o.gid o.wave = some w' ∧
      Stored s t a.key n ((atomicValue f (m.setWidth (8 * n)) (a.data.setWidth (8 * n)) (a.cmp.setWidth (8 * n))).setWidth 128) ∧
      Loaded w w' d (wordsIn n) a.slot (readWord (fun j => s.byte (a.key + j)) n false) ∧ Settles s t o a w w'

/-- (R166, R427.) A load that has waited on an empty row for MODE.tmo since it arrived there is over for its slots,
even where the row is filled now, and no longer returns: the wave remembers the fault with the address of the row's
512 bytes, and the first instruction that reads or writes its registers, or waits on ctr.ld, traps with EMPTY_TIMEOUT
(06 R166, R427). A load arrives when nothing but the empty row holds it back any more (assumption log 62). The cycle
the handler issues from (assumption log 63) is the model's choice. -/
def Obligations.EmptyRowsTimeOut : Prop :=
  ∀ (s : State),
    (∀ (o : Op) (a : SlotAcc) (d : Reg) (n : Nat) (sg acq : Bool), Names s o a → o.kind = .load d n sg acq →
      s.loadClear s.about.op o a = true → s.rowEmpty a.key = true → a.arrived = none →
      ∃ t : State, exec .loadReturn s = .next t.wake.moved ∧ t.mem = s.mem ∧ t.groups = s.groups ∧ t.ops.look s.about.op =
        some { o with accs := o.accs.map fun b => if b.slot = a.slot then { b with arrived := some s.tick } else b }) ∧
    (∀ (o : Op) (a : SlotAcc) (w : Wave) (d : Reg) (n : Nat) (sg acq : Bool) (t₀ : Nat), Names s o a →
      o.kind = .load d n sg acq → s.wave? o.gid o.wave = some w → w.efr = none → a.arrived = some t₀ → t₀ + o.tmo ≤ s.tick →
      exec .loadReturn s = .refused .notEnabled ∧ ∃ (t : State) (w' : Wave), exec .emptyRowTimeout s = .next t.wake.moved ∧ t.wave? o.gid o.wave = some w' ∧
        w'.efr = some { slots := slotBit a.slot, addr := a.va &&& ~~~0x1FF#64, reg := d.toNat, count := wordsIn n } ∧
        w'.regs = w.regs ∧ Settles s t o a w w' ∧ t.mem = s.mem) ∧
    ∀ (fr : Frame) (i : Instr) (e : LoadFault), s.frame? = some fr → runsOn .core i = true → fr.TrapsTo s → fr.loadFault i = some e →
      e.slots = fr.act → fr.act &&& fr.w.alive = fr.act →
      exec i s = .next (s.trapped fr { fr.w with efr := none } .emptyTimeout 0 (isUniform i) e.addr)

/-! ## Tag tables (06 R174, R175) -/

namespace Sys2Proof.Machine

/-- What a tag-table instruction does in a slot: the entries of the core after it, and its result. -/
abbrev TagAct := Tab TagEnt → Nat → Nat → Tab TagEnt × Word

/-- The status word of an entry: valid, pinned, dirty, owner. -/
def entryStatus (e : TagEnt) : Word :=
  BitVec.ofNat 32 (e.valid.toNat + 2 * e.pinned.toNat + 4 * e.dirty.toNat + 256 * e.owner)

/-- The entry of a slot of the table; one never written is invalid. -/
def entryOf (t : Tab TagEnt) (k : Nat) : TagEnt := t.lookD k { valid := false, pinned := false, dirty := false, owner := 0, va := 0 }

/-- A valid entry of a context for the page of a VA. -/
def holdsPage (ctx : Nat) (va : DWord) (e : TagEnt) : Bool :=
  e.valid && e.owner = ctx && e.va = va.extractLsb' 12 52 ++ 0#12

/-- tagl gives the scratch address of the VA in the context's entry of its page, or all ones. -/
def tagLookAct (core ctx : Nat) (va : Nat → DWord) : TagAct := fun t _ j =>
  (t, match t.find? fun e => holdsPage ctx (va j) e.2 with
    | some e => BitVec.ofNat 32 (core % 24 * 2 ^ 27 + e.1 * 4096 + (va j).toNat % 4096)
    | none => 0xFFFFFFFF)

/-- tagi installs in an invalid entry, or in a clean one of its own that is not pinned, unless another holds the page. -/
def tagInstallAct (ctx : Nat) (va : Nat → DWord) : TagAct := fun t k j =>
  let e := entryOf t k
  if (!e.valid || (e.owner = ctx && !e.pinned && !e.dirty)) && !t.any fun x => x.1 != k && holdsPage ctx (va j) x.2 then
    (t.put k { valid := true, pinned := false, dirty := false, owner := ctx, va := (va j).extractLsb' 12 52 ++ 0#12 }, 1)
  else (t, 0)

/-- tage makes an entry of its own that is not pinned invalid, and gives the status it had. -/
def tagEvictAct (ctx : Nat) : TagAct := fun t k _ =>
  let e := entryOf t k
  (if e.valid && e.owner = ctx && !e.pinned then t.put k { e with valid := false, pinned := false, dirty := false } else t,
    entryStatus e)

/-- tagp sets pinned from bit 0 of b, and dirty from bit 2 when bit 1 is set, and gives the status it had. -/
def tagPinAct (ctx : Nat) (b : Nat → Word) : TagAct := fun t k j =>
  let e := entryOf t k
  (if e.valid && e.owner = ctx then
      t.put k { e with pinned := (b j).getLsbD 0, dirty := if (b j).getLsbD 1 then (b j).getLsbD 2 else e.dirty }
    else t, entryStatus e)

/-- tagt reads the status, the low or the high word of the VA, by b. -/
def tagReadAct (b : Nat → Word) : TagAct := fun t k j =>
  let e := entryOf t k
  (t, if b j = 0 then entryStatus e
    else if b j = 1 then e.va.extractLsb' 12 20 ++ 0#12
    else if b j = 2 then e.va.extractLsb' 32 32
    else 0)

/-- A tag-table instruction of the participating slots, one after another in ascending order: entries, results of the
slots, tag U32. `notes` is what becomes of the ladle's notes of pins. -/
def RunsTags (i : Instr) (d : Reg) (checks : List (Reg × (Byte → Bool))) (slot : State → Frame → Nat → Option Nat)
    (f : Frame → TagAct) (notes : State → Frame → State := fun s _ => s) : Prop :=
  ∀ (s : State) (fr : Frame), Starts s fr i → checks.all fr.look.ok = true → fr.part ≠ 0 →
    (∀ t ∈ slotsOf fr.part, (slot s fr t).isSome = true) →
    let run := (slotsOf fr.part).foldl (fun (p : Tab TagEnt × Tab Word) t =>
      let q := f fr p.1 ((slot s fr t).getD 0) t
      (q.1, p.2.put t q.2)) ((s.core fr.g.core).tags, [])
    ∃ w, exec i s = .next (((notes s fr).onCore fr.g.core fun c => { c with tags := run.1 }).finish fr w i) ∧
      fr.w.Result w d.toNat false fr.part (fun t => word (run.2.lookD t 0)) (some 0x11) 0

/-- The tag-table slot a scratch address names in the issuing core, region base added for core field 31; with `own`, an
entry another context holds raises PROT and there is none. -/
def tagSlotOf (r : Reg) (own : Bool) (s : State) (fr : Frame) (t : Nat) : Option Nat :=
  let x := fr.v.reg r.toNat t
  let core := (x.extractLsb' 27 5).toNat
  let off := (x.extractLsb' 0 27).toNat + (if core = 31 then fr.g.base * 4096 else 0)
  let e := entryOf (s.core fr.g.core).tags (off / 4096)
  if (core = 31 ∨ core = fr.g.core % 24) ∧ off < (s.core fr.g.core).sscr * 65536 ∧ off < 2 ^ 48 ∧
      ¬(own = true ∧ e.valid = true ∧ e.owner ≠ fr.g.ctx) then some (off / 4096) else none

end Sys2Proof.Machine

/-- (R174, R175, R316.) tagl, tagi, tage, tagp and tagt complete and do what R175 says, in every participating slot;
the ladle's notes of the pins a tagp writes are dropped. -/
def Obligations.TagTableInstructions : Prop :=
  ∀ hold d a b,
    RunsTags (.tagl hold d a) d (pairTags a) (fun _ _ _ => some 0)
      (fun fr => tagLookAct fr.g.core fr.g.ctx (pairOf fr.look a)) ∧
    RunsTags (.tagi hold d a b) d (pairTags a ++ intTags [b]) (tagSlotOf b false)
      (fun fr => tagInstallAct fr.g.ctx (pairOf fr.look a)) ∧
    RunsTags (.tage hold d a) d (intTags [a]) (tagSlotOf a true) (fun fr => tagEvictAct fr.g.ctx) ∧
    RunsTags (.tagp hold d a b) d (intTags [a]) (tagSlotOf a true) (fun fr => tagPinAct fr.g.ctx (fr.v.reg b.toNat))
      (fun s fr => s.forgetNotes fr a) ∧
    RunsTags (.tagt hold d a b) d (intTags [a]) (tagSlotOf a false) (fun fr => tagReadAct (fr.v.reg b.toNat))

/-! ## Fences, waits and barriers (06 R168, R170, R171, R178 to R186) -/

namespace Sys2Proof.Machine

/-- The six counters by their class numbers. -/
def counterOf (w : Wave) (n : Nat) : BitVec 6 :=
  match n with
  | 0 => w.ctr.ld
  | 1 => w.ctr.st
  | 2 => w.ctr.cp
  | 3 => w.ctr.tl
  | 4 => w.ctr.xr
  | _ => w.ctr.nm

end Sys2Proof.Machine

/-- (R158, R168, R170, R171, R178, R179.) fence and fence.ro, waitc and waitr whose counters have come down, ctrr and
pref go on; waitc and waitr wait while a counter is above its threshold, and fence while an earlier access of its wave
is not performed, with the scope it was issued with. fence.ro empties the read-only partition of its core, which
returns nothing older from then on; ctrr gives the counter to the slots of the fragment. What a fence waits for
(assumption log 106), and that pref takes every slot of the fragment whatever the guard, checks the tags of its pair
and raises nothing for an address without a translation (assumption log 64), are the model's choices; so is when waitr
of ctr.xr meets a deferred fault, which this statement leaves out (assumption log 111). -/
def Obligations.FencesAndCounterWaits : Prop :=
  ∀ (s : State) (fr : Frame) (hold : BitVec 2),
    (Starts s fr (.fence hold) →
      (s.ops = [] → exec (.fence hold) s = .next (s.finish fr fr.w (.fence hold))) ∧
      ∀ id o a, (id, o) ∈ s.ops → id < s.nextOp → o.gid = fr.gid → o.wave = fr.wid → o.kind.ordered = true → a ∈ o.accs →
        a.done = false → a.slot < 64 → (2 ≤ modeScope fr.v.mode ∨ o.kind.isStore = false) → exec (.fence hold) s =
          .next (s.becomes fr (fr.w.setFrag fr.ent { fr.f with st := .waiting (.fence (modeScope fr.v.mode) s.nextOp) }))) ∧
    (Starts s fr (.fenceRo hold) → fr.Quiet → exec (.fenceRo hold) s =
      .next ((s.onCore fr.g.core fun c => { c with
          ro := [], roSince := s.past.length, roFloors := [], roFence := s.nextOp }).becomes fr
        (fr.w.setFrag fr.ent (fr.fragAt (pcPlus fr.f.pc 1) fr.act fr.f.link (s.cycle + 68))))) ∧
    (∀ tl cp st ld, Starts s fr (.waitc tl cp st ld) →
      let met := [(tl, 3), (cp, 2), (st, 1), (ld, 0)].all fun x => x.1.toNat = 15 || (counterOf fr.w x.2).toNat ≤ x.1.toNat
      exec (.waitc tl cp st ld) s = .next (if met then s.finish fr fr.w (.waitc tl cp st ld) else s.awaitCounters fr)) ∧
    (∀ a cls, Starts s fr (.waitr hold a cls) → (intTags [a]).all fr.look.ok = true → (cls.toNat = 4 → fr.w.dfr = none) →
      exec (.waitr hold a cls) s = .next
        (if (counterOf fr.w cls.toNat).toNat ≤ (fr.v.reg a.toNat fr.u).toNat then s.finish fr fr.w (.waitr hold a cls)
          else s.awaitCounters fr)) ∧
    (∀ d cls, Starts s fr (.ctrr hold d cls) → (cls.toNat = 4 → fr.w.dfr = none) →
      ∃ w, exec (.ctrr hold d cls) s = .next (s.finish fr w (.ctrr hold d cls)) ∧
        fr.w.Result w d.toNat false fr.act (fun _ => (counterOf fr.w cls.toNat).setWidth 64) (some 0x11) 0) ∧
    ∀ a k, Starts s fr (.pref hold a k) → (pairTags a).all fr.look.ok = true →
      exec (.pref hold a k) s =
        .next ((s.noteAccess fr ((slotsOf fr.act).map (pairAddr a k 128 fr)) .load 0).finish fr fr.w (.pref hold a k))

/-- (R180, R181, R182, R183, R184, R186.) bar arrives its fragment once its wave's earlier accesses are performed: it
waits, and when it is all that is alive in the group it goes on. baro.arr with room in the tracking list, after the
arrivals under way, issues an arrival of slot u, counted in ctr.st. baro.wt goes on with the status word of an object
whose count has come, and waits for it otherwise, until MODE.tmo. That arrivals under way count for room (assumption
log 107) and that the sampler notes them when they issue (assumption log 51) are the model's choices. -/
def Obligations.Barriers : Prop :=
  ∀ (s : State) (fr : Frame) (hold : BitVec 2),
    (Starts s fr (.bar hold) → s.ops = [] → s.groups.look fr.gid = some fr.g →
      let waits := fr.w.setFrag fr.ent { fr.f with st := .waiting .barrier }
      ((fr.g.setWave fr.wid waits).barDone = false → exec (.bar hold) s = .next (s.becomes fr waits)) ∧
      (fr.Quiet → fr.f.suspended = false → fr.w.split = [(fr.ent, .frag fr.f)] → fr.ent < 16 → fr.w.alive = fr.act →
        fr.g.waves = [(fr.wid, fr.w)] →
        exec (.bar hold) s = .next (s.becomes fr
          (fr.w.setFrag fr.ent (fr.fragAt (pcPlus fr.f.pc 1) fr.act fr.f.link s.cycle))))) ∧
    (∀ a key, Starts s fr (.baroArr hold a) → (pairTags a).all fr.look.ok = true → s.objectOf fr a = .ok key →
      fr.w.ctr.get .st ≠ 63 → (s.core fr.g.core).track.length + (s.arriving fr.g.core).length < 64 →
      let va := fr.v.pair a.toNat fr.u
      exec (.baroArr hold a) s = .next (((s.noteAccess fr [va] .atomic 2).pushOp
        { gid := fr.gid, wave := fr.wid, ctx := fr.g.ctx, serial := fr.g.serial, core := fr.g.core, ctr := some .st,
          kind := .arrive va key,
          accs := [{ slot := fr.u, va := va, key := key, data := 0, cmp := 0, done := false, grp := false,
                     heed := fr.w.heard.lookD fr.u 0 }],
          scope := modeScope fr.v.mode, promote := false, issued := s.tick, tmo := modeTmo fr.v.mode }).finish fr
        (fr.w.count .st) (.baroArr hold a))) ∧
    ∀ d a b key, Starts s fr (.baroWt hold d a b) → (pairTags a ++ intTags [b]).all fr.look.ok = true →
      s.objectOf fr a = .ok key →
      let va := fr.v.pair a.toNat fr.u
      let u := s.noteAccess fr [va] .atomic 0
      let settled := (fr.v.reg b.toNat fr.u).getLsbD 0
      let count := if settled then u.num (key + 0x10) 4 + u.num (key + 0x18) 4 else u.num (key + 0x08) 4
      u.locate none fr.g.ctx va .load true = .ok key →
      (u.num key 4 ≤ count →
        ∃ w, exec (.baroWt hold d a b) s = .next ((u.finish fr w (.baroWt hold d a b)).heed fr.gid fr.wid fr.act u.nextOp) ∧
          fr.w.Result w d.toNat false fr.act (fun _ => word (BitVec.ofNat 32 (u.num (key + 0x28) 4))) (some 0x11) 0) ∧
      (count < u.num key 4 → exec (.baroWt hold d a b) s = .next (u.becomes fr (fr.w.setFrag fr.ent
        { fr.f with st := .waiting (.object d va settled (s.tick + modeTmo fr.v.mode)) })))

/-! ## Remote accesses and the causeway (06 R188 to R196) -/

namespace Sys2Proof.Machine

/-- What the rules say of an X instruction: its packet type, the bytes a slot accesses, the words it returns, its tag
checks, the data a slot sends, and the tags it writes at issue. -/
structure XRule where
  instr : Instr
  ptype : Nat
  bytes : Nat
  d : Reg
  words : Nat
  checks : List (Reg × (Byte → Bool))
  data : Frame → Nat → BitVec 128
  tag : View → Byte

/-- A slot's descriptor and offset lead somewhere: no reserved bits, xop only for xat, aligned; a device and a die with a
48-bit offset, or a present member of the gang and an offset in its window (06 R188). -/
abbrev InReach (s : State) (fr : Frame) (ptype bytes : Nat) (x : Word) (off : DWord) : Prop :=
  off.toNat % bytes = 0 ∧ x.getLsbD 31 = false ∧ x.extractLsb' 16 10 = 0 ∧ (x.extractLsb' 26 4).toNat < 7 ∧
    (ptype ≠ 4 → x.extractLsb' 26 4 = 0) ∧
    if x.getLsbD 30 = true then
      let m := (x.extractLsb' 0 16).toNat
      s.gangSize fr.g ≠ 1 ∧ m < s.gangSize fr.g ∧ off.toNat < fr.g.size * 4096 ∧ fr.g.attached = true ∧ m ∉ fr.g.gone ∧
        (m = fr.g.member → fr.g.present = true)
    else x.extractLsb' 9 3 < 4 ∧ x.extractLsb' 12 4 = 0 ∧ off.extractLsb' 48 16 = 0

/-- The 64 KiB block of an access: of the VA of a device's memory, or of the offset in a member's window. -/
def blockOf (x : Word) (off : DWord) : DWord :=
  if x.getLsbD 30 = true then off.extractLsb' 16 48 ++ 0#16
  else x.extractLsb' 0 9 ++ x.extractLsb' 9 3 ++ 0#4 ++ off.extractLsb' 16 32 ++ 0#16

/-- An X instruction whose participating slots all name one reachable target and one block, with a request slot, a route and
a port that is up for it and nothing of its group outstanding, sends one packet with an entry for each slot in ascending order, raises
ctr.xr, tags its registers and goes on. Memory does not change. -/
def XRule.Sends (r : XRule) (a b : Reg) : Prop :=
  ∀ (s : State) (fr : Frame) (desc : Word) (base : DWord) (k slot : Nat), Starts s fr r.instr →
    (r.checks ++ intTags [a] ++ pairTags b).all fr.look.ok = true →
    (r.ptype = 4 → (if (desc.extractLsb' 26 4).toNat ≤ 2 then intTags [r.d] else anyTags [r.d]).all fr.look.ok = true) →
    fr.part ≠ 0 → (slotsOf fr.part).length ≤ 32 →
    (∀ t ∈ slotsOf fr.part, fr.v.reg a.toNat t = desc ∧ InReach s fr r.ptype r.bytes desc (fr.v.pair b.toNat t) ∧
      blockOf desc (fr.v.pair b.toNat t) = base) →
    fr.w.ctr.xr ≠ 63 → (s.core fr.g.core).waitQ = [] → (∀ e ∈ s.ops, e.2.gid ≠ fr.gid ∧ e.1 < s.nextOp) →
    let target := s.descTarget fr.g desc
    let dev := target.1 % 512
    (s.core fr.g.core).freeSlot dev = some slot →
    chooseStrait fr.g.core dev (target.2 % 8) (s.egress s.dev.fabGen dev) = some k →
    ((s.switch k).route s.dev.fabGen dev).getLsbD 9 = true → (s.port k).down = false →
    ∃ (u : State) (w : Wave) (p : Packet), exec r.instr s = .next (u.finish fr w r.instr) ∧
      Issued fr.w w .xr r.d r.words (r.tag fr.look) ∧ u.mem = s.mem ∧ u.net = s.net ++ [p] ∧
      (u.core fr.g.core).reqs = (s.core fr.g.core).reqs ++ [{ dev := dev, slot := slot, op := s.nextOp, pkt := 0, strait := k }] ∧
      ((u.ops.look s.nextOp).map fun o => (o.gid, o.wave, o.ctr, o.accs.map (·.slot))) =
        some (fr.gid, fr.wid, some .xr, slotsOf fr.part) ∧
      p.ptype.toNat = r.ptype ∧ p.kind = desc.getLsbD 30 ∧ p.desc = desc ∧ p.base = base ∧ p.tdev.toNat = dev ∧
      (desc.getLsbD 30 = false → p.tdev = desc.extractLsb' 0 9 ∧ p.tdie = desc.extractLsb' 9 3) ∧
      p.sdev.toNat = s.dev.devnum % 512 ∧ p.score.toNat = fr.g.core % 2048 ∧ p.rslot.toNat = slot % 8 ∧
      (4 ≤ r.ptype → p.scope.toNat = modeScope fr.v.mode) ∧ (r.ptype = 4 → p.xop = desc.extractLsb' 26 4) ∧
      p.entries = (slotsOf fr.part).map fun t =>
        { off := (fr.v.pair b.toNat t).extractLsb' 0 16, data := r.data fr t, poison := false }

/-- With no participating slot it goes on. A cause in any slot traps the slots that have it, and no packet leaves. -/
def XRule.Otherwise (r : XRule) (a b : Reg) : Prop :=
  ∀ (s : State) (fr : Frame), Starts s fr r.instr → (r.checks ++ intTags [a] ++ pairTags b).all fr.look.ok = true →
    (fr.part = 0 → ∃ w : Wave, exec r.instr s = .next (s.finish fr w r.instr) ∧ { w with tags := fr.w.tags } = fr.w) ∧
    (fr.part = fr.act → fr.TrapsTo s → (r.ptype = 4 → (anyTags [r.d]).all fr.look.ok = true) →
      (∀ t ∈ slotsOf fr.act, (fr.v.pair b.toNat t).toNat % r.bytes ≠ 0 ∧
        (r.ptype = 4 → 2 < ((fr.v.reg a.toNat t).extractLsb' 26 4).toNat)) →
      exec r.instr s = .next (s.trapped fr fr.w .align 0 false (xAddr (fr.v.reg a.toNat fr.u) (fr.v.pair b.toNat fr.u))))

/-- The X instructions. -/
def xRules (hold : BitVec 2) (d a b : Reg) : List XRule :=
  let etype : View → Byte := fun v => modeEtype v.mode
  [ { instr := .xld hold d a b, ptype := 0, bytes := 4, d := d, words := 1, checks := [], data := fun _ _ => 0, tag := etype },
    { instr := .xldQ hold d a b, ptype := 1, bytes := 16, d := d, words := 4, checks := [], data := fun _ _ => 0, tag := etype },
    { instr := .xst hold d a b, ptype := 2, bytes := 4, d := d, words := 0, checks := [], data := fun fr => held fr d 1, tag := etype },
    { instr := .xstQ hold d a b, ptype := 3, bytes := 16, d := d, words := 0, checks := [], data := fun fr => held fr d 4, tag := etype },
    { instr := .xat hold d a b, ptype := 4, bytes := 4, d := d, words := 1, checks := [], data := fun fr => held fr d 1,
      tag := fun v => v.res d.toNat },
    { instr := .xcas hold d a b, ptype := 5, bytes := 4, d := d, words := 1, checks := anyTags [d], data := fun fr => held fr d 2,
      tag := fun v => v.res d.toNat } ]

end Sys2Proof.Machine

/-- (R188, R189, R190, R191, R352, R353.) Every X instruction sends its packet as its rule says. The cycle the handler
issues from is the model's choice (assumption log 63). -/
def Obligations.RemoteAccessesSend : Prop :=
  ∀ hold d a b, ∀ r ∈ xRules hold d a b, r.Sends a b ∧ r.Otherwise a b

namespace Sys2Proof.Machine

/-- A generic X request of another device whose entry leads to memory it may access is performed, and answered on its
strait: a load with its bytes, a store of its data, an atomic with the old value and the new one stored. -/
def RemoteRequestsArrive : Prop :=
  ∀ (s : State) (p : Packet) (e : PacketEntry) (key : Nat), s.about.pkt = some p → p.tdev.toNat = s.dev.devnum →
    p.sdev.toNat ≠ s.dev.devnum → packetForm p = true → p.ptype.toNat ≤ 5 → p.kind = false → p.entries = [e] →
    (s.port p.strait.toNat).down = false → s.xPlace p e = .ok key → s.accessHeld key = false → s.xPromoting p key = false →
    isScratch key = false →
    let n := if p.ptype = 1 ∨ p.ptype = 3 then 16 else 4
    s.poisonedIn key n = false → (s.retired key || s.linkLost key) = false → (s.die (vaDie p.base)).smp.ctl.getLsbD 0 = false →
    vaDie (BitVec.ofNat 64 ((p.base + e.off.setWidth 64).toNat / 128 * 128)) = vaDie p.base →
    ∃ (t : State) (q : Packet), exec .xRequestArrival s = .next t.wake.moved ∧ t.net = s.net ++ [q] ∧ q.ptype = 8 ∧
      q.refused = 0 ∧ q.strait = p.strait ∧ q.rslot = p.rslot ∧
      (p.ptype.toNat ≤ 1 → t.mem = s.mem ∧ q.entries.map (·.data) = [BitVec.ofNat 128 (s.num key n)]) ∧
      (p.ptype = 2 ∨ p.ptype = 3 → Stored s t key n e.data) ∧
      (p.ptype = 4 → ∀ f, (p.xop.toNat, f) ∈ [(0, AtomOp.add), (1, .min (p.tag = 0x10)), (2, .max (p.tag = 0x10)), (3, .and),
          (4, .or), (5, .xor), (6, .xch)] →
        q.entries.map (·.data) = [BitVec.ofNat 128 (s.num key 4)] ∧
        Stored s t key 4 ((atomicValue f (BitVec.ofNat 32 (s.num key 4)) (e.data.extractLsb' 0 32) 0).setWidth 128)) ∧
      (p.ptype = 5 → q.entries.map (·.data) = [BitVec.ofNat 128 (s.num key 4)] ∧
        Stored s t key 4 ((if BitVec.ofNat 32 (s.num key 4) = e.data.extractLsb' 0 32 then e.data.extractLsb' 32 32
          else BitVec.ofNat 32 (s.num key 4)).setWidth 128))

/-- A response without refusals gives its values to the slots of its packet and frees its request slot; the last response
of an instruction lowers ctr.xr. -/
def ResponsesAreAccepted : Prop :=
  ∀ (s : State) (p : Packet) (r : ReqSlot) (o : Op) (d : Reg) (n : Nat) (part : XPart) (w : Wave),
    s.about.pkt = some p → p.sdev.toNat = s.dev.devnum → p.tdev.toNat ≠ s.dev.devnum → p.ptype = 8 → p.refused = 0 →
    (s.port p.strait.toNat).down = false →
    (s.core p.score.toNat).reqs.find? (fun r => r.dev = p.tdev.toNat && r.slot = p.rslot.toNat && r.strait != 32) = some r →
    s.ops.look r.op = some o → o.kind = .remote d n [part] → r.pkt = 0 → part.slots.length = p.entries.length →
    part.pkt.entries.length = p.entries.length → part.slots.Nodup → (∀ t ∈ part.slots, t < 64) →
    p.entries.all (fun e => !e.poison) = true → n ∈ [0, 1, 4] → s.wave? o.gid o.wave = some w → maskOf part.slots &&& w.alive = maskOf part.slots →
    ∃ (t : State) (w' : Wave), exec .xResponseAccept s = .next t.wake.moved ∧ t.wave? o.gid o.wave = some w' ∧
      (∀ k x, w'.reg k x = match (part.slots.zip p.entries).find? (fun y => y.1 = x) with
        | some y => if k ≠ 0 ∧ d.toNat ≤ k ∧ k < d.toNat + n then y.2.data.extractLsb' (32 * (k - d.toNat)) 32 else w.reg k x
        | none => w.reg k x) ∧
      t.ops.look r.op = none ∧
      (∀ c, w'.ctr.get c = if o.ctr = some c ∧ w.ctr.get c ≠ 0 then w.ctr.get c - 1 else w.ctr.get c) ∧ t.mem = s.mem ∧
      r ∉ (t.core p.score.toNat).reqs

end Sys2Proof.Machine

/-- (R191, R192, R355, R356, R385.) A generic X request of another device whose entry leads to memory it may access is
performed, and answered on its strait: a load with its bytes, a store of its data, an atomic with the old value and
the new one stored. A response without refusals gives its values to the slots of its packet and frees its request
slot; the last response of an instruction lowers ctr.xr. At its target an X access of a context is made without
privilege, which is the model's reading (assumption log 69). That the signedness of a minimum or maximum travels as
the tag of the packet is the model's choice (assumption log 26). -/
def Obligations.RemoteRequestsAndResponses : Prop :=
  Sys2Proof.Machine.RemoteRequestsArrive ∧ Sys2Proof.Machine.ResponsesAreAccepted

/-- (R193, R194, R195, R196.) cwdet and cwleave of a gang member with nothing outstanding clear its attached state and
go on, and cwleave withdraws its window too. cwxch sends the half of an exchange and waits for its partner's; where
its partner's half is there already, it has the partner's values in the slots of both and the partner's tag. Outside
gangs all three raise XPEER. That cwxch checks no tag of its key (assumption log 70) and the cycle the handler issues
from (assumption log 63) are the model's choices. -/
def Obligations.CausewayInstructions : Prop :=
  ∀ (s : State) (fr : Frame) (hold : BitVec 2) (d a b : Reg),
    (∀ i leave, (i = .cwdet hold ∧ leave = false ∨ i = .cwleave hold ∧ leave = true) → Starts s fr i →
      (s.gangSize fr.g = 1 → fr.TrapsTo s → exec i s = .next (s.trapped fr fr.w .xpeer 0 false 0)) ∧
      (s.gangSize fr.g ≠ 1 → s.ops = [] → fr.Quiet → (∀ g, (fr.gid, g) ∈ s.groups → g.held = false) → fr.g.attached = true → fr.g.present = true →
        ∃ (t : State) (g : Group), exec i s = .next t ∧ t.groups.look fr.gid = some g ∧ g.attached = false ∧
          g.present = !leave ∧
          g.waves.look fr.wid = some (fr.w.setFrag fr.ent (fr.fragAt (pcPlus fr.f.pc 1) fr.act fr.f.link s.cycle)))) ∧
    (Starts s fr (.cwxch hold d a b) → (intTags [a]).all fr.look.ok = true →
      let x := fr.v.reg a.toNat fr.u
      let m := (x.extractLsb' 0 16).toNat
      let dev := (s.descTarget fr.g x).1 % 512
      let die := (s.descTarget fr.g x).2 % 8
      (s.gangSize fr.g = 1 → fr.TrapsTo s → exec (.cwxch hold d a b) s = .next (s.trapped fr fr.w .xpeer 0 false (x ++ 0#32))) ∧
      ∀ k slot, (∀ t ∈ slotsOf fr.act, fr.v.reg a.toNat t = x) → x.extractLsb' 30 2 = 1 → x.extractLsb' 16 14 = 0 →
        m < s.gangSize fr.g → s.gangSize fr.g ≠ 1 → m ≠ fr.g.member → fr.g.attached = true → m ∉ fr.g.gone → s.ops = [] →
        (s.core fr.g.core).freeSlot dev = some slot →
        chooseStrait fr.g.core dev die (s.egress s.dev.fabGen dev) = some k →
        ((s.switch k).route s.dev.fabGen dev).getLsbD 9 = true → (s.port k).down = false →
        (∀ (q : Packet) (val : Nat → Word), (s.core fr.g.core).pairs = [q] → q.key = (fr.v.reg b.toNat fr.u).extractLsb' 0 16 →
          s.groups.look fr.gid = some fr.g → q.sdev.toNat ≠ s.dev.devnum → s.isTarget q fr.g = true →
          s.halfSender q fr.g = m → q.entries = (slotsOf fr.act).map (fun t =>
            { off := BitVec.ofNat 16 t, data := (val t).setWidth 128, poison := false }) → fr.act &&& fr.w.alive = fr.act →
          ∃ (t : State) (w : Wave), exec (.cwxch hold d a b) s = .next t ∧ t.wave? fr.gid fr.wid = some w ∧
            t.ops.look s.nextOp = none ∧ (t.core fr.g.core).pairs = [] ∧ t.mem = s.mem ∧
            (∀ n j, j < 64 → w.reg n j = if d ≠ 0 ∧ n = d.toNat ∧ inMask fr.act j = true then val j else fr.w.reg n j) ∧
            ∀ n, w.tag n = if d ≠ 0 ∧ n = d.toNat then q.tag else fr.w.tag n) ∧
        ((s.core fr.g.core).pairs = [] → ∃ (t : State) (p : Packet) (w : Wave), exec (.cwxch hold d a b) s = .next t ∧ t.net = s.net ++ [p] ∧ p.ptype = 6 ∧
          p.key = (fr.v.reg b.toNat fr.u).extractLsb' 0 16 ∧ p.tag = fr.look.res d.toNat ∧
          p.entries = (slotsOf fr.act).map (fun t =>
            { off := BitVec.ofNat 16 t, data := (fr.v.reg d.toNat t).setWidth 128, poison := false }) ∧
          t.wave? fr.gid fr.wid = some w ∧
          w = fr.w.setFrag fr.ent { fr.f with st := .waiting (.exchange s.nextOp) } ∧ t.mem = s.mem))

/-! ## The matrix side (07 R197 to R215) -/

namespace Sys2Proof.Machine

/-- The matrix side takes an entry for a group: the group holds it, no earlier entry writes one of the tiles (slots 0 to
3, accumulators 4 to 7), the queue has room, ctr.tl is below 63, and the release of the wave's accesses is made. -/
abbrev TilesFree (s : State) (fr : Frame) (tiles : List Nat) : Prop :=
  let m := (s.core fr.g.core).mat
  m.holder = some fr.gid ∧ m.queue.all (fun e => !tiles.contains e.work.writes) = true ∧ m.queue.length < 64 ∧
    fr.w.ctr.tl ≠ 63 ∧ s.releaseAt fr.gid fr.wid (BitVec.allOnes 64) 4 = some s

/-- The state with one more entry in the matrix queue, whose instruction goes on: an outstanding operation of slot u for
the pages of some addresses, ctr.tl one higher, the entry last. -/
def State.queued (s : State) (fr : Frame) (i : Instr) (work : MWork) (vas : List Nat) : State :=
  ((s.pushOp (s.engineOp fr .tl .tile vas)).onCore fr.g.core fun c =>
    { c with mat := { c.mat with
        queue := c.mat.queue ++ [{ gid := fr.gid, wave := fr.wid, ctx := fr.g.ctx, op := s.nextOp, work := work }] } }).finish fr
    { fr.w with ctr := { fr.w.ctr with tl := fr.w.ctr.tl + 1 } } i

/-- A float format an mma may read as activations; FP32 too. -/
def matFloat (t : Byte) : Bool := isPk16 t || isB8 t

/-- An integer format an mma multiplies. -/
def matInt (t : Byte) : Bool := isI8 t || isI4 t

/-- Each tile instruction of the group that holds the matrix side queues its work and goes on: an image load, an emptied
slot, a product of the rows of the participating slots in formats that fit, zeroed rows, an accumulator saved or restored,
a drain of rows, a scale. -/
def TileInstructionsQueue : Prop :=
  ∀ (s : State) (fr : Frame) (hold : BitVec 2) (tile a sel : BitVec 7),
    let va := fr.v.pair a.toNat fr.u
    let keys : Nat → AccKind → List Nat := fun n k => s.unitKeys (some fr.g.core) fr.g.ctx va n 16 k fr.priv
    let free : Nat → AccKind → Prop := fun n k => s.rangeCause (some fr.g.core) fr.g.ctx va n k fr.priv = none
    let rows : Nat → (Nat → Nat) → Prop := fun n key => (intTags [a]).all fr.look.ok = true ∧
      ∀ t ∈ slotsOf fr.part, s.scratch fr.g (fr.v.reg a.toNat t) 16 n true = .ok (key t) ∧
        scratchCore fr.g.core (fr.v.reg a.toNat t) = some fr.g.core
    let rowList : (Nat → Nat) → List RowAt := fun key => (slotsOf fr.part).map fun t => { slot := t, key := key t }
    (Starts s fr (.wbld hold tile a) → TilesFree s fr [tile.toNat] → (pairTags a).all fr.look.ok = true → va.toNat % 16 = 0 →
      free 32 .load → s.cellsFree (keys 32 .load) = true →
      let h := s.readUnits (keys 32 .load)
      let n := 32 + min (numOf ((h.drop 8).take 4)) 32768
      free n .load → exec (.wbld hold tile a) s = .next ((s.noteAccess fr (linesIn va n) .load 0).queued fr (.wbld hold tile a)
        (.wbld tile.toNat h ((keys 32 .load).any s.poisoned) ((keys ((n + 15) / 16 * 16) .load).drop 2)) (pageNats va n))) ∧
    (Starts s fr (.wbz hold tile) → TilesFree s fr [tile.toNat] →
      exec (.wbz hold tile) s = .next (s.queued fr (.wbz hold tile) (.wbz tile.toNat) [])) ∧
    (∀ key, Starts s fr (.mma hold tile a sel) → TilesFree s fr [4 + tile.toNat, sel.toNat] → fr.part ≠ 0 →
      let w := (s.core fr.g.core).mat.slots.lookD sel.toNat WSlot.empty
      let fa := modeEtype fr.v.mode
      (matInt fa = true ∧ matInt w.tag = true) ∨ ((fa = 0x20 ∨ matFloat fa = true) ∧ matFloat w.tag = true) →
      rows (w.k * ((elemOf fa).map Elem.bits).getD 8 / 8) key →
      exec (.mma hold tile a sel) s =
        .next (s.queued fr (.mma hold tile a sel) (.mma tile.toNat sel.toNat fa (rowList key)) [])) ∧
    (Starts s fr (.accz hold tile) → TilesFree s fr [4 + tile.toNat] → fr.part ≠ 0 →
      exec (.accz hold tile) s = .next (s.queued fr (.accz hold tile) (.accz tile.toNat fr.part) [])) ∧
    (Starts s fr (.accsv hold tile a) → TilesFree s fr [4 + tile.toNat] → (pairTags a).all fr.look.ok = true →
      va.toNat % 64 = 0 → free 41024 .store → exec (.accsv hold tile a) s =
        .next ((s.noteAccess fr (linesIn va 41024) .store 1).queued fr (.accsv hold tile a)
          (.accsv tile.toNat (keys 41024 .store)) (pageNats va 41024))) ∧
    (Starts s fr (.accrs hold tile a) → TilesFree s fr [4 + tile.toNat] → (pairTags a).all fr.look.ok = true →
      va.toNat % 64 = 0 → free 41024 .load → exec (.accrs hold tile a) s =
        .next ((s.noteAccess fr (linesIn va 41024) .load 0).queued fr (.accrs hold tile a)
          (.accrs tile.toNat (keys 41024 .load)) (pageNats va 41024))) ∧
    (∀ key, Starts s fr (.tdrain hold tile a) → TilesFree s fr [4 + tile.toNat] → fr.part ≠ 0 →
      ∀ e, elemOf (modeEtype fr.v.mode) = some e → rows (8 * e.bits) key →
      exec (.tdrain hold tile a) s = .next (s.queued fr (.tdrain hold tile a)
        (.tdrain tile.toNat (modeEtype fr.v.mode) fr.v.mode (rowList key)) [])) ∧
    (Starts s fr (.tscale hold tile a sel) → TilesFree s fr [if sel = 0 then tile.toNat else 4 + tile.toNat] →
      exec (.tscale hold tile a sel) s = .next (s.queued fr (.tscale hold tile a sel)
        (.tscale sel.toNat tile.toNat ((fr.v.reg a.toNat fr.u).extractLsb' 0 8)) []))

/-- histrd gives bin t mod 32 of the tile's histogram to each participating slot, tagged U32; histz clears the histogram.
Both act at once, and neither changes anything else of the matrix side. -/
def HistogramInstructions : Prop :=
  ∀ (s : State) (fr : Frame) (hold : BitVec 2) (d tile : BitVec 7),
    let m := (s.core fr.g.core).mat
    m.holder = some fr.gid →
    (Starts s fr (.histrd hold d tile) →
      ∃ w, exec (.histrd hold d tile) s = .next (s.finish fr w (.histrd hold d tile)) ∧
        fr.w.Result w d.toNat false fr.part (fun t => word ((m.hists.lookD tile.toNat []).lookD (t % 32) 0)) (some 0x11) 0) ∧
    (Starts s fr (.histz hold tile) →
      ∃ u : State, exec (.histz hold tile) s = .next (u.finish fr fr.w (.histz hold tile)) ∧
        u = s.onCore fr.g.core (fun c => { c with mat := (u.core fr.g.core).mat }) ∧
        (u.core fr.g.core).mat = { m with hists := (u.core fr.g.core).mat.hists } ∧
        ∀ k, (u.core fr.g.core).mat.hists.lookD k [] = if k = tile.toNat then [] else m.hists.lookD k [])

/-- A tile instruction of a group that does not hold the matrix side traps with ILL (07 R198). -/
def TilesNeedTheMatrixSide : Prop :=
  ∀ (s : State) (fr : Frame) (i : Instr) (hold : BitVec 2) (tile a sel : BitVec 7),
    i ∈ [Instr.wbld hold tile a, .wbz hold tile, .mma hold tile a sel, .accz hold tile, .accsv hold tile a, .accrs hold tile a,
      .tdrain hold tile a, .tscale hold tile a sel, .histrd hold a tile, .histz hold tile] →
    Starts s fr i → fr.TrapsTo s → (s.core fr.g.core).mat.holder ≠ some fr.gid →
    exec i s = .next (s.trapped fr fr.w .ill 0 false 0)

end Sys2Proof.Machine

/-- (R197, R198, R199, R200, R202, R205, R208, R212, R213, R214, R215, R222.) Each tile instruction of the group that
holds the matrix side queues its work and goes on: an image load, an emptied slot, a product of the rows of the
participating slots in formats that fit, zeroed rows, an accumulator saved or restored, a drain of rows, a scale.
histrd gives bin t mod 32 of the tile's histogram to each participating slot, tagged U32; histz clears the histogram.
Both act at once, and neither changes anything else of the matrix side. A tile instruction of a group that does not
hold the matrix side traps with ILL (07 R198). The cycle the handler issues from is the model's choice (assumption log
63). -/
def Obligations.TileInstructions : Prop :=
  Sys2Proof.Machine.TileInstructionsQueue ∧
    Sys2Proof.Machine.HistogramInstructions ∧
    Sys2Proof.Machine.TilesNeedTheMatrixSide

namespace Sys2Proof.Machine

/-- The oldest entry of a core's matrix queue runs: its work is what the event names, and its group is still there. -/
abbrev RunsEntry (s : State) (e : MEntry) (rest : List MEntry) : Prop :=
  let m := (s.core s.about.core).mat
  m.queue = e :: rest ∧ m.discard = false ∧ (∃ g, m.holder = some g ∧ (s.groups.look g).isSome = true)

/-- The entry has left the queue, and its operation is over. -/
def EntryGone (s t : State) (e : MEntry) (rest : List MEntry) : Prop :=
  (t.core s.about.core).mat.queue = rest ∧ t.ops.look e.op = none

/-- A slot of a matrix side. -/
def slotIn (s : State) (k : Nat) : WSlot := (s.core s.about.core).mat.slots.lookD k WSlot.empty

/-- An accumulator of a matrix side. -/
def accIn (s : State) (k : Nat) : Accum := (s.core s.about.core).mat.accs.lookD k Accum.zero

/-- Element (row, column) of an accumulator. -/
def elemIn (a : Accum) (i n : Nat) : BitVec 80 := a.elems.lookD (64 * i + n) 0

/-- An accumulator has the exponents and the poison of another. -/
def sameExponents (a b : Accum) : Prop := a.scale = b.scale ∧ a.act = b.act ∧ a.poison = b.poison

/-- The slots of rows whose product or drain met poison are dead; the wave that issued it, which keeps other slots, has its
registers. -/
def RowsDie (s t : State) (e : MEntry) (rows : List RowAt) : Prop :=
  ∀ w, s.wave? e.gid e.wave = some w → (∀ r ∈ rows, r.slot < 64) → w.alive &&& ~~~maskOf (rows.map (·.slot)) ≠ 0 →
    ∃ w' : Wave, t.wave? e.gid e.wave = some w' ∧ w'.live = w.live &&& ~~~(maskOf (rows.map (·.slot)) &&& w.alive) ∧
      w'.exited = w.exited ∧ w'.regs = w.regs

/-- Every slot and every accumulator but some is as it was. -/
def OtherTiles (s t : State) (slots accs : List Nat) : Prop :=
  (∀ k, k ∉ slots → (t.core s.about.core).mat.slots.lookD k WSlot.empty = (s.core s.about.core).mat.slots.lookD k WSlot.empty) ∧
    ∀ k, k ∉ accs → (t.core s.about.core).mat.accs.lookD k Accum.zero = (s.core s.about.core).mat.accs.lookD k Accum.zero

end Sys2Proof.Machine

/-- (R199, R200, R203, R204, R209, R212, R213, R214.) The entries of the matrix queue: a loaded slot holds its image;
wbz empties a slot; a product adds, block by block of 32, the row's activations times the slot's weights to each
element of the participating rows; accz zeroes its rows, and all of them clear the poison; accsv stores the image,
header and elements, poisoned where the accumulator is, and accrs reads it back; a drain stores every row packed in
its format, counts its values in the histogram and adds its flags; a product or a drain that meets poison kills the
slots of its rows and changes nothing else; tscale sets the scale or the activation exponent it names. The sum of a
block of zero products is the model's choice (assumption log 85). -/
def Obligations.MatrixEntriesComplete : Prop :=
  ∀ (s : State) (e : MEntry) (rest : List MEntry), RunsEntry s e rest →
    (∀ k h bad keys, e.work = .wbld k h bad keys → s.cellsFree keys = true →
      ∃ t : State, exec .wbldEntryDone s = .next t.wake.moved ∧ EntryGone s t e rest ∧ OtherTiles s t [k] [] ∧ t.mem = s.mem ∧
        (t.core s.about.core).mat.slots.lookD k WSlot.empty =
          slotOf h ((s.readUnits keys).take (min (numOf ((h.drop 8).take 4)) 32768)) (bad || keys.any s.poisoned)) ∧
    (∀ k, e.work = .wbz k →
      ∃ t : State, exec .wbzEntryDone s = .next t.wake.moved ∧ EntryGone s t e rest ∧ OtherTiles s t [k] [] ∧ t.mem = s.mem ∧
        (t.core s.about.core).mat.slots.lookD k WSlot.empty = WSlot.empty) ∧
    (∀ a k fmt rows es, e.work = .mma a k fmt rows → (slotIn s k).poison = false → (accIn s a).poison = false →
      (slotIn s k).elements = some es →
      ∃ t : State, exec .mmaEntryDone s = .next t.wake.moved ∧ EntryGone s t e rest ∧ OtherTiles s t [] [a] ∧ t.mem = s.mem ∧
        sameExponents ((t.core s.about.core).mat.accs.lookD a Accum.zero) (accIn s a) ∧
        ∀ i n, i < 64 → n < 64 →
          elemIn ((t.core s.about.core).mat.accs.lookD a Accum.zero) i n =
            match rows.find? fun r => r.slot = i with
            | none => elemIn (accIn s a) i n
            | some r =>
              let fa := (elemOf fmt).getD (.int 8 false)
              let fb := (elemOf (slotIn s k).tag).getD (.int 8 false)
              let act := unpackBits fa.bits (s.bytes r.key ((slotIn s k).k * fa.bits / 8))
              BitVec.ofNat 80 ((List.range ((slotIn s k).k / 32)).foldl (fun c j =>
                accBlock c ((accIn s a).act.toInt + (slotIn s k).scale.toInt - (accIn s a).scale.toInt)
                  ((List.range 32).map fun x =>
                    (fa.read (act.getD (32 * j + x) 0), fb.read (es.getD (64 * (32 * j + x) + n) 0))))
                (elemIn (accIn s a) i n).toNat)) ∧
    (∀ a k fmt rows w, e.work = .mma a k fmt rows → (slotIn s k).poison = true ∨ (accIn s a).poison = true →
      s.wave? e.gid e.wave = some w → w.alive &&& ~~~maskOf (rows.map (·.slot)) ≠ 0 →
      ∃ t : State, exec .mmaEntryDone s = .next t.wake.moved ∧ EntryGone s t e rest ∧ OtherTiles s t [] [] ∧ RowsDie s t e rows) ∧
    (∀ a rows, e.work = .accz a rows →
      ∃ t : State, exec .acczEntryDone s = .next t.wake.moved ∧ EntryGone s t e rest ∧ OtherTiles s t [] [a] ∧ t.mem = s.mem ∧
        (let b := (t.core s.about.core).mat.accs.lookD a Accum.zero
         b.scale = (accIn s a).scale ∧ b.act = (accIn s a).act ∧
           b.poison = ((accIn s a).poison && decide (rows ≠ BitVec.allOnes 64))) ∧
        ∀ i n, i < 64 → n < 64 → elemIn ((t.core s.about.core).mat.accs.lookD a Accum.zero) i n =
          if inMask rows i = true then 0 else elemIn (accIn s a) i n) ∧
    (∀ a keys, e.work = .accsv a keys → s.cellsFree keys = true →
      ∃ t : State, exec .accsvEntryDone s = .next t.wake.moved ∧ EntryGone s t e rest ∧ OtherTiles s t [] [] ∧
        (keys = (List.range 2564).map (fun j => keys.headD 0 + 16 * j) →
          (∀ k ∈ keys, isScratch k = false ∧ (s.retired k || s.linkLost k) = false) →
          (∀ i n j, i < 64 → n < 64 → j < 10 →
            t.byte (keys.headD 0 + 64 + 10 * (64 * i + n) + j) = (elemIn (accIn s a) i n).extractLsb' (8 * j) 8) ∧
          (∀ j, j < 64 → t.byte (keys.headD 0 + j) =
            if j = 0 then 0x70 else if j = 1 then (accIn s a).scale else if j = 2 then (accIn s a).act else 0) ∧
          ((accIn s a).poison = true → ∀ k ∈ keys, t.poisoned k = true))) ∧
    (∀ a keys, e.work = .accrs a keys → s.cellsFree keys = true →
      ∃ t : State, exec .accrsEntryDone s = .next t.wake.moved ∧ EntryGone s t e rest ∧ OtherTiles s t [] [a] ∧ t.mem = s.mem ∧
        (keys = (List.range 2564).map (fun j => keys.headD 0 + 16 * j) →
          let b := (t.core s.about.core).mat.accs.lookD a Accum.zero
          b.scale = s.byte (keys.headD 0 + 1) ∧ b.act = s.byte (keys.headD 0 + 2) ∧ b.poison = keys.any s.poisoned ∧
            ∀ i n, i < 64 → n < 64 →
              elemIn b i n = BitVec.ofNat 80 (numOf (s.bytes (keys.headD 0 + 64 + 10 * (64 * i + n)) 10)))) ∧
    (∀ a fmt mode rows, e.work = .tdrain a fmt mode rows → (accIn s a).poison = false → (∀ r ∈ rows, isScratch r.key = true) →
      ∃ t : State, exec .tdrainEntryDone s = .next t.wake.moved ∧ EntryGone s t e rest ∧ OtherTiles s t [] [] ∧
        ∀ w f, elemOf fmt = some f → s.wave? e.gid e.wave = some w →
          let rnd : Round := { rnd := modeRnd mode, sat := modeSat mode, ftz := modeFtz mode }
          let value : RowAt → Nat → Val := fun r n =>
            (Fmt.acc80.read (elemIn (accIn s a) r.slot n).toNat).scale (accIn s a).scale.toInt
          let out : RowAt → Nat → Res := fun r n => drainElem f rnd (value r n)
          let bytes := 8 * f.bits
          (∀ before r after, rows = before ++ r :: after → (∀ q ∈ after, q.key + bytes ≤ r.key ∨ r.key + bytes ≤ q.key) →
            ∀ n, n < 64 → t.num r.key bytes / 2 ^ (f.bits * n) % 2 ^ f.bits = (out r n).bits % 2 ^ f.bits) ∧
          (∀ k, (∀ r ∈ rows, ¬(r.key ≤ k ∧ k < r.key + bytes)) → t.byte k = s.byte k) ∧
          (∀ x, (((t.core s.about.core).mat.hists.lookD a []).lookD x 0).toNat =
            min 0xFFFFFFFF ((((s.core s.about.core).mat.hists.lookD a []).lookD x 0).toNat +
              (rows.map fun r => (List.range 64).countP fun n => histBin (value r n) = x).sum)) ∧
          ∃ w' : Wave, t.wave? e.gid e.wave = some w' ∧ ∀ b, b < 5 → w'.stat.getLsbD b =
            (w.stat.getLsbD b || rows.any fun r => (List.range 64).any fun n => (out r n).flags.getLsbD b)) ∧
    (∀ a fmt mode rows w, e.work = .tdrain a fmt mode rows → (accIn s a).poison = true → s.wave? e.gid e.wave = some w →
      w.alive &&& ~~~maskOf (rows.map (·.slot)) ≠ 0 →
      ∃ t : State, exec .tdrainEntryDone s = .next t.wake.moved ∧ EntryGone s t e rest ∧ OtherTiles s t [] [] ∧
        RowsDie s t e rows) ∧
    ∀ sel k x, e.work = .tscale sel k x →
      ∃ t : State, exec .tscaleEntryDone s = .next t.wake.moved ∧ EntryGone s t e rest ∧ t.mem = s.mem ∧
        (sel = 0 → OtherTiles s t [k] [] ∧ (t.core s.about.core).mat.slots.lookD k WSlot.empty = { slotIn s k with scale := x }) ∧
        (sel = 1 → OtherTiles s t [] [k] ∧ (t.core s.about.core).mat.accs.lookD k Accum.zero = { accIn s k with scale := x }) ∧
        (sel = 2 → OtherTiles s t [] [k] ∧ (t.core s.about.core).mat.accs.lookD k Accum.zero = { accIn s k with act := x })

/-! ## The copy engine (07 R216 to R221) -/

namespace Sys2Proof.Machine

/-- Everything a copy of slot u accesses it may access: addresses aligned to 16 bytes, ranges without a cause; ctr.cp is
below 63 and the release of the wave's accesses is made. -/
abbrev CopyFree (s : State) (fr : Frame) (bases : List DWord) (ends : List (DWord × Nat × AccKind)) : Prop :=
  (∀ x ∈ bases, x.toNat % 16 = 0) ∧ (∀ e ∈ ends, s.copyCause fr e.1 e.2.1 e.2.2 = none) ∧ fr.w.ctr.cp ≠ 63 ∧
    s.releaseAt fr.gid fr.wid (BitVec.allOnes 64) 4 = some s

/-- The state with a copy outstanding, whose instruction goes on with ctr.cp one higher. -/
def State.copying (s : State) (fr : Frame) (i : Instr) (ends : List (DWord × Nat × AccKind)) (kind : OpKind) : State :=
  ((s.noteCopy fr ends).pushOp (s.engineOp fr .cp kind (ends.flatMap fun e =>
    if isCopyScratch e.1 then [e.1.toNat] else pageNats e.1 e.2.1))).finish fr
    { fr.w with ctr := { fr.w.ctr with cp := fr.w.ctr.cp + 1 } } i

/-- One end of a copy: its units of 16 bytes, row by row. -/
def State.copyEnd (s : State) (fr : Frame) (x : DWord) (rows : List (DWord × Nat × AccKind)) : CopyEnd :=
  { scratch := isCopyScratch x, units := rows.flatMap fun e => s.copyUnits fr e.1 e.2.1 e.2.2 }

/-- cpy, cpy2d and cpfill of slot u with a length that fits become one outstanding copy and go on; a length of 0 copies
nothing; a length that is no multiple of 16 raises ALIGN. -/
def CopiesIssue : Prop :=
  ∀ (s : State) (fr : Frame) (hold : BitVec 2) (d a b : Reg),
    let dst := fr.v.pair d.toNat fr.u
    let src := fr.v.pair a.toNat fr.u
    let n := (fr.v.reg b.toNat fr.u).toNat
    let ends := [(dst, n, AccKind.store), (src, n, AccKind.load)]
    (Starts s fr (.cpy hold d a b) → (pairTags d ++ pairTags a ++ intTags [b]).all fr.look.ok = true →
      (∀ x ∈ [dst, src], x.toNat % 16 = 0) → (∀ e ∈ ends, s.copyCause fr e.1 e.2.1 e.2.2 = none) →
      (n = 0 → exec (.cpy hold d a b) s = .next (s.finish fr fr.w (.cpy hold d a b))) ∧
      (n % 16 ≠ 0 → fr.act = slotBit fr.u → fr.TrapsTo s →
        exec (.cpy hold d a b) s = .next (s.trapped fr fr.w .align 0 false 0)) ∧
      (n ≠ 0 → n % 16 = 0 → CopyFree s fr [dst, src] ends → exec (.cpy hold d a b) s = .next (s.copying fr (.cpy hold d a b) ends
        (.copy (n / 16) (s.copyEnd fr src [(src, n, .load)]) (s.copyEnd fr dst [(dst, n, .store)]))))) ∧
    (Starts s fr (.cpfill hold d a b) → (pairTags d ++ intTags [b]).all fr.look.ok = true → n ≠ 0 → n % 16 = 0 →
      CopyFree s fr [dst] [(dst, n, .store)] → exec (.cpfill hold d a b) s = .next (s.copying fr (.cpfill hold d a b)
        [(dst, n, .store)] (.fill (fr.v.reg a.toNat fr.u) (s.copyEnd fr dst [(dst, n, .store)])))) ∧
    (Starts s fr (.cpy2d hold d a b) →
      (pairTags d ++ pairTags a ++ intTags [b, b + 1, b + 2, b + 3]).all fr.look.ok = true →
      let word : Nat → Nat := fun j => if b = 0 then 0 else (fr.v.reg (b.toNat + j) fr.u).toNat
      let rows : DWord → Nat → AccKind → List (DWord × Nat × AccKind) := fun x pitch k =>
        (List.range (word 1)).map fun r => (x + BitVec.ofNat 64 (r * pitch), word 0, k)
      word 1 ≤ 65535 → word 0 % 16 = 0 → word 2 % 16 = 0 → word 3 % 16 = 0 →
      (word 0 = 0 ∨ word 1 = 0 → (∀ x ∈ [dst, src], x.toNat % 16 = 0) → s.copyCause fr dst 0 .store = none →
        s.copyCause fr src 0 .load = none → exec (.cpy2d hold d a b) s = .next (s.finish fr fr.w (.cpy2d hold d a b))) ∧
      (word 0 ≠ 0 → word 1 ≠ 0 → CopyFree s fr [dst, src] (rows dst (word 3) .store ++ rows src (word 2) .load) →
      exec (.cpy2d hold d a b) s = .next (s.copying fr (.cpy2d hold d a b)
        (rows dst (word 3) .store ++ rows src (word 2) .load)
        (.copy (word 0 / 16) (s.copyEnd fr src (rows src (word 2) .load)) (s.copyEnd fr dst (rows dst (word 3) .store))))))

/-- The byte o of unit j of one end of a copy. -/
def unitByte (s : State) (e : CopyEnd) (j o : Nat) : Byte := s.byte ((e.units.getD j (0, 0)).2 + o)

/-- COPY_COMPLETE of a copy whose units are apart, not poisoned and stored to cells that keep them gives every unit of the
destination the bytes of the source's; a fill gives them its pattern. Every other byte is as it was, the operation is over
and its counter drops. -/
def CopiesComplete : Prop :=
  ∀ (s : State) (o : Op) (w : Wave), s.ops.look s.about.op = some o → o.void = false → s.wave? o.gid o.wave = some w →
    let ended : State → Prop := fun t => t.ops.look s.about.op = none ∧ ∃ w' : Wave, t.wave? o.gid o.wave = some w' ∧
      w'.regs = w.regs ∧ ∀ c, w'.ctr.get c = if o.ctr = some c ∧ w.ctr.get c ≠ 0 then w.ctr.get c - 1 else w.ctr.get c
    let keeps : CopyEnd → Prop := fun e => (e.units.map (·.2)).Nodup ∧ (∀ x ∈ e.units, x.2 % 16 = 0) ∧
      ∀ x ∈ e.units, isScratch x.2 = false → (s.retired x.2 || s.linkLost x.2) = false
    (∀ row n src dst, o.kind = .copy row src dst → 0 < row → src.units.length = n * row → dst.units.length = n * row →
      s.cellsFree ((src.units ++ dst.units).map (·.2)) = true → keeps dst → (∀ x ∈ src.units, x.2 % 16 = 0) →
      (∀ x ∈ src.units, ∀ y ∈ dst.units, x.2 ≠ y.2) → (∀ x ∈ src.units, s.poisoned x.2 = false) →
      ∃ t : State, exec .copyComplete s = .next t.wake.moved ∧ ended t ∧
        (∀ j o, j < n * row → o < 16 → t.byte ((dst.units.getD j (0, 0)).2 + o) = unitByte s src j o) ∧
        ∀ k, (∀ x ∈ dst.units, ¬(x.2 ≤ k ∧ k < x.2 + 16)) → t.byte k = s.byte k) ∧
    ∀ x dst, o.kind = .fill x dst → s.cellsFree (dst.units.map (·.2)) = true → keeps dst →
      ∃ t : State, exec .copyComplete s = .next t.wake.moved ∧ ended t ∧
        (∀ j o, j < dst.units.length → o < 16 →
          t.byte ((dst.units.getD j (0, 0)).2 + o) = x.extractLsb' (8 * (o % 4)) 8) ∧
        ∀ k, (∀ x ∈ dst.units, ¬(x.2 ≤ k ∧ k < x.2 + 16)) → t.byte k = s.byte k

end Sys2Proof.Machine

/-- (R216, R217, R218, R219, R220.) cpy, cpy2d and cpfill of slot u with a length that fits become one outstanding
copy and go on; a length of 0 copies nothing; a length that is no multiple of 16 raises ALIGN. COPY_COMPLETE of a copy
whose units are apart, not poisoned and stored to cells that keep them gives every unit of the destination the bytes
of the source's; a fill gives them its pattern. Every other byte is as it was, the operation is over and its counter
drops. A copy reads and writes at the moment it completes (assumption log 71). The cycle the handler issues from is
the model's choice (assumption log 63). -/
def Obligations.Copies : Prop :=
  Sys2Proof.Machine.CopiesIssue ∧ Sys2Proof.Machine.CopiesComplete

namespace Sys2Proof.Machine

/-- cprt whose record, source rows and region may be accessed becomes an outstanding layout copy that holds the record and the
cells of its source's lines. -/
def LayoutCopiesIssue : Prop :=
  ∀ (s : State) (fr : Frame) (hold : BitVec 2) (a b : Reg) (key : Nat), Starts s fr (.cprt hold a b) →
    (pairTags a ++ pairTags b).all fr.look.ok = true →
    let va := fr.v.pair a.toNat fr.u
    let h := s.bytes key 64
    let n := shapeCols h * shapeElem h
    let rows := (List.range (shapeRows h)).map fun r => fr.v.pair b.toNat fr.u + BitVec.ofNat 64 (r * shapeWord h 0x10)
    va.toNat % 64 = 0 → s.copyCause fr va 64 .store = none → ((s.copyUnits fr va 64 .store).map (·.2)).headD 0 = key →
    s.cellsFree [key] = true → (∀ x ∈ rows, s.copyCause fr x n .load = none) →
    s.rangeCause (some fr.g.core) fr.g.ctx (BitVec.ofNat 64 (shapeDouble h 0x18)) (shapeDouble h 0x20) .store fr.priv = none →
    fr.w.ctr.cp ≠ 63 → s.releaseAt fr.gid fr.wid (BitVec.allOnes 64) 4 = some s →
    ∃ (o : Op) (keys : List (Nat × Nat)), exec (.cprt hold a b) s = .next
        ((((s.noteRanges fr [(va, 64, .load)]).noteCopy fr (rows.map fun x => (x, n, .load))).pushOp o).finish fr
          { fr.w with ctr := { fr.w.ctr with cp := fr.w.ctr.cp + 1 } } (.cprt hold a b)) ∧
      o.kind = .layout h key (fr.v.pair b.toNat fr.u) keys ∧ o.ctr = some .cp ∧ o.gid = fr.gid ∧ o.wave = fr.wid ∧
      keys = (rows.flatMap fun x => s.rowLines fr x n).foldl (fun t e => Tab.put t e.1 e.2) [] ∧
      ((∀ x ∈ rows, isCopyScratch x = false) → ∀ x ∈ rows, ∀ c k, c < n →
        s.locate (some fr.g.core) fr.g.ctx (BitVec.ofNat 64 ((x.toNat + c) / 128 * 128)) .load fr.priv = .ok k →
        lineKey keys (x.toNat + c) = k + (x.toNat + c) % 128)

/-- The byte of the region at which element (i, j) of a matrix begins (07 R220; 10 R286). -/
def elementAt (h : List Byte) (i j : Nat) : Nat :=
  let e := shapeElem h
  let w := 32 / e
  let perRow := if shapeKind h = 1 then (shapeCols h + 16 * w - 1) / (16 * w) else (shapeCols h + w - 1) / w
  let bank := if shapeKind h = 1 then j / w % 16 else i % 16
  let q := if shapeKind h = 1 then i * perRow + j / (16 * w) else i / 16 * perRow + j / w
  if shapeKind h = 0 then (i * shapeCols h + j) * e
  else 16384 * (q / 32) + 1024 * bank + 32 * (q % 32) + j % w * e

/-- A layout copy that completes stores its status in the record, the first that applies in the order of 10 R299, and changes
nothing else unless that is 1: then it has removed the region a record with no rows names, or has written every element of
the matrix to its place in the region, zeros beside them in the words of kinds 1 and 2, and put the region in the list of its
die. -/
def LayoutCopiesComplete : Prop :=
  ∀ (s : State) (o : Op) (h : List Byte) (key : Nat) (from' : DWord) (src : List (Nat × Nat)),
    s.ops.look s.about.op = some o → o.void = false → o.kind = .layout h key from' src → s.cellsFree (key :: src.map (·.2)) = true →
    (s.retired (key + 0x30) || s.linkLost (key + 0x30)) = false →
    let va := BitVec.ofNat 64 (shapeDouble h 0x18)
    let size := shapeDouble h 0x20
    let die := vaDie va
    let mine : Region → Bool := fun r => r.ctx = o.ctx && r.va = va && r.bytes = size
    let inStatus : Nat → Prop := fun k => key + 0x30 ≤ k ∧ k < key + 0x34
    let done : Nat → List Region → (State → Prop) → Prop := fun status regions p =>
      ∃ t : State, exec .cprtComplete s = .next t.wake.moved ∧ t.num (key + 0x30) 4 = status ∧
        (t.die die).regions = regions ∧ t.ops.look s.about.op = none ∧ p t
    let refused : Nat → Prop := fun status => done status (s.die die).regions fun t => ∀ k, ¬inStatus k → t.byte k = s.byte k
    (shapeBad h = true → refused 0x80000001) ∧
    (shapeBad h = false → shapeRows h = 0 →
      ((s.die die).regions.any mine = false → refused 0x80000004) ∧
      ((s.die die).regions.any mine = true → s.regionInUse o.ctx va = true → refused 0x80000005) ∧
      ((s.die die).regions.any mine = true → s.regionInUse o.ctx va = false →
        done 1 ((s.die die).regions.filter fun r => !mine r) fun t => ∀ k, ¬inStatus k → t.byte k = s.byte k)) ∧
    (shapeBad h = false → shapeRows h ≠ 0 →
      (size < shapeNeeds h → refused 0x80000003) ∧
      (shapeNeeds h ≤ size →
        (s.pagesAt die o.ctx va size = .missing → refused 0x80000003) ∧
        (s.pagesAt die o.ctx va size = .elsewhere → refused 0x80000002) ∧
        ∀ frames, s.pagesAt die o.ctx va size = .ok frames →
          let r := shapeRegion o.ctx h frames
          let placed : Bool := shapeKind h = 0 ||
            (bankLocal die r.stack r.pch r.sid r.rowBase frames && !frames.any (s.movedFrame die))
          let meets : Bool := (s.registered die o.ctx).any fun x => decide (x.1 < va.toNat + size) && decide (va.toNat < x.1 + x.2)
          (placed = false → refused 0x80000002) ∧
          (placed = true → (s.die die).regions.any mine = false →
            (meets = true ∨ 8192 ≤ (s.die die).registrations → refused 0x80000004) ∧
            (meets = false → (s.die die).registrations < 8192 →
              (s.regionInUse o.ctx va = true → refused 0x80000005) ∧
              (s.regionInUse o.ctx va = false →
                done 1 ((s.die die).regions.filter (fun r => !mine r) ++ [r]) fun t =>
                  let cell := framesKey die frames
                  (∀ x y, x < size → y < size → cell x = cell y → x = y) →
                  (∀ x, x < size → isScratch (cell x) = false ∧ (s.retired (cell x) || s.linkLost (cell x)) = false ∧
                    ¬inStatus (cell x)) →
                  (∀ i j x, i < shapeRows h → j < shapeCols h → x < shapeElem h → t.byte (cell (elementAt h i j) + x) =
                    s.byte (lineKey src (from'.toNat + i * shapeWord h 0x10 + j * shapeElem h + x))) ∧
                  (shapeKind h ≠ 0 → ∀ i j x, i < shapeRows h → j < shapeCols h → x < 32 →
                    let word := elementAt h i j / 32 * 32
                    (∀ i' j' x', i' < shapeRows h → j' < shapeCols h → x' < shapeElem h → word + x ≠ elementAt h i' j' + x') →
                    t.byte (cell word + x) = 0))))))

end Sys2Proof.Machine

/-- (R219, R220, R221, R286, R299.) cprt whose record, source rows and region may be accessed becomes an outstanding
layout copy that holds the record and the cells of its source's lines. When it completes it stores its status in the
record, the first that applies, and changes nothing else unless that is 1: then it has removed the region a record
with no rows names, or has written every element of the matrix to its place in the region, zeros beside them in the
words of kinds 1 and 2, and put the region in the list of its die. The record's line is checked as a store, which is
the model's reading (assumption log 29); the copy is made at one moment (assumption log 71). -/
def Obligations.LayoutCopies : Prop :=
  Sys2Proof.Machine.LayoutCopiesIssue ∧ Sys2Proof.Machine.LayoutCopiesComplete

/-! ## Pages (10 R293 to R297) -/

namespace Sys2Proof.Machine

/-- pgmap takes the slots of the fragment in ascending order, each with its VA and its permissions, and gives their
statuses, tagged U32: 1 where a translation is there already, 3 for an address no pool maps, 2 where there is no good pool
or it has too few frames, 0 where it has entered the frames it took in the tables and moved the head of the ring; the read-only partitions then return
nothing older there. -/
def PageMapping : Prop :=
  ∀ (s : State) (fr : Frame) (hold : BitVec 2) (d a b : Reg), Starts s fr (.pgmap hold d a b) →
    (pairTags a ++ intTags [b]).all fr.look.ok = true → s.releaseAt fr.gid fr.wid fr.act 4 = some s →
    let run := (slotsOf fr.act).foldl (fun (x : State × Tab Word) t =>
      let y := x.1.mapPage fr.g.ctx (pairOf fr.look a t) (fr.v.reg b.toNat t)
      (y.1, x.2.put t (BitVec.ofNat 32 y.2))) (s, [])
    (∃ w : Wave, exec (.pgmap hold d a b) s = .next (run.1.finish fr w (.pgmap hold d a b)) ∧
      fr.w.Result w d.toNat false fr.act (fun t => word (run.2.lookD t 0)) (some 0x11) 0) ∧
    ∀ (u : State) (ctx : Nat) (va : DWord) (fl : Word),
      let die := vaDie va
      (vaDevice va ≠ u.dev.devnum ∨ 4 ≤ die ∨ va.extractLsb' 48 4 ≠ 0 ∨ fl.extractLsb' 3 29 ≠ 0 → u.mapPage ctx va fl = (u, 3)) ∧
      (vaDevice va = u.dev.devnum → die < 4 → va.extractLsb' 48 4 = 0 → fl.extractLsb' 3 29 = 0 →
        (∀ x, u.walk die ctx (vaOffset va) = .leaf x → u.mapPage ctx va fl = (u, 1)) ∧
        ∀ level table, u.walk die ctx (vaOffset va) = .missing level table →
          (level = 0 → u.mapPage ctx va fl = (u, 3)) ∧
          (level ≠ 0 → u.pool die ctx = none → u.mapPage ctx va fl = (u, 2)) ∧
          ∀ p, level ≠ 0 → u.pool die ctx = some p →
            let taken := u.takeFrames die p ((p.tail + 2 ^ 32 - p.head) % 2 ^ 32) p.head (4 - level)
            (taken = none → u.mapPage ctx va fl = (u, 2)) ∧
            ∀ frames next, taken = some (frames, next) → u.mapPage ctx va fl =
              (((u.enter ctx die (vaOffset va) fl.toNat level table frames).store ctx (hbmKey die (p.pa + 0x10))
                (bytesOf next 4)).freshPage ctx va, 0))

/-- pginv of a range no registration pins drops the context's translations of it from its die's TLBs and its read-only
lines, and goes on with 0 when nothing outstanding uses the range; a registered range gives 1 and a range of no device
memory 2, and changes nothing. -/
def PageInvalidation : Prop :=
  ∀ (s : State) (fr : Frame) (hold : BitVec 2) (d a b : Reg), Starts s fr (.pginv hold d a b) →
    (pairTags a ++ intTags [b]).all fr.look.ok = true → s.releaseAt fr.gid fr.wid (BitVec.allOnes 64) 4 = some s →
    let va := fr.v.pair a.toNat fr.u
    let k := (fr.v.reg b.toNat fr.u).toNat
    let bits := if k = 0 then 16 else if k = 1 then 21 else 48
    let lo := va.toNat / 2 ^ bits * 2 ^ bits
    let hit := (s.pinned (vaDie va) fr.g.ctx).any fun x => x.1 < lo + 2 ^ bits && lo < x.1 + x.2
    let result : State → Wave → Nat → Prop := fun t w x =>
      exec (.pginv hold d a b) s = .next (t.finish fr w (.pginv hold d a b)) ∧
        fr.w.Result w d.toNat false fr.act (fun _ => BitVec.ofNat 64 x) (some 0x11) 0
    (vaDevice va ≠ s.dev.devnum ∨ 4 ≤ vaDie va ∨ va.extractLsb' 48 4 ≠ 0 ∨ 3 ≤ k → ∃ w, result s w 2) ∧
    (vaDevice va = s.dev.devnum → vaDie va < 4 → va.extractLsb' 48 4 = 0 → k < 3 →
      (hit = true → ∃ w, result s w 1) ∧
      (hit = false → s.ops = [] →
        ∃ (t : State) (w : Wave), result t w 0 ∧ t.mem = s.mem ∧ t.groups = s.groups ∧
          ∀ off, off < 2 ^ 48 → lo % 2 ^ 48 ≤ off → off < lo % 2 ^ 48 + 2 ^ bits →
            (t.die (vaDie va)).tlb.look (tlbKey fr.g.ctx off) = none ∧
            ∀ c, dieOfCore c = vaDie va → (t.core c).tlb.look (tlbKey fr.g.ctx off) = none))

end Sys2Proof.Machine

/-- (R293, R294, R295, R296, R297.) pgmap takes the slots of the fragment in ascending order, each with its VA and its
permissions, and gives their statuses, tagged U32: 1 where a translation is there already, 3 for an address no pool
maps, 2 where there is no good pool or it has too few frames, 0 where it has entered the frames it took in the tables
and moved the head of the ring. pginv of a range no registration meets drops the context's translations of it from its
die's TLBs and its read-only lines, and goes on with 0 when nothing outstanding uses the range; a registered range
gives 1 and a range of no device memory 2, and changes nothing. -/
def Obligations.PagesMapAndInvalidate : Prop :=
  Sys2Proof.Machine.PageMapping ∧ Sys2Proof.Machine.PageInvalidation

/-! ## Near-memory engines (08 R229 to R245) -/

namespace Sys2Proof.Machine

/-- nmld of slot u with a good name and readable words becomes an outstanding load of a microprogram bank; into the active
bank of a running engine it raises NMSTORE and sets BUSYWR. nmsw selects the bank of an idle engine that has no load under
way and gives 1, and of a running engine gives 0 and sets BUSYWR. nmst gives the status word and clears BUSYWR when bit 0
of b is set. -/
def MicroprogramInstructions : Prop :=
  ∀ (s : State) (fr : Frame) (hold : BitVec 2) (d a b : Reg),
    let answers : Instr → State → Nat → Prop := fun i t x => ∃ w : Wave, exec i s = .next (t.finish fr w i) ∧
      fr.w.Result w d.toNat false fr.act (fun _ => word (BitVec.ofNat 32 x)) (some 0x11) 0
    (Starts s fr (.nmld hold d a) → (intTags [d] ++ pairTags a).all fr.look.ok = true →
      let x := fr.v.reg d.toNat fr.u
      let va := fr.v.pair a.toNat fr.u
      let e := (x.extractLsb' 0 10).toNat
      let bank := (x.extractLsb' 10 1).toNat
      let n := (x.extractLsb' 11 9).toNat + 1
      let first := (x.extractLsb' 20 9).toNat
      x.extractLsb' 29 3 = 0 → first + n ≤ 512 → va.toNat % 4 = 0 →
      s.rangeCause (some fr.g.core) fr.g.ctx va (4 * n) .load fr.priv = none →
      (¬((s.engine e).active = bank ∧ (s.engine e).running = true) → fr.w.ctr.nm ≠ 63 →
        s.releaseAt fr.gid fr.wid (slotBit fr.u) 4 = some s →
        exec (.nmld hold d a) s = .next (((s.noteAccess fr (linesIn va (4 * n)) .load 0).pushOp
          (s.engineOp fr .nm (.program e bank first (s.unitKeys (some fr.g.core) fr.g.ctx va (4 * n) 4 .load fr.priv))
            (pageNats va (4 * n)))).finish fr { fr.w with ctr := { fr.w.ctr with nm := fr.w.ctr.nm + 1 } } (.nmld hold d a))) ∧
      ((s.engine e).active = bank → (s.engine e).running = true → fr.act = slotBit fr.u → fr.TrapsTo s →
        exec (.nmld hold d a) s = .next ((s.setEngine e { s.engine e with busywr := true }).trapped fr fr.w .nmstore 0 false 0))) ∧
    (Starts s fr (.nmsw hold d a) → (intTags [a]).all fr.look.ok = true →
      let x := fr.v.reg a.toNat fr.u
      let e := (x.extractLsb' 0 10).toNat
      x.extractLsb' 11 21 = 0 →
      ((s.engine e).running = true → answers (.nmsw hold d a) (s.setEngine e { s.engine e with busywr := true }) 0) ∧
      ((s.engine e).running = false → s.loading e s.nextOp = false →
        answers (.nmsw hold d a) (s.setEngine e { s.engine e with active := (x.extractLsb' 10 1).toNat }) 1)) ∧
    (Starts s fr (.nmst hold d a b) → (intTags [a, b]).all fr.look.ok = true →
      let e := ((fr.v.reg a.toNat fr.u).extractLsb' 0 10).toNat
      let g := s.engine e
      answers (.nmst hold d a b)
        (if (fr.v.reg b.toNat fr.u).getLsbD 0 then s.setEngine e { g with busywr := false } else s)
        ((if g.prog.isSome then 1 else 0) + 2 * (g.active % 2) + (if g.prog.any (·.allBank) then 4 else 0) +
          8 * g.busywr.toNat + 16 * (g.queue.length % 32) + 512 * g.code.toNat + 131072 * (g.endPc % 512)))

/-- nmx of a good launch record, with the region it names registered for its engine in the layout it states and its blocks
accessible, queues the launch on the engine with the layer its shape record names, counts it in ctr.nm and goes on; the
samplers count its records, its blocks and its object. -/
def BankLaunchesQueue : Prop :=
  ∀ (s : State) (fr : Frame) (hold : BitVec 2) (a : Reg) (r : Region), Starts s fr (.nmx hold a) →
    (pairTags a).all fr.look.ok = true →
    let va := fr.v.pair a.toNat fr.u
    let h := s.recordBytes fr va 64
    let shape := BitVec.ofNat 64 (field h 0x10 8)
    let e := field h 0 4 % 1024
    let args := BitVec.ofNat 64 (field h 0x18 8)
    let result := BitVec.ofNat 64 (field h 0x28 8)
    let object := BitVec.ofNat 64 (field h 0x30 8)
    let ranges : List (DWord × Nat × AccKind) := [(va, 64, .load), (shape, 64, .load), (args, 512 * field h 0x20 4, .load),
      (result, 512 * field h 0x24 4, .store)] ++ if object = 0 then [] else [(object, 8, .atomic)]
    s.recordCause fr va 64 64 .load = none → launchRecBad h = false → s.recordCause fr shape 64 64 .load = none →
    s.launchRegion fr.g.ctx e (s.recordBytes fr shape 64) = some r → r.layout.toNat = field h 8 4 → s.launchBlocks fr h = none →
    (s.engine e).queue.length < 16 → fr.w.ctr.nm ≠ 63 → s.releaseAt fr.gid fr.wid (slotBit fr.u) 4 = some s →
    ∃ (u : State) (l : BankLaunch) (o : Op), exec (.nmx hold a) s = .next (u.finish fr
        { fr.w with ctr := { fr.w.ctr with nm := fr.w.ctr.nm + 1 } } (.nmx hold a)) ∧
      u = ((s.noteRanges fr ranges).pushOp o).setEngine e { s.engine e with queue := (s.engine e).queue ++ [l] } ∧
      o.kind = .bank e ∧ o.ctr = some .nm ∧ o.gid = fr.gid ∧
      l.ctx = fr.g.ctx ∧ l.op = s.nextOp ∧ l.start = field h 4 4 ∧ l.mode.toNat = field h 0x0C 4 % 2 ^ 32 ∧ l.regVa = r.va ∧
      l.rowBase = shapeWord (s.recordBytes fr shape 64) 0x2C ∧ l.sid = shapeWord (s.recordBytes fr shape 64) 0x28 / 1024 % 4 ∧
      l.budget = 1024 * field h 0x38 4 ∧ l.object = s.objectAt fr.g.ctx object fr.priv ∧
      l.argKeys = s.unitKeys (some fr.g.core) fr.g.ctx args (512 * field h 0x20 4) 4 .load fr.priv ∧
      l.rowKeys = s.unitKeys (some fr.g.core) fr.g.ctx result (512 * field h 0x24 4) 128 .store fr.priv

end Sys2Proof.Machine

/-- (R239, R240, R241, R242, R243, R244, R245.) nmld of slot u with a good name and readable words becomes an
outstanding load of a microprogram bank; into the active bank of a running engine it raises NMSTORE and sets BUSYWR.
nmsw selects the bank of an idle engine that has no load under way and gives 1, and of a running engine gives 0 and
sets BUSYWR. nmst gives the status word and clears BUSYWR when bit 0 of b is set. nmx of a good launch record, with
the region it names registered for its engine in the layout it states and its blocks accessible, queues the launch on
the engine with the layer its shape record names, counts it in ctr.nm and goes on. That the samplers count its
records, blocks and object (log 51) and the cycle the handler issues from (log 63) are the model's choices. -/
def Obligations.MicroprogramsAndBankLaunches : Prop :=
  Sys2Proof.Machine.MicroprogramInstructions ∧ Sys2Proof.Machine.BankLaunchesQueue

namespace Sys2Proof.Machine

/-- Instructions of bank programs on modes, rows and masks: ball and bsgl change the mode and close the row; brow opens a
row the region has; ifm narrows the mask to the lanes where a is not zero, elm turns to the lanes it left out, enm goes
back. Without a lane the ones that read a register go on; a row outside the region ends the program with 0x06, a mask
stack too deep or empty with 0x0F. -/
def BankModesRowsAndMasks : Prop :=
  ∀ (s : State) (e : Nat) (p : BankProg) (hold : BitVec 2) (a : Reg),
    let on : BankProg → State := fun q => (s.setProg e (q.advance 1)).moved
    let low := (lanesOf p.mask).head?
    (BankStarts s e p .ball → exec .ball s = .next (on { p with allBank := true, row := if p.allBank then p.row else none })) ∧
    (BankStarts s e p (.bsgl hold a) → exec (.bsgl hold a) s = .next (on { p with
      allBank := false, row := none, bank := match low with
        | some l => (p.reg a.toNat l).toNat % 16
        | none => 0 })) ∧
    (BankStarts s e p (.brow hold a) →
      (low = none → exec (.brow hold a) s = .next (on p)) ∧
      ∀ l r, low = some l → s.progRegion e p = some r →
        ((p.reg a.toNat l).toNat < r.bytes / 16384 →
          exec (.brow hold a) s = .next (on { p with row := some (p.reg a.toNat l).toNat })) ∧
        (r.bytes / 16384 ≤ (p.reg a.toNat l).toNat → exec (.brow hold a) s = .next (s.endBank e 0x06).moved)) ∧
    (BankStarts s e p (.ifm hold a) →
      (p.masks.length < 4 → ∃ m : BitVec 128, exec (.ifm hold a) s = .next (on { p with masks := (p.mask, m) :: p.masks, mask := m }) ∧
        ∀ l, l < 128 → m.getLsbD l = (p.mask.getLsbD l && p.reg a.toNat l != 0)) ∧
      (4 ≤ p.masks.length → exec (.ifm hold a) s = .next (s.endBank e 0x0F).moved)) ∧
    (BankStarts s e p .elm →
      (p.masks = [] → exec .elm s = .next (s.endBank e 0x0F).moved) ∧
      ∀ m r, p.masks = m :: r → exec .elm s = .next (on { p with mask := m.1 &&& ~~~m.2 })) ∧
    (BankStarts s e p .enm →
      (p.masks = [] → exec .enm s = .next (s.endBank e 0x0F).moved) ∧
      ∀ m r, p.masks = m :: r → exec .enm s = .next (on { p with mask := m.1, masks := r }))

/-- bcolr gives each lane of the mask in the banks of the mode its word of the column, tagged as MODE says; bcolw stores
the lanes of the mask and no other byte; bres stores its row, zeros for lanes out of the mask, and marks its lines full, here
with nothing waiting on them. A
column above 31 ends the program with 0x06, a closed row with 0x20, a result row past the last with 0x21. -/
def BankColumnsAndResults : Prop :=
  ∀ (s : State) (e : Nat) (p : BankProg) (hold : BitVec 2) (d a : Reg) (l c : Nat), (lanesOf p.mask).head? = some l →
    (p.reg a.toNat l).toNat = c →
    let on : BankProg → State → State := fun q t => (t.setProg e (q.advance 1)).moved
    let banks := if p.allBank then List.range 16 else [p.bank]
    (∀ i, (i = .bcolr hold d a ∨ i = .bcolw hold d a) → BankStarts s e p i →
      (32 ≤ c → exec i s = .next (s.endBank e 0x06).moved) ∧
      (c < 32 → p.row = none → exec i s = .next (s.endBank e 0x20).moved)) ∧
    (∀ r x, c < 32 → p.row = some x → s.progRegion e p = some r →
      let key : Nat → Nat := fun t => BankProg.column r (t / 8) x c + 4 * (t % 8)
      (BankStarts s e p (.bcolr hold d a) → (∀ t, t < 128 → t / 8 ∈ banks → s.poisoned (key t) = false) →
        ∃ q : BankProg, exec (.bcolr hold d a) s = .next (on q s) ∧
          p.Result q d.toNat (p.mask &&& lanesWhere fun t => banks.contains (t / 8)) (fun t => BitVec.ofNat 32 (s.num (key t) 4))
            (some (modeEtype p.launch.mode)) 0) ∧
      (BankStarts s e p (.bcolw hold d a) → s.voided p.launch.op = false →
        (∀ t, t < 128 → (s.retired (key t) || s.linkLost (key t)) = false) →
        ∃ u : State, exec (.bcolw hold d a) s = .next (on p u) ∧
          (∀ t, t < 128 → p.mask.getLsbD t = true → t / 8 ∈ banks → u.num (key t) 4 = (p.reg d.toNat t).toNat) ∧
          ∀ k, (∀ t, t < 128 → p.mask.getLsbD t = true → t / 8 ∈ banks → ¬(key t ≤ k ∧ k < key t + 4)) → u.byte k = s.byte k)) ∧
    (BankStarts s e p (.bres hold d a) →
      let keys := (p.launch.rowKeys.drop (4 * c)).take 4
      (p.launch.rowKeys.length / 4 ≤ c → exec (.bres hold d a) s = .next (s.endBank e 0x21).moved) ∧
      (c < p.launch.rowKeys.length / 4 → keys.all s.rowEmpty = true → keys.Nodup → (∀ k ∈ keys, k % 128 = 0) →
        (∀ k ∈ keys, (s.retired k || s.linkLost k) = false) → s.voided p.launch.op = false →
        (∀ n o, (n, o) ∈ s.ops → ∀ x ∈ o.accs, x.arrived = none) →
        ∃ u : State, exec (.bres hold d a) s = .next (on p u) ∧
          (∀ k ∈ keys, u.rowEmpty k = false) ∧
          ∀ t, t < 128 → u.num (keys.getD (t / 32) 0 + 4 * (t % 32)) 4 =
            if p.mask.getLsbD t = true then (p.reg d.toNat t).toNat else 0))

end Sys2Proof.Machine

/-- (R229, R230, R231, R232, R233, R234.) Instructions of bank programs on modes, rows and masks: ball and bsgl change
the mode and close the row; brow opens a row the region has; ifm narrows the mask to the lanes where a is not zero,
elm turns to the lanes it left out, enm goes back. Without a lane the ones that read a register go on; a row outside
the region ends the program with 0x06, a mask stack too deep or empty with 0x0F. bcolr gives each lane of the mask in
the banks of the mode its word of the column, tagged as MODE says; bcolw stores the lanes of the mask and no other
byte; bres stores its row, zeros for lanes out of the mask, and marks its lines full. A column above 31 ends the
program with 0x06, a closed row with 0x20, a result row past the last with 0x21. -/
def Obligations.BankInstructions : Prop :=
  Sys2Proof.Machine.BankModesRowsAndMasks ∧ Sys2Proof.Machine.BankColumnsAndResults

/-! ## Control flow of bank and walker programs (08 R226 to R228) -/

namespace Sys2Proof.Machine

/-- In a bank program nop goes on, jmp goes to its target and leaves the loops whose range does not hold it, loop enters its
body with its count, or skips it for a count of 0, a target of either outside the bank ends the program with 0x01, exit ends the program with DONE; at the last word of the innermost loop
the program goes back to its start with the count one less, and at the last count leaves the loop. -/
def BankControlFlow : Prop :=
  ∀ (s : State) (e : Nat) (p : BankProg) (hold : BitVec 2) (a : Reg) (off : BitVec 16),
    let at' : Int → Nat := fun n => (((p.pc : Int) + n) % 2 ^ 30).toNat
    let on : BankProg → State := fun q => (s.setProg e { q with count := p.count + 1 }).moved
    (BankStarts s e p (.nop hold) →
      (p.loops = [] → exec (.nop hold) s = .next (on { p with pc := at' 1 })) ∧
      (∀ l r, p.loops = l :: r → l.stop ≠ p.pc → exec (.nop hold) s = .next (on { p with pc := at' 1 })) ∧
      (∀ l r, p.loops = l :: r → l.stop = p.pc → 1 < l.count.toNat →
        exec (.nop hold) s = .next (on { p with pc := l.start, loops := { l with count := l.count - 1 } :: r })) ∧
      ∀ l, p.loops = [l] → l.stop = p.pc → l.count.toNat ≤ 1 →
        exec (.nop hold) s = .next (on { p with pc := at' 1, loops := [] })) ∧
    (∀ i, (i = .jmp off ∨ i = .loop a off) → BankStarts s e p i → 512 ≤ at' off.toInt →
      exec i s = .next (s.endBank e 0x01).moved) ∧
    (BankStarts s e p (.jmp off) → at' off.toInt < 512 → ∀ l, (p.loops = [] ∨ p.loops = [l]) →
      let stays : BankLoop → Prop := fun l => l.start ≤ at' off.toInt ∧ at' off.toInt ≤ l.stop
      ((p.loops = [l] → stays l) → exec (.jmp off) s = .next (on { p with pc := at' off.toInt })) ∧
      (p.loops = [l] → ¬stays l → exec (.jmp off) s = .next (on { p with pc := at' off.toInt, loops := [] }))) ∧
    (BankStarts s e p (.loop a off) → at' off.toInt < 512 →
      let c := match (lanesOf p.mask).head? with
        | some l => p.reg a.toNat l
        | none => 0
      (off.toInt ≤ 0 → p.loops = [] → exec (.loop a off) s = .next (on { p with pc := at' 1 })) ∧
      (0 < off.toInt → c = 0 → exec (.loop a off) s = .next (on { p with pc := ((at' off.toInt : Int) + 1) % 2 ^ 30 |>.toNat })) ∧
      (0 < off.toInt → c ≠ 0 → p.loops.length < 4 → exec (.loop a off) s = .next (on { p with
        pc := at' 1, loops := { start := at' 1, stop := at' off.toInt, count := c } :: p.loops })) ∧
      (0 < off.toInt → c ≠ 0 → 4 ≤ p.loops.length → exec (.loop a off) s = .next (s.endBank e 0x0F).moved)) ∧
    (BankStarts s e p (.exit hold) → exec (.exit hold) s = .next (s.endBank e 0x00).moved)

/-- The end of a bank program frees its engine, keeps the code and the word where it ended, and stores them in the launch
record with the flags; the launch is over and its counter drops. -/
def BankProgramsEnd : Prop :=
  ∀ (s : State) (e : Nat) (p : BankProg) (code : Nat), (s.engine e).prog = some p → p.launch.object = none → p.pc < 512 →
    code < 256 → s.voided p.launch.op = false → (s.retired (p.launch.recKey + 0x3C) || s.linkLost (p.launch.recKey + 0x3C)) = false →
    let t := s.endBank e code
    (t.engine e).prog = none ∧ (t.engine e).code.toNat = code ∧ (t.engine e).endPc = p.pc ∧
      t.num (p.launch.recKey + 0x3C) 4 = code + p.flags.toNat * 2 ^ 8 + p.pc * 2 ^ 13 ∧
      t.ops.look p.launch.op = none ∧
      ∀ k, (k < p.launch.recKey + 0x3C ∨ p.launch.recKey + 0x40 ≤ k) → t.byte k = s.byte k

/-- On a walker nop goes on, br goes to its target when a is not zero and on otherwise, jmp goes to its target, call leaves
pc + 4 in pair a, jmpr and ret go to the address in a pair that is a word address below 2^32, exit ends the walker. -/
def WalkerControlFlow : Prop :=
  ∀ (s : State) (id : Nat) (w : Walker) (c : Command) (hold : BitVec 2) (a : Reg) (off : BitVec 16),
    let to' : Walker → Nat → State := fun w pc => ((s.setWalker id { w with pc := pc }).setCommand w.cmd c).moved
    let target := (((w.pc : Int) + 4 * off.toInt) % 2 ^ 32).toNat
    (WalkerStarts s id w c (.nop hold) → exec (.nop hold) s = .next (to' w (w.pc + 4))) ∧
    (WalkerStarts s id w c (.br a off) →
      exec (.br a off) s = .next (to' w (if w.reg a.toNat ≠ 0 then target else w.pc + 4))) ∧
    (WalkerStarts s id w c (.jmp off) → exec (.jmp off) s = .next (to' w target)) ∧
    (WalkerStarts s id w c (.call a off) →
      ∃ w', w.Result w' a.toNat true (BitVec.ofNat 64 ((w.pc + 4) % 2 ^ 32)) (some 0x12) 0 ∧
        exec (.call a off) s = .next (to' w' target)) ∧
    (∀ i, (i = .jmpr hold a ∨ i = .ret hold a) → WalkerStarts s id w c i → (pairTags a).all (w.look c.mode).ok = true →
      (∀ p : BitVec 30, w.pair a.toNat = (p ++ 0#2).setWidth 64 → exec i s = .next (to' w (4 * p.toNat))) ∧
      ((w.pair a.toNat).toNat % 4 ≠ 0 → (w.pair a.toNat).toNat < 2 ^ 32 → exec i s = .next (s.endWalker id 0x04).moved)) ∧
    (WalkerStarts s id w c (.exit hold) → exec (.exit hold) s = .next (s.endWalker id 0x00).moved)

/-- An instruction a unit does not run ends a bank program or a walker with ILL, and traps with ILL on a core. -/
def UnitsRefuseForeignInstructions : Prop :=
  ∀ (s : State) (i : Instr), (opcode i).isSome = true →
    (∀ e p, s.cur = .bank e → (s.engine e).prog = some p → runsOn .bank i = false → exec i s = .next (s.endBank e 0x01).moved) ∧
    (∀ id w c, s.cur = .walker id → s.walkers.look id = some w → s.commands.look w.cmd = some c → runsOn .walker i = false →
      exec i s = .next (s.endWalker id 0x01).moved) ∧
    ∀ fr, s.frame? = some fr → fr.TrapsTo s → fr.loadFault i = none → runsOn .core i = false → isUniform i = false →
      exec i s = .next (s.trapped fr fr.w .ill 0 false 0)

end Sys2Proof.Machine

/-- (R81, R226, R227, R228, R245.) In a bank program nop goes on, jmp goes to its target and leaves the loops whose
range does not hold it, loop enters its body with its count, or skips it for a count of 0, exit ends the program with
DONE; at the last word of the innermost loop the program goes back to its start with the count one less, and at the
last count leaves the loop. The end of a bank program frees its engine, keeps the code and the word where it ended,
and stores them in the launch record with the flags; the launch is over and its counter drops. On a walker nop goes
on, br goes to its target when a is not zero and on otherwise, jmp goes to its target, call leaves pc + 4 in pair a,
jmpr and ret go to the address in a pair that is a word address below 2^32, exit ends the walker. An instruction a
unit does not run ends a bank program or a walker with ILL, and traps with ILL on a core. The cycle the handler issues
from is the model's choice (assumption log 63). -/
def Obligations.EngineControlFlow : Prop :=
  Sys2Proof.Machine.BankControlFlow ∧
    Sys2Proof.Machine.BankProgramsEnd ∧
    Sys2Proof.Machine.WalkerControlFlow ∧
    Sys2Proof.Machine.UnitsRefuseForeignInstructions

/-! ## Walker instructions (08 R235 to R237) -/

namespace Sys2Proof.Machine

/-- The instructions of walkers on a slot of the walk's index: dist gives the distance of the query to its vector, tagged
FP32; vchk whether it is visible at the snapshot; adj neighbour b of the slot, or all ones past the last; heapi puts the
item with distance a into the walk's heap and gives the heap's worst distance when it is full; ferry moves the walker to the
stack that holds the slot, with v1 to v12. A slot past the last ends the walker with 0x06, a wrong tag with 0x02. -/
def WalkerInstructions : Prop :=
  ∀ (s : State) (id : Nat) (w : Walker) (c : Command) (hold : BitVec 2) (d a b : Reg),
    let on : Walker → Command → State := fun w c => ((s.setWalker id { w with pc := w.pc + 4 }).setCommand w.cmd c).moved
    let gives : Instr → Word → Byte → Command → Prop := fun i x tag c => ∃ w', exec i s = .next (on w' c) ∧
      w.Result w' d.toNat false (word x) (some tag) 0
    let ok : List (Reg × (Byte → Bool)) → Prop := fun l => l.all (w.look c.mode).ok = true
    (∀ i, i ∈ [Instr.dist hold d a, .vchk hold d a, .adj hold d a b, .ferry hold a] → WalkerStarts s id w c i →
      (¬ok (intTags [a]) → exec i s = .next (s.endWalker id 0x02).moved)) ∧
    ∀ x, c.index.bind (s.indexAt c.ctx) = some x →
      (∀ i, (i = .dist hold d a ∨ i = .vchk hold d a ∨ i = .ferry hold a) → WalkerStarts s id w c i → ok (intTags [a]) →
        x.slots ≤ (w.reg a.toNat).toNat → exec i s = .next (s.endWalker id 0x06).moved) ∧
      let t := (w.reg a.toNat).toNat
      (t < x.slots → ok (intTags [a]) →
        (WalkerStarts s id w c (.dist hold d a) → (s.slotVector x t).2 = none → c.queryBad = none →
          gives (.dist hold d a) (distance x.kind x.elem ((unpackBits x.elem.bits c.query).take x.dim) (s.slotVector x t).1) 0x20 c) ∧
        (WalkerStarts s id w c (.vchk hold d a) → (s.slotMeta x t).2 = none →
          let m := (s.slotMeta x t).1
          gives (.vchk hold d a) (if m.2.1 ≤ c.snapshot.toNat ∧ c.snapshot.toNat < m.2.2 then 1 else 0) 0x11 c) ∧
        (WalkerStarts s id w c (.adj hold d a b) → ok (intTags [b]) →
          let row := 4 * (x.degree + 1) * t
          let n := s.readArray x.die x.adj x.adjFrames row 4
          let j := (w.reg b.toNat).toNat
          let y := s.readArray x.die x.adj x.adjFrames (row + 4 * (j + 1)) 4
          (x.degree = 0 → gives (.adj hold d a b) 0xFFFFFFFF 0x11 c) ∧
          (x.degree ≠ 0 → n.2 = none → min (numOf n.1) x.degree ≤ j → gives (.adj hold d a b) 0xFFFFFFFF 0x11 c) ∧
          (x.degree ≠ 0 → n.2 = none → j < min (numOf n.1) x.degree → y.2 = none →
            gives (.adj hold d a b) (BitVec.ofNat 32 (numOf y.1)) 0x11 c)) ∧
        (WalkerStarts s id w c (.ferry hold a) →
          (w.place = .running (x.holder t) → exec (.ferry hold a) s = .next (on w c)) ∧
          (w.place ≠ .running (x.holder t) → exec (.ferry hold a) s = .next (on { w with
            place := .ferried (x.holder t), regs := w.regs.filter fun e => e.1 ≤ 12, tags := w.tags.filter fun e => e.1 ≤ 12 } c)))) ∧
      let t := (w.reg b.toNat).toNat
      WalkerStarts s id w c (.heapi hold d a b) → ok (floatTags [a] ++ intTags [b]) → t < x.slots → (s.slotMeta x t).2 = none →
        let heap := heapInsert c.k c.heap { dist := w.reg a.toNat, id := (s.slotMeta x t).1.1 }
        gives (.heapi hold d a b) (if c.k ≤ heap.length then (heap.getLast?.map (·.dist)).getD 0x7F800000 else 0x7F800000) 0x20
          { c with heap := heap }

/-- The heap of a walk or a search of k: an ordered heap stays ordered with at most k items, all of them its own or the new
one, and an item that is not in it, nor its like, comes after k that are. -/
def HeapsStayOrdered : Prop :=
  ∀ (k : Nat) (h : List Item) (x : Item), h.Pairwise (fun a b => Item.before a b = true) → h.length ≤ k →
    (heapInsert k h x).Pairwise (fun a b => Item.before a b = true) ∧ (heapInsert k h x).length ≤ k ∧
      (∀ y ∈ heapInsert k h x, y = x ∨ y ∈ h) ∧
      ∀ y, (y = x ∨ y ∈ h) → (∃ z ∈ heapInsert k h x, Item.same z y = true) ∨
        ((heapInsert k h x).length = k ∧ ∀ z ∈ heapInsert k h x, Item.before z y = true)

end Sys2Proof.Machine

/-- (R66, R67, R235, R236, R237, R343.) The instructions of walkers on a slot of the walk's index: dist gives the
distance of the query to its vector, tagged FP32; vchk whether it is visible at the snapshot; adj neighbour b of the
slot, or all ones past the last; heapi puts the item with distance a into the walk's heap and gives the heap's worst
distance when it is full; ferry moves the walker to the stack that holds the slot, with v1 to v12. A slot past the
last ends the walker with 0x06, a wrong tag with 0x02. The heap of a walk or a search of k: an ordered heap stays
ordered with at most k items, all of them its own or the new one, and an item that is not in it, nor its like, comes
after k that are. -/
def Obligations.WalkerInstructions : Prop :=
  Sys2Proof.Machine.WalkerInstructions ∧ Sys2Proof.Machine.HeapsStayOrdered

/-! ## Retrieval instructions (08 R246 to R251) -/

namespace Sys2Proof.Machine

/-- The pages a descriptor's index needs, each with its extent: the descriptor's own, the vectors, the metadata, and the
adjacency of a graph (12 R336). -/
def indexExtents (x : Index) : List (DWord × Nat) :=
  let pages : Nat → Nat := fun n => (n + 65535) / 65536 * 65536
  [(x.va &&& ~~~0xFFFF#64, 65536), (x.vectors, pages (x.slots * x.stride)), (x.metaVa, pages (16 * x.slots))] ++
    if x.degree = 0 then [] else [(x.adj, pages (4 * (x.degree + 1) * x.slots))]

/-- idxreg registers a good descriptor's index, whose pages are in tier 0 of its home die and meet no registration, and gives
1; a malformed one gives 0x80000001, one with a page that is not mapped 0x80000003; with bit 0 of b it removes a registered
index no command uses, and gives 1, 0x80000004 for one that is not registered, 0x80000005 for one in use. ivcommit publishes
the next version of an index and stores it in the descriptor. -/
def IndexInstructions : Prop :=
  ∀ (s : State) (fr : Frame) (hold : BitVec 2) (d a b : Reg),
    let va := fr.v.pair a.toNat fr.u
    let answers : Instr → State → Nat → Prop := fun i t x => ∃ w : Wave, exec i s = .next (t.finish fr w i) ∧
      fr.w.Result w d.toNat false fr.act (fun _ => word (BitVec.ofNat 32 x)) (some 0x11) 0
    (Starts s fr (.idxreg hold d a b) → (pairTags a ++ intTags [b]).all fr.look.ok = true →
      s.recordCause fr va 64 64 .store = none → s.releaseAt fr.gid fr.wid (slotBit fr.u) 4 = some s →
      let n := s.noteRanges fr [(va, 64, .load)]
      let key := (n.unitKeys (some fr.g.core) fr.g.ctx va 64 64 .store fr.priv).headD 0
      let h := n.bytes key 64
      let x := indexOf fr.g.ctx va key h
      (descriptorBad h = true → answers (.idxreg hold d a b) n 0x80000001) ∧
      ((fr.v.reg b.toNat fr.u).getLsbD 0 = false → descriptorBad h = false →
        (∀ p ∈ indexExtents x, vaDevice p.1 = n.dev.devnum ∧ vaDie p.1 = x.die ∧ p.1.extractLsb' 48 4 = 0) →
        ((∃ p ∈ indexExtents x, n.pagesAt x.die fr.g.ctx p.1 p.2 = .missing) → answers (.idxreg hold d a b) n 0x80000003) ∧
        ((∀ p ∈ indexExtents x, ∃ frames, n.pagesAt x.die fr.g.ctx p.1 p.2 = .ok frames ∧
            frames.any (n.movedFrame x.die) = false) →
          (∀ r ∈ n.registered x.die fr.g.ctx, ∀ p ∈ (indexExtents x).tail,
            ¬(r.1 < p.1.toNat + p.2 ∧ p.1.toNat < r.1 + r.2)) →
          n.indexAt fr.g.ctx va = none → (n.die x.die).registrations < 8192 →
          ∃ (t : State) (y : Index), answers (.idxreg hold d a b) t 1 ∧
            (t.die x.die).indexes = (n.die x.die).indexes ++ [y] ∧
            { y with vecFrames := [], metaFrames := [], adjFrames := [] } = x ∧
            n.pagesAt x.die fr.g.ctx x.vectors ((indexExtents x).getD 1 (0, 0)).2 = .ok y.vecFrames ∧
            y.published = BitVec.ofNat 32 (n.num key 4) ∧ y.floor = y.published ∧
            ((n.retired (key + 4) || n.linkLost (key + 4)) = false → t.num (key + 4) 4 = n.num key 4))) ∧
      ((fr.v.reg b.toNat fr.u).getLsbD 0 = true → descriptorBad h = false →
        (n.indexAt fr.g.ctx va = none → answers (.idxreg hold d a b) n 0x80000004) ∧
        ((n.indexAt fr.g.ctx va).isSome = true → n.indexUsers fr.g.ctx va ≠ [] → answers (.idxreg hold d a b) n 0x80000005) ∧
        ((n.indexAt fr.g.ctx va).isSome = true → n.indexUsers fr.g.ctx va = [] →
          answers (.idxreg hold d a b) (n.onDie (vaDie va) fun y =>
            { y with indexes := y.indexes.filter fun x => !(x.ctx = fr.g.ctx && x.va = va) }) 1))) ∧
    (∀ x, Starts s fr (.ivcommit hold d a) → (pairTags a).all fr.look.ok = true → s.recordCause fr va 64 64 .store = none →
      s.indexAt fr.g.ctx va = some x → s.releaseAt fr.gid fr.wid (BitVec.allOnes 64) 4 = some s →
      let n := s.noteRanges fr [(va, 64, .store)]
      (x.published = 0xFFFFFFFE → answers (.ivcommit hold d a) n 0xFFFFFFFF) ∧
      (x.published ≠ 0xFFFFFFFE → ∃ t : State, answers (.ivcommit hold d a) t (x.published + 1).toNat ∧
        ((n.retired x.descKey || n.linkLost x.descKey) = false → t.num x.descKey 4 = (x.published + 1).toNat) ∧
        (n.indexAt fr.g.ctx va = some x → (t.indexAt fr.g.ctx va).map (·.published) = some (x.published + 1) ∧
          (t.indexAt fr.g.ctx va).map (·.floor) =
            some (if s.indexUsers fr.g.ctx va = [] then x.published + 1 else x.floor))))

/-- srch, scan and walk send their command record to its base die, and the fragment waits for the answer. tkmerge and xred
of accessible lists become outstanding operations counted in ctr.nm, and go on; the list of xred leaves for its crucible, and
is not valid where its units are poisoned or do not read as a list. -/
def RetrievalSubmissions : Prop :=
  ∀ (s : State) (fr : Frame) (hold : BitVec 2) (d a b : Reg),
    let va := fr.v.pair a.toNat fr.u
    let released := fr.w.ctr.nm ≠ 63 ∧ s.releaseAt fr.gid fr.wid (slotBit fr.u) 4 = some s
    let counts : Instr → State → OpKind → List Nat → Prop := fun i n kind vas =>
      exec i s = .next ((n.pushOp (s.engineOp fr .nm kind vas)).finish fr
        { fr.w with ctr := { fr.w.ctr with nm := fr.w.ctr.nm + 1 } } i)
    (∀ i want, (i, want) ∈ [(Instr.srch hold d a, 0), (.scan hold d a, 1), (.walk hold d a, 2)] → Starts s fr i →
      (pairTags a).all fr.look.ok = true → s.recordCause fr va 128 128 .store = none → released →
      ∃ (t : State) (c : Command) (o : Op), exec i s = .next t ∧ t.commands.look s.nextOp = some c ∧ c.want = want ∧
        c.ctx = fr.g.ctx ∧ c.accepted = false ∧ c.answer = none ∧
        c.cmdKey = (s.unitKeys (some fr.g.core) fr.g.ctx va 128 128 .store fr.priv).headD 0 ∧
        t.ops.look s.nextOp = some o ∧ o.kind = .search ∧ o.ctr = none ∧ o.gid = fr.gid ∧ o.wave = fr.wid ∧
        t.wave? fr.gid fr.wid = some (fr.w.setFrag fr.ent { fr.f with st := .waiting (.command d s.nextOp) }) ∧
        t.mem = (s.noteRanges fr [(va, 128, .load)]).mem) ∧
    (Starts s fr (.tkmerge hold d a b) → (pairTags d ++ pairTags a ++ pairTags b).all fr.look.ok = true →
      let dv := fr.v.pair d.toNat fr.u
      let bv := fr.v.pair b.toNat fr.u
      let k := field (s.recordBytes fr dv 16) 2 2
      let na := listExtent (s.recordBytes fr va 16)
      let nb := listExtent (s.recordBytes fr bv 16)
      let keys : DWord → Nat → List Nat := fun x n => s.unitKeys (some fr.g.core) fr.g.ctx x n 16 .load fr.priv
      s.recordCause fr dv 16 16 .store = none → s.recordCause fr va 16 16 .load = none → s.recordCause fr bv 16 16 .load = none →
      1 ≤ k → k ≤ 256 → field (s.recordBytes fr dv 16) 8 8 = 0 → s.recordCause fr dv 16 (16 + 16 * k) .store = none →
      s.recordCause fr va 16 na .load = none → s.recordCause fr bv 16 nb .load = none → released →
      counts (.tkmerge hold d a b) (s.noteRanges fr [(va, na, .load), (bv, nb, .load), (dv, 16 + 16 * k, .store)])
        (.merge (keys va na) (keys bv nb) (keys dv (16 + 16 * k)) k)
        (pageNats dv (16 + 16 * k) ++ pageNats va na ++ pageNats bv nb)) ∧
    (Starts s fr (.xred hold a) → (pairTags a).all fr.look.ok = true →
      let h := s.recordBytes fr va 64
      let lv := BitVec.ofNat 64 (field h 0 8)
      let n := listExtent (s.recordBytes fr lv 16)
      let keys := s.unitKeys (some fr.g.core) fr.g.ctx lv n 16 .load fr.priv
      let items := if keys.any s.poisoned then none else readList (s.readUnits keys)
      let l : MergeList :=
        { mergeId := BitVec.ofNat 32 (field h 8 4), parts := field h 0x0C 2, root := BitVec.ofNat 64 (field h 0x10 8),
          object := BitVec.ofNat 64 (field h 0x18 8), k := field h 0x20 2, tmo := field h 0x20 4 / 65536 % 16, ctx := fr.g.ctx,
          items := items.getD [], valid := items.isSome, op := some s.nextOp }
      s.recordCause fr va 64 64 .load = none → field h 0x10 8 % 16 = 0 → field h 0x0E 2 = 0 → field h 0x20 4 < 2 ^ 20 →
      (h.drop 0x24).all (· == 0) = true → 1 ≤ field h 0x0C 2 → field h 0x0C 2 ≤ 512 → 1 ≤ field h 0x20 2 → field h 0x20 2 ≤ 256 →
      s.recordCause fr lv 16 16 .load = none → s.recordCause fr lv 16 n .load = none → released →
      counts (.xred hold a) ((s.noteRanges fr [(va, 64, .load), (lv, n, .load)]).sendList fr.g.core l) (.reduce l)
        (pageNats lv n))

end Sys2Proof.Machine

/-- (R246, R247, R248, R249, R250, R251, R336, R362.) idxreg registers a good descriptor's index, whose pages are in
tier 0 of its home die and meet no registration, and gives 1; a malformed one gives 0x80000001, one with a page that
is not mapped 0x80000003; with bit 0 of b it removes a registered index no command uses, and gives 1, 0x80000004 for
one that is not registered, 0x80000005 for one in use. ivcommit publishes the next version of an index and stores it
in the descriptor. srch, scan and walk send their command record to its base die, and the fragment waits for the
answer. tkmerge and xred of accessible lists become outstanding operations counted in ctr.nm, and go on; a list of
xred is not valid where its units are poisoned or do not read as a list. That poisoned lists are not valid (assumption
log 31), that idxreg reads its descriptor once the thread's earlier accesses are performed (assumption log 93), and
what the sampler notes (assumption log 51) are the model's choices. -/
def Obligations.RetrievalInstructions : Prop :=
  Sys2Proof.Machine.IndexInstructions ∧ Sys2Proof.Machine.RetrievalSubmissions

/-! ## Task queues, launches and the event vector (08 R252 to R254; 11 R303 to R308; 12 R345) -/

namespace Sys2Proof.Machine

/-- qpush and qpop take the participating slots in ascending order. A push on a bound queue with room appends the slot's
entry and gives 1, and gives 0 for an entry of all ones or a full queue; a pop takes the oldest entry, or all ones from an
empty queue. A number that names no queue of the context raises PROT. An entry pushed on an empty queue is what the next
pop gives; a pop of a queue that holds entries takes the one at its head, which rises by one, and a push leaves the entries
that wait as they are. -/
def TaskQueueInstructions : Prop :=
  (∀ (s : State) (fr : Frame) (hold : BitVec 2) (d a b : Reg),
    (Starts s fr (.qpush hold d a b) → (intTags [a] ++ pairTags b).all fr.look.ok = true → s.queueFaults fr a = [] →
      s.releaseAt fr.gid fr.wid fr.part fr.issueScope = some s →
      let run := (slotsOf fr.part).foldl (fun (p : State × Tab Word) t =>
        let q := p.1.pushTask fr.g.ctx (fr.v.reg a.toNat t) (pairOf fr.look b t)
        (q.1, p.2.put t q.2)) (s, [])
      ∃ w : Wave, exec (.qpush hold d a b) s = .next (run.1.finish fr w (.qpush hold d a b)) ∧
        fr.w.Result w d.toNat false fr.part (fun t => word (run.2.lookD t 0)) (some 0x11) 0) ∧
    (Starts s fr (.qpop hold d a) → (intTags [a]).all fr.look.ok = true → s.queueFaults fr a = [] →
      let run := (slotsOf fr.part).foldl (fun (p : State × Tab (DWord × Bool)) t =>
        let q := p.1.popTask fr.g.ctx (fr.v.reg a.toNat t)
        (q.1, p.2.put t q.2)) (s, [])
      (∀ t ∈ slotsOf fr.part, (run.2.lookD t (0, false)).2 = false) →
      ∃ w : Wave, exec (.qpop hold d a) s = .next (((run.1.finish fr w (.qpop hold d a)).heed fr.gid fr.wid fr.part
          s.nextOp).killSlots fr.gid fr.wid []) ∧
        fr.w.Result w d.toNat true fr.part (fun t => (run.2.lookD t (0, false)).1) (some 0x12) 0) ∧
    ∀ i, i ∈ [Instr.qpush hold d a b, .qpop hold d a] → Starts s fr i → (intTags [a] ++ pairTags b).all fr.look.ok = true →
      fr.TrapsTo s → (∀ t ∈ slotsOf fr.act, t ∈ slotsOf fr.part ∧
        ((fr.v.reg a.toNat t).extractLsb' 12 20 ≠ 0 ∨ s.boundQueue fr.g.ctx (fr.v.reg a.toNat t) = none)) →
      exec i s = .next (s.trapped fr fr.w .prot 0 false ((fr.v.reg a.toNat fr.u).setWidth 64))) ∧
  ∀ (s : State) (ctx : Nat) (x : Word) (e : DWord) (q : Queue), s.boundQueue ctx x = some q →
    (e = BitVec.allOnes 64 ∨ (q.tail - q.head).toNat = 2 ^ q.lgsize → s.pushTask ctx x e = (s, 0)) ∧
    (q.tail = q.head → s.popTask ctx x = (s, BitVec.allOnes 64, false)) ∧
    (q.tail ≠ q.head → ∃ u : State, s.popTask ctx x =
        (u, BitVec.ofNat 64 (s.num (q.key x q.head.toNat) 8), s.poisoned (q.key x q.head.toNat)) ∧
      u.boundQueue ctx x = some { q with head := q.head + 1 } ∧ (∀ k, u.byte k = s.byte k) ∧
      ∀ y r, y ≠ x → s.boundQueue ctx y = some r → u.boundQueue ctx y = some r) ∧
    (e ≠ BitVec.allOnes 64 → (q.tail - q.head).toNat ≠ 2 ^ q.lgsize →
      let y := s.pushTask ctx x e
      y.2 = 1 ∧ y.1.boundQueue ctx x = some { q with tail := q.tail + 1 } ∧
      ((∀ j, j < 8 → ∀ k, k < 8 → ∀ n, n < (q.tail - q.head).toNat →
          q.key x (q.head.toNat + n) + j ≠ q.key x q.tail.toNat + k) →
        ∀ n, n < (q.tail - q.head).toNat → y.1.num (q.key x (q.head.toNat + n)) 8 = s.num (q.key x (q.head.toNat + n)) 8) ∧
      (q.tail = q.head → (s.retired (q.key x q.tail.toNat) || s.linkLost (q.key x q.tail.toNat)) = false →
        s.poisoned (q.key x q.tail.toNat) = false → (y.1.popTask ctx x).2 = (e, false)))

end Sys2Proof.Machine

/-- (R253, R303, R304, R305, R307, R308.) launch and jcard whose record may be read submit it once the wave's earlier
accesses are released, and give the result of the submission: 0x80000004 for a context that takes none, 0x80000001 for
a malformed one, 0x80000005 for a gang without members on this device, 0x80000002 for more members here than its cores
hold together, 0x80000003 for a full queue, else 1 with the launch in the queue, eligible when its wait bits hold.
That a poisoned or misaligned card or header is malformed (assumption log 33) and what the sampler notes (assumption
log 51) are the model's choices. -/
def Obligations.LaunchSubmissions : Prop :=
  ∀ (s : State) (fr : Frame) (hold : BitVec 2) (d a : Reg),
    let va := fr.v.pair a.toNat fr.u
    let answers : Instr → State × Nat → Prop := fun i r => ∃ w : Wave, exec i s = .next (r.1.finish fr w i) ∧
      fr.w.Result w d.toNat false fr.act (fun _ => word (BitVec.ofNat 32 r.2)) (some 0x11) 0
    let c := s.context fr.g.ctx
    let closed := c.en = false ∨ c.stop = true
    let enters : Instr → State → Header → Option Card → Prop := fun i n h card =>
      let mine := (h.members s.dev.devnum).length
      (mine = 0 → answers i (n, 0x80000005)) ∧
      (mine ≠ 0 → h.perCore * h.coreCount < mine → answers i (n, 0x80000002)) ∧
      (mine ≠ 0 → mine ≤ h.perCore * h.coreCount → 64 ≤ c.launches.length → answers i (n, 0x80000003)) ∧
      (mine ≠ 0 → mine ≤ h.perCore * h.coreCount → c.launches.length < 64 → ∃ t : State, answers i (t, 1) ∧ t.mem = n.mem ∧
        t.nextSerial = s.nextSerial + 1 ∧ ∃ l : Launch, (t.context fr.g.ctx).launches.look s.nextSerial = some l ∧
          l.hdr = h ∧ l.card = card ∧ l.va = va ∧ l.next = 0 ∧ l.ended = false ∧
          l.eligible = decide (c.events &&& h.wait = h.wait) ∧
          ∀ k, k ≠ s.nextSerial → (t.context fr.g.ctx).launches.look k = c.launches.look k)
    (pairTags a).all fr.look.ok = true → s.releaseAt fr.gid fr.wid (BitVec.allOnes 64) 4 = some s →
    (Starts s fr (.launch hold d a) → s.recordCause fr va 128 128 .load = none →
      let h := s.recordRead fr va 128
      let n := s.noteRanges fr [(va, 128, .load)]
      (closed → answers (.launch hold d a) (n, 0x80000004)) ∧
      (¬closed → h.2 = true ∨ (headerOf h.1).malformed = true → answers (.launch hold d a) (n, 0x80000001)) ∧
      (¬closed → h.2 = false → (headerOf h.1).malformed = false → enters (.launch hold d a) n (headerOf h.1) none)) ∧
    (Starts s fr (.jcard hold d a) → s.recordCause fr va 64 64 .load = none →
      let m := s.noteRanges fr [(va, 64, .load)]
      let r := m.recordRead fr va 64
      let hva := BitVec.ofNat 64 (field r.1 8 8)
      let h := m.recordRead fr hva 128
      let n := m.noteRanges fr [(hva, 128, .load)]
      let hd := { headerOf h.1 with entry := BitVec.ofNat 64 (field r.1 0 8), args := 0, count := 0 }
      (closed → r.2 = true ∨ cardBad r.1 = true → answers (.jcard hold d a) (m, 0x80000004)) ∧
      (¬closed → r.2 = true ∨ cardBad r.1 = true → answers (.jcard hold d a) (m, 0x80000001)) ∧
      (r.2 = false → cardBad r.1 = false → m.recordCause fr hva 128 128 .load = none →
        (closed → answers (.jcard hold d a) (n, 0x80000004)) ∧
        (¬closed → h.2 = true ∨ hd.malformed = true ∨ hd.ganged = true ∨ 2 ^ hd.unitBits < (cardOf r.1).count →
          answers (.jcard hold d a) (n, 0x80000001)) ∧
        (¬closed → h.2 = false → hd.malformed = false → hd.ganged = false → (cardOf r.1).count ≤ 2 ^ hd.unitBits →
          enters (.jcard hold d a) n hd (some (cardOf r.1)))))

namespace Sys2Proof.Machine

/-- evset sets and evclr clears the bits of pair a in the quarter of the context's event vector that b names, and no other
bit; launches whose wait bits now hold are eligible, and stay so; who waits is examined again. evrd gives a quarter to pair
d, tagged 0x12. -/
def EventInstructions : Prop :=
  ∀ (s : State) (fr : Frame) (hold : BitVec 2) (d a b : Reg),
    let q := ((fr.v.reg b.toNat fr.u).extractLsb' 0 2).toNat
    let c := s.context fr.g.ctx
    (∀ (i : Instr) (on : Bool), (i = .evset hold a b ∧ on = true) ∨ (i = .evclr hold a b ∧ on = false) → Starts s fr i →
      (pairTags a ++ intTags [b]).all fr.look.ok = true → s.releaseAt fr.gid fr.wid (BitVec.allOnes 64) 4 = some s →
      ∃ (c' : Context), exec i s = .next (((s.setContext fr.g.ctx c').finish fr fr.w i).wake) ∧
        (∀ n, n < 256 → c'.events.getLsbD n =
          if n / 64 = q ∧ (fr.v.pair a.toNat fr.u).getLsbD (n % 64) = true then on else c.events.getLsbD n) ∧
        (∀ k, c'.launches.look k = (c.launches.look k).map fun l =>
          { l with eligible := l.eligible || decide (c'.events &&& l.hdr.wait = l.hdr.wait) }) ∧
        { c' with events := c.events, launches := c.launches } = c) ∧
    (Starts s fr (.evrd hold d a) → (intTags [a]).all fr.look.ok = true →
      ∃ w : Wave, exec (.evrd hold d a) s = .next (s.finish fr w (.evrd hold d a)) ∧
        fr.w.Result w d.toNat true fr.act
          (fun _ => c.events.extractLsb' (64 * ((fr.v.reg a.toNat fr.u).extractLsb' 0 2).toNat) 64) (some 0x12) 0)

end Sys2Proof.Machine

/-- (R252, R254, R308, R346.) qpush and qpop take the participating slots in ascending order. A push on a bound queue
with room appends the slot's entry and gives 1, and gives 0 for an entry of all ones or a full queue; a pop takes the
oldest entry, or all ones from an empty queue. A number that names no queue of the context raises PROT. An entry
pushed on an empty queue is what the next pop gives; a pop of a queue that holds entries takes the one at its head,
which rises by one, and a push leaves the entries that wait as they are. evset sets and evclr clears the bits of pair
a in the quarter of the context's event vector that b names, and no other bit; launches whose wait bits now hold are
eligible, and stay so; who waits is examined again. evrd gives a quarter to pair d, tagged 0x12. The cycle the handler
issues from is the model's choice (assumption log 63). -/
def Obligations.QueuesAndEvents : Prop :=
  Sys2Proof.Machine.TaskQueueInstructions ∧ Sys2Proof.Machine.EventInstructions

namespace Sys2Proof.Machine

/-- wid gives each slot field fld of its work identifier, at the widths of its launch's header, tagged U32; a field of
width 0 reads 0. -/
def WorkIdentifiers : Prop :=
  ∀ (s : State) (fr : Frame) (hold : BitVec 2) (d : Reg) (fld : BitVec 7) (l : Launch), Starts s fr (.wid hold d fld) →
    s.launchOf fr.g = some l → l.hdr.w.length = 6 →
    ∃ w : Wave, exec (.wid hold d fld) s = .next (s.finish fr w (.wid hold d fld)) ∧
      fr.w.Result w d.toNat false fr.part (fun t => word ((fr.v.slotId t).extractLsb' ((l.hdr.w.take fld.toNat).sum)
        (l.hdr.w.getD fld.toNat 0) |>.setWidth 32)) (some 0x11) 0

end Sys2Proof.Machine

/-- (R41, R60, R119, R122, R123, R124, R125, R126, R127, R128.) The votes, shuffles, bcast, reductions, prefx and the
identity reads tagr, lane, maskr and liver give each participating slot what their tables say; each goes on whenever
it starts and its operands pass, a reduction of FP32 with MODE.inv_trap 0. wid gives each slot field fld of its work
identifier, at the widths of its launch's header, tagged U32; a field of width 0 reads 0. Under MODE.inv_trap an
invalid sum or comparison raises FPINV in every slot that takes part. Infinities of both signs beside a NaN are
invalid (assumption log 85), and the cycle the handler issues from (assumption log 63) is the model's choice. -/
def Obligations.CrossLane : Prop :=
  Sys2Proof.Machine.CrossLaneRules ∧ Sys2Proof.Machine.WorkIdentifiers

/-! ## Events: waits that run out (05 R143, R151 to R154; 06 R184, R186, R190, R193, R196) -/

namespace Sys2Proof.Machine

/-- The fragment an event names goes on after its instruction once its wait ends: a waitv past its deadline with the bits
that hold, a baro.wt with bit 31 set beside the status, a sleep at its tick, a yield when no fragment it let pass is left that has
neither issued nor stopped being ready, or its turns are over; a cwxch past its deadline traps with PAIR_TIMEOUT, its half discarded; an event held for a
wave for 2^20 ticks ends its group. -/
def WaitsRunOut : Prop :=
  (∀ (s : State) (fr : Frame), ({ s with cur := .wave s.about.gid s.about.wave s.about.ent } : State).frame? = some fr →
    fr.f.suspended = false →
    let goesOn : Instr → List Nat → Wave → Prop := fun e rs w => s.Takes e ((s.unlatch fr.gid fr.wid rs).becomes fr
      (w.setFrag fr.ent (fr.fragAt (pcPlus fr.f.pc 1) fr.act fr.f.link s.cycle)))
    let moves : Instr → Prop := fun e => s.Takes e (s.becomes fr
      (fr.w.setFrag fr.ent (fr.fragAt (pcPlus fr.f.pc 1) fr.act fr.f.link s.cycle)))
    (fr.Quiet →
      (∀ d m q all t, fr.f.st = .waiting (.event d m q all t) → t ≤ s.tick → ∃ w : Wave, goesOn .waitvTimeout (resultRegs d true) w ∧
        fr.w.Result w d.toNat true fr.act (fun _ => (s.context fr.g.ctx).events.extractLsb' (64 * (q % 4)) 64 &&& m)
          (some 0x12) 0) ∧
      (∀ d va settled t key, fr.f.st = .waiting (.object d va settled t) → t ≤ s.tick →
        s.locate none fr.g.ctx va .load true = .ok key → ∃ w : Wave, goesOn .baroWtTimeout [d.toNat] w ∧
          fr.w.Result w d.toNat false fr.act (fun _ => word (BitVec.ofNat 32 (s.num (key + 0x28) 4) ||| 0x80000000))
            (some 0x11) 0) ∧
      (∀ t, fr.f.st = .sleeping (.tick t) → t ≤ s.tick → moves .sleepWake) ∧
      ∀ l n, fr.f.st = .sleeping (.turns l n) → n = 0 ∨ l = [] → moves .yieldWake) ∧
    (∀ (id : Nat) (o : Op) (d : Reg) (part : XPart) (m : Nat) (key : BitVec 16) (deadline : Nat),
      fr.f.st = .waiting (.exchange id) → s.ops.look id = some o → o.kind = .exchange d part m key deadline →
      deadline ≤ s.tick → maskOf part.slots = fr.act → fr.TrapsTo s →
      ∃ u : State, u.ops.look id = none ∧ u.mem = s.mem ∧ u.groups = s.groups ∧
        s.Takes .pairTimeout (u.trapped fr fr.w .pairTimeout 0 false 0))) ∧
  (∀ (s : State) (g : Group) (w : Wave) (t : Nat), s.groups.look s.about.gid = some g →
    s.wave? s.about.gid s.about.wave = some w → w.heldSince = some t → tsApend w.tstat = true →
    (s.tick < t + 2 ^ 20 → exec .heldEventTimeout s = .refused .notEnabled) ∧
    (t + 2 ^ 20 ≤ s.tick → ∃ u : State, s.Takes .heldEventTimeout u ∧ u.groups.look s.about.gid = none)) ∧
  ∀ (s : State) (g : Group) (w : Wave) (f : Fragment) (id : Nat) (l : LoopEnt) (e : Nat),
    s.waiting? s.about.gid s.about.wave s.about.ent = some (g, w, f) → f.st = .waiting (.loopStep id) →
    (∀ k h, w.frag? k = some h → k ≠ s.about.ent → ∀ n, h.st ≠ .waiting (.loopStep n)) → s.about.ent < 16 →
    w.loops.find? (fun l => l.id = id) = some l → 2 ≤ l.count.toNat → l.mask ≠ 0 → w.emptyEntry = some e →
    (∀ k j, w.join? k = some j → j.wait ≠ 0) →
    ∃ (u : State) (w' : Wave), s.Takes .loopStepComplete u ∧ u.wave? s.about.gid s.about.wave = some w' ∧
      (w'.loops.find? fun l => l.id = id).map (·.count) = some (l.count - 1) ∧ w'.regs = w.regs ∧ w'.alive = w.alive

/-- TRACKED_ARRIVAL performs an arrival that waited for room and lets its fragment go on. X_PACKET_SEND sends the first
packet of a core's queue that can move. CWXCH_RETRY sends a refused half again 2^10 ticks after it was sent.
CW_WITHDRAWAL_NOTICE tells a group that a member has left its gang, of a withdrawal within 2^10 ticks of it, or takes a half
out of a pairing table here. -/
def HeldTrafficMoves : Prop :=
  (∀ (s : State) (fr : Frame) (va : DWord) (scope key : Nat),
    ({ s with cur := .wave s.about.gid s.about.wave s.about.ent } : State).frame? = some fr → fr.Quiet →
    fr.f.suspended = false → fr.f.st = .waiting (.room va scope) → s.ops = [] → (s.core fr.g.core).track = [] →
    s.locate (some fr.g.core) fr.g.ctx va .atomic fr.w.priv = .ok key →
    let ph := s.num (key + 0x20) 4
    let u := (s.onCore fr.g.core fun c => { c with
      track := [{ ctx := fr.g.ctx, object := va, phase := BitVec.ofNat 32 ph, count := 1 }] }).arrive fr.g.ctx key ph 1 false
    s.Takes .trackedArrival (u.becomes fr (fr.w.setFrag fr.ent (fr.fragAt (pcPlus fr.f.pc 1) fr.act fr.f.link s.cycle)))) ∧
  (∀ (s : State) (id j : Nat) (rest : List (Nat × Nat)) (u : State), (s.core s.about.core).waitQ = (id, j) :: rest →
    s.pushPacket s.about.core [] id j = some u → s.Takes .xPacketSend u) ∧
  (∀ (s : State) (id n slot k : Nat) (o : Op) (d : Reg) (part : XPart), (s.core s.about.core).waitQ = [(id, 0)] →
    s.ops.look id = some o → o.kind = .remote d n [part] →
    (∀ e ∈ s.ops, e.2.gid = o.gid → e.1 = id ∧ ∀ a ∈ e.2.accs, a.grp = false) → (∀ r ∈ (s.core s.about.core).reqs, r.op ≠ id) →
    (s.core s.about.core).freeSlot part.pkt.tdev.toNat = some slot → s.routeOf s.about.core part.pkt = some k →
    (s.port k).down = false →
    ∃ u : State, s.Takes .xPacketSend u ∧ u.mem = s.mem ∧ (u.core s.about.core).waitQ = [] ∧ u.net = s.net ++
      [{ part.pkt with gen := s.dev.fabGen, rslot := BitVec.ofNat 3 slot, strait := BitVec.ofNat 5 k }]) ∧
  (∀ (s : State) (o : Op) (d : Reg) (part : XPart) (m : Nat) (key : BitVec 16) (deadline : Nat) (r : ReqSlot),
    s.ops.look s.about.op = some o → o.kind = .exchange d part m key deadline → part.answered = true →
    o.issued + 1024 ≤ s.tick → s.tick < deadline → (s.core o.core).reqs.find? (fun r => r.op = s.about.op) = some r →
    ∀ k, s.routeOf o.core part.pkt = some k → (s.port k).down = false →
    let p := { part.pkt with gen := s.dev.fabGen, strait := BitVec.ofNat 5 k }
    ∃ u : State, s.Takes .cwxchRetry u ∧ u.mem = s.mem ∧ u.net = s.net ++ [p] ∧ u.ops.look s.about.op =
      some { o with issued := s.tick, kind := .exchange d { part with pkt := p, answered := false } m key deadline }) ∧
  (∀ (s : State) (g : Group), s.about.pkt = none → s.groups.look s.about.gid = some g → g.held = false → s.saved = [] →
    (∀ k h, (k, h) ∈ s.groups → h.held = false) → s.about.member ≠ g.member → s.about.member < s.gangSize g →
    let since := s.about.value.toNat
    (s.about.flag = false → since + 1024 < s.tick → exec .cwWithdrawalNotice s = .refused .notEnabled) ∧
    (since ≤ s.tick → (s.about.flag = true ∨ s.tick ≤ since + 1024) → ∃ (u : State) (g' : Group), s.Takes .cwWithdrawalNotice u ∧ u.groups.look s.about.gid = some g' ∧
      s.about.member ∈ g'.left ∧ (s.about.member ∈ g'.gone ↔ s.about.flag = false ∨ s.about.member ∈ g.gone) ∧
      g'.waves = g.waves)) ∧
  ∀ (s : State) (p : Packet) (k : Nat) (c : Core), s.about.pkt = some p → p.sdev.toNat ≠ s.dev.devnum →
    s.cores.find? (fun e => e.2.pairs.contains p) = some (k, c) →
    s.Takes .cwWithdrawalNotice (s.onCore k fun c => { c with pairs := c.pairs.erase p })

end Sys2Proof.Machine

/-- (R131, R143, R151, R152, R153, R154, R184, R186, R190, R193, R195, R196.) The fragment an event names goes on
after its instruction once its wait ends: a waitv past its deadline with the bits that hold, a baro.wt with bit 31 set
beside the status, a sleep at its tick, a yield when every fragment it let pass has issued or stopped being ready
since, or its turns are over; a cwxch past its deadline traps with PAIR_TIMEOUT, its half discarded; an event held for
a wave for 2^20 ticks ends its group. TRACKED_ARRIVAL performs an arrival that waited for room and lets its fragment
go on. X_PACKET_SEND sends the first packet of a core's queue that can move. CWXCH_RETRY sends a refused half again
2^10 ticks after it was sent. CW_WITHDRAWAL_NOTICE tells a group that a member has left its gang, of a withdrawal
within 2^10 ticks of it, or takes a half out of a pairing table here. The model's choices: a half that leaves the
pairing table at the notice (log 48), notices of a detach or an end at once (log 67), the readings of yield (log 96),
the cycle the handler issues from (log 63). -/
def Obligations.WaitsEnd : Prop :=
  Sys2Proof.Machine.WaitsRunOut ∧ Sys2Proof.Machine.HeldTrafficMoves

/-! ## Events: bank engines, commands, merges (08 R228, R239, R245, R250; 12 R339 to R347; 13 R361, R362) -/

namespace Sys2Proof.Machine

/-- NMLD_COMPLETE writes the words to the bank of the microprogram store, and no other word. BANK_LAUNCH_START of an idle
engine starts its oldest launch from the word it names, with every lane, its arguments in v1 on, and its result rows
empty. BANK_BUDGET_EXPIRY ends a program that has used up its budget with 0x24. -/
def BankEvents : Prop :=
  (∀ (s : State) (o : Op) (e bank first : Nat) (keys : List Nat), s.ops.look s.about.op = some o →
    o.kind = .program e bank first keys → o.void = false → s.cellsFree keys = true → (∀ k ∈ keys, s.poisoned k = false) →
    ∃ u : State, s.Takes .nmldComplete u ∧ u.ops.look s.about.op = none ∧ u.mem = s.mem ∧
      ∀ n, (u.engine e).store.lookD n 0 =
        if 512 * bank + first ≤ n ∧ n < 512 * bank + first + keys.length
        then BitVec.ofNat 32 (s.num (keys.getD (n - (512 * bank + first)) 0) 4) else (s.engine e).store.lookD n 0) ∧
  (∀ (s : State) (l : BankLaunch) (rest : List BankLaunch), s.loading s.about.engine s.nextOp = false →
    (s.engine s.about.engine).prog = none → (s.engine s.about.engine).queue = l :: rest → engineModeBad 16 l.mode = false →
    (∀ k ∈ l.argKeys, s.poisoned k = false) →
    ∃ (u : State) (p : BankProg), s.Takes .bankLaunchStart u ∧ u.mem = s.mem ∧
      u.engine s.about.engine = { s.engine s.about.engine with queue := rest, prog := some p } ∧
      p.launch = l ∧ p.code = (s.engine s.about.engine).active ∧ p.pc = l.start ∧ p.mask = BitVec.allOnes 128 ∧
      p.masks = [] ∧ p.loops = [] ∧ p.allBank = false ∧ p.bank = 0 ∧ p.row = none ∧ p.flags = 0 ∧ p.count = 0 ∧
      (∀ n lane, lane < 128 → p.reg n lane =
        if 1 ≤ n ∧ n ≤ l.argKeys.length / 128 then BitVec.ofNat 32 (s.num (l.argKeys.getD (128 * (n - 1) + lane) 0) 4)
        else 0) ∧
      ∀ k ∈ l.rowKeys, (u.empty.look (k / 128)).isSome = true) ∧
  ∀ (s : State) (p : BankProg), (s.engine s.about.engine).prog = some p → p.launch.budget ≠ 0 →
    (p.launch.budget ≤ p.count → s.Takes .bankBudgetExpiry (s.endBank s.about.engine 0x24)) ∧
    (p.count < p.launch.budget → exec .bankBudgetExpiry s = .refused .notEnabled)

/-- Memory units that keep what is stored to them, apart. -/
abbrev UnitsKeep (s : State) (keys : List Nat) : Prop :=
  keys.Nodup ∧ ∀ k ∈ keys, k % 16 = 0 ∧ isScratch k = false ∧ (s.retired k || s.linkLost k) = false

/-- The units hold a top-k list of a capacity with a status (08 R249). -/
def HoldsList (u : State) (keys : List Nat) (k status : Nat) (xs : List Item) : Prop :=
  let h := keys.getD 0 0
  u.num h 2 = xs.length ∧ u.num (h + 2) 2 = k ∧ u.num (h + 4) 4 = status ∧ u.num (h + 8) 8 = 0 ∧
    ∀ j y, xs[j]? = some y → let e := keys.getD (1 + j) 0
      u.num e 4 = y.dist.toNat ∧ u.num (e + 4) 4 = 0 ∧ u.num (e + 8) 8 = y.id.toNat

/-- The k least entries of a list, each held once (08 R249, R250; 12 R334). -/
def leastItems (k : Nat) (xs : List Item) : List Item := xs.foldl (heapInsert k) []

/-- No byte outside some 16-byte units changes. -/
def OnlyUnits (s u : State) (keys : List Nat) : Prop :=
  ∀ b, (∀ x ∈ keys, ¬(x ≤ b ∧ b < x + 16)) → u.byte b = s.byte b

/-- A 32-bit field matches a predicate of a scan (12 R342). -/
def fieldMatches (tag : Byte) (pop : Nat) (x a b : Word) : Bool :=
  let fp : Word → Val := fun x => Fmt.f32.read x.toNat
  let lt : Word → Word → Bool := fun x y =>
    if tag = 0x20 then below (fp x) (fp y) else if tag = 0x10 then x.slt y else x.ult y
  let eq : Word → Word → Bool := fun x y => if tag = 0x20 then same (fp x) (fp y) else x == y
  match pop with
  | 0 => eq x a
  | 1 => !eq x a
  | 2 => lt x a
  | 3 => lt x a || eq x a
  | 4 => (lt a x || eq a x) && (lt x b || eq x b)
  | _ => x &&& a == b

/-- The oldest command that waits at a base die is answered with the snapshot and accepted when it is good and there is
room, and with all ones when it is refused. A completed srch stores the list of the visible slots nearest its query, a
completed scan the first records that match its predicate, or the list of the k least fields, and each its status; a walk
completes with its heap as its list when its last walker has ended; a walk past its budget ends its walkers with 0x24; a
ferried walker arrives; a control processor that stops runs no command. -/
def SearchEvents : Prop :=
  (∀ (s : State) (id : Nat) (c0 : Command) (o : Op) (w : Wave),
    s.commands.find? (fun e => e.2.stack = s.about.stack && !e.2.accepted && e.2.answer.isNone) = some (id, c0) →
    s.commands.look id = some c0 → s.ops.look id = some o → s.wave? o.gid o.wave = some w → s.saved = [] →
    ((s.stack s.about.stack).stopped = true ∨ s.parseCommand id c0 = none →
      s.Takes .searchAccept (s.setCommand id { c0 with answer := some 0xFFFFFFFF })) ∧
    ∀ (c : Command) (ws : List (Walker × Option DWord)), (s.stack s.about.stack).stopped = false →
      s.parseCommand id c0 = some (c, ws) → (∀ x ∈ ws, x.2 = none) →
      s.commandRoom c = true → w.ctr.nm.toNat < 63 → (c.kind = 2 → engineModeBad 32 c.mode = false) →
      ∃ (u : State) (w' : Wave), s.Takes .searchAccept u ∧
        ((∀ d, (s.die d).smp.ctl.getLsbD 0 = false) → u.mem = s.mem) ∧
        u.commands.look id = some { c with accepted := true, answer := some c.snapshot } ∧
        u.wave? o.gid o.wave = some w' ∧ w'.ctr.nm = w.ctr.nm + 1 ∧ w'.regs = w.regs ∧
        ∀ j, j < ws.length → u.walkers.look (64 * id + j) = ws[j]?.map (·.1)) ∧
  (∀ (s : State) (c : Command) (o : Op), s.commands.look s.about.op = some c → s.ops.look s.about.op = some o →
    c.accepted = true → c.answer = none → c.object = none → o.void = false → (s.retired (c.cmdKey + 0x78) || s.linkLost (c.cmdKey + 0x78)) = false →
    (∀ va x, c.index = some va → s.indexAt c.ctx va = some x → x.published ≤ x.floor) →
    let status : State → Nat → Nat → Prop := fun u code count => u.num (c.cmdKey + 0x78) 4 = code ∧
      u.num (c.cmdKey + 0x7C) 4 = count ∧ u.ops.look s.about.op = none ∧ u.commands.look s.about.op = none
    let stores : List Nat → Prop := fun keys => UnitsKeep s keys ∧
      ∀ k ∈ keys, k + 16 ≤ c.cmdKey + 0x78 ∨ c.cmdKey + 0x80 ≤ k
    (∀ x, c.kind = 0 → c.topk = false → c.index.bind (s.indexAt c.ctx) = some x → c.queryBad = none →
      let seen := ((List.range (c.limit - c.first)).map (c.first + ·)).filter fun t =>
        let m := (s.slotMeta x t).1
        m.2.1 ≤ c.snapshot.toNat && c.snapshot.toNat < m.2.2
      let heap := seen.foldl (fun h t => heapInsert c.k h
        { dist := distance x.kind x.elem ((unpackBits x.elem.bits c.query).take x.dim) (s.slotVector x t).1,
          id := (s.slotMeta x t).1.1 }) []
      (∀ t, (s.slotMeta x t).2 = none ∧ (s.slotVector x t).2 = none) → seen.length < 2 ^ 32 → c.k ≤ 256 → heap.length < c.outKeys.length →
      stores c.outKeys →
      ∃ u : State, s.Takes .searchComplete u ∧ status u 0 seen.length ∧ HoldsList u c.outKeys c.k 0 heap) ∧
    (c.kind = 1 →
      let record : Nat → Option (DWord × Word) := fun t =>
        match c.index.bind (s.indexAt c.ctx), c.region.bind (s.regionAt c.die c.ctx) with
        | some x, _ =>
          let m := (s.slotMeta x t).1
          if m.2.1 ≤ c.snapshot.toNat ∧ c.snapshot.toNat < m.2.2 then
            some (m.1, BitVec.ofNat 32 (numOf (s.readArray x.die x.vectors x.vecFrames (x.stride * t + c.foff) 4).1)) else none
        | none, some r => some (BitVec.ofNat 64 t, BitVec.ofNat 32 (numOf (s.readArray c.die r.va r.frames (c.recsz * t + c.foff) 4).1))
        | none, none => none
      let clean : Nat → Prop := fun t =>
        match c.index.bind (s.indexAt c.ctx), c.region.bind (s.regionAt c.die c.ctx) with
        | some x, _ => (s.slotMeta x t).2 = none ∧ (s.readArray x.die x.vectors x.vecFrames (x.stride * t + c.foff) 4).2 = none
        | none, some r => (s.readArray c.die r.va r.frames (c.recsz * t + c.foff) 4).2 = none
        | none, none => True
      let seen := ((List.range (c.limit - c.first)).map (c.first + ·)).filterMap record
      let hits := seen.filter fun h => fieldMatches c.ftag c.pop h.2 c.opA c.opB
      let heap := leastItems c.k (seen.map fun h => { dist := h.2, id := h.1 })
      (∀ t, clean t) → seen.length < 2 ^ 32 → stores c.outKeys →
      (c.topk = false → (c.ftag = 0x10 ∨ c.ftag = 0x11 ∨ c.ftag = 0x20) → min c.cap hits.length ≤ c.outKeys.length →
        ∃ u : State, s.Takes .searchComplete u ∧ status u (if c.cap < hits.length then 256 else 0) hits.length ∧
          ∀ j h, j < c.cap → hits[j]? = some h → let e := c.outKeys.getD j 0
            u.num e 8 = h.1.toNat ∧ u.num (e + 8) 4 = h.2.toNat ∧ u.num (e + 12) 4 = 0) ∧
      (c.topk = true → c.k ≤ 256 → heap.length < c.outKeys.length →
        ∃ u : State, s.Takes .searchComplete u ∧ status u 0 seen.length ∧ HoldsList u c.outKeys c.k 0 heap)) ∧
    (c.kind = 2 → (∀ k w, (k, w) ∈ s.walkers → w.cmd ≠ s.about.op) → c.ended < 2 ^ 32 → c.heap.length < c.outKeys.length →
      c.k ≤ 256 → c.heap.length ≤ c.k → stores c.outKeys →
      ∃ u : State, s.Takes .walkComplete u ∧ status u c.code.toNat c.ended ∧
        HoldsList u c.outKeys c.k (if c.poisonMet then 1 else 0) c.heap) ∧
    (c.kind = 2 → ∀ id w, s.walkersOf s.about.op = [id] → s.walkers.look id = some w → w.cmd = s.about.op →
      c.budget ≠ 0 → c.budget ≤ c.ran → s.Takes .walkBudgetExpiry (s.endWalker id 0x24))) ∧
  (∀ (s : State) (w : Walker) (k : Nat), s.walkers.look s.about.op = some w → w.place = .ferried k →
    s.Takes .ferryArrival (s.setWalker s.about.op { w with place := .running k })) ∧
  ∀ s : State, (s.stack s.about.stack).stopped = false → s.commands = [] →
    s.Takes .controllerStop (s.setStack s.about.stack { s.stack s.about.stack with stopped := true })

end Sys2Proof.Machine

/-- (R228, R239, R240, R245, R249, R339, R341, R342, R343, R347.) NMLD_COMPLETE writes the words to the bank of the
microprogram store, and no other word. BANK_LAUNCH_START of an idle engine starts its oldest launch from the word it
names, with every lane, its arguments in v1 on, and its result rows empty. BANK_BUDGET_EXPIRY ends a program that has
used up its budget with 0x24. The oldest command that waits at a base die is answered with the snapshot and accepted
when it is good and there is room, and with all ones when it is refused. A completed srch stores the list of the
visible slots nearest its query, a completed scan the first records that match its predicate, or the list of the k
least fields, and each its status; a walk completes with its heap as its list when its last walker has ended; a walk
past its budget ends its walkers with 0x24; a ferried walker arrives; a control processor that stops runs no command.
That a search reads its index at its completion event (log 14) and which fields refuse a command (log 76) are the
model's choices. -/
def Obligations.EngineEvents : Prop :=
  Sys2Proof.Machine.BankEvents ∧ Sys2Proof.Machine.SearchEvents

namespace Sys2Proof.Machine

/-- TKMERGE_COMPLETE writes the k least entries of its two inputs, each held once, with status 0; an input that is not a valid
list, or holds poison, gives nothing and makes the status 2. No other byte of memory changes. -/
def MergesOfTwo : Prop :=
  ∀ (s : State) (o : Op) (ka kb kd : List Nat) (k : Nat), s.ops.look s.about.op = some o → o.kind = .merge ka kb kd k →
    o.void = false → s.cellsFree (ka ++ kb ++ kd) = true → kd.length = 1 + k → k ≤ 256 → UnitsKeep s kd →
    let input : List Nat → Option (List Item) := fun ks => if ks.any s.poisoned then none else readList (s.readUnits ks)
    let out := leastItems k ((input ka).getD [] ++ (input kb).getD [])
    ∃ u : State, s.Takes .tkmergeComplete u ∧ u.ops.look s.about.op = none ∧ OnlyUnits s u kd ∧
      HoldsList u kd k (if input ka = none ∨ input kb = none then 2 else 0) out

/-- A merge that ends leaves its crucible, which remembers its name. A root on this device whose list range it may write gets
the list: the k least entries of all its lists, none where participants disagree, with status 3, 2, 1 or 0; then the object
gets one arrival of the phase read at the first list, confirmed at once. Where the range or the phase read is refused nothing is
written and a record with cause 0x45 is posted; a result for this device is lost while its port is down. For a root on another
device the list leaves as a packet and, where that write is taken, the arrival, and nothing where the phase read was refused. -/
def MergeEnds (s t : State) (k : Nat) (m : Merge) : Prop :=
  let r := s.setSwitch k { s.switch k with
    merges := (s.switch k).merges.filter (fun x => !(x.mergeId = m.mergeId && x.root = m.root)),
    done := (s.switch k).done ++ [(m.mergeId, m.root, s.tick)] }
  let out := if m.disagree then [] else leastItems m.k m.items
  let status := if m.disagree then 3 else if m.invalid then 2 else if m.arrived < m.parts then 1 else 0
  let n := 16 + 16 * m.k
  let keys := r.unitKeys none m.ctx m.root n 16 .store false
  let refusal := r.rangeCause none m.ctx m.root n .store false
  (t.switch k).merges = (r.switch k).merges ∧ (t.switch k).done = (r.switch k).done ∧
  (vaDevice m.root = s.dev.devnum → (s.port (m.mergeId.toNat % 32)).down = true → t = r) ∧
  (vaDevice m.root = s.dev.devnum → (s.port (m.mergeId.toNat % 32)).down = false →
    (refusal ≠ none ∨ m.phase = none → t = r.post m.ctx { workId := 0, addr := m.root, cause := 0x45, core := 0x7FF }) ∧
    ∀ ph, refusal = none → m.phase = some ph → m.k ≤ 256 → UnitsKeep s keys →
      ∃ v : State, HoldsList v keys m.k status out ∧ OnlyUnits s v keys ∧ v.switches = r.switches ∧
        ∀ obj, v.locate none m.ctx m.object .atomic false = .ok obj → t = v.arrive m.ctx obj ph.toNat 1 true) ∧
  (vaDevice m.root ≠ s.dev.devnum → t.mem = s.mem ∧
    (m.phase = none → t.net = s.net) ∧
    ∀ ph, m.phase = some ph → ∃ p q : Packet, t.net = s.net ++ p :: (if Config.remoteWrite s.progress then [q] else []) ∧
      p.tdev.toNat = vaDevice m.root % 512 ∧ p.base = m.root ∧ p.ptype = 7 ∧
      p.entries.map (·.data) = (0#64 ++ BitVec.ofNat 32 status ++ BitVec.ofNat 16 m.k ++ BitVec.ofNat 16 out.length) ::
        out.map (fun x => x.id ++ 0#32 ++ x.dist) ∧
      q.tdev.toNat = vaDevice m.object % 512 ∧ q.base = m.object ∧ q.ptype = 7 ∧ q.entries.map (·.data) = [ph.setWidth 128])

/-- A crucible takes a list: it joins its merge, or starts one when there is room, with the deadline its time-out gives and
the phase of the root's object; a valid list gives its entries, an invalid one marks the merge, as does one whose k or parts
differ. The list that completes the count ends the merge. A list of a merge that ended within 2^16 ticks is dropped. -/
def ListTaken (s t : State) (k : Nat) (l : MergeList) : Prop :=
  let w := s.switch k
  let mine : Merge → Bool := fun m => m.mergeId = l.mergeId && m.root = l.root
  let late := w.done.any fun d => d.1 = l.mergeId && d.2.1 = l.root && s.tick < d.2.2 + 2 ^ 16
  let joins : Merge → Prop := fun m =>
    let m' := { m with disagree := m.disagree || l.k != m.k || l.parts != m.parts, invalid := m.invalid || !l.valid,
                       items := if l.valid then m.items ++ l.items else m.items, arrived := m.arrived + 1 }
    (m'.arrived ≠ m.parts → t = s.setSwitch k { w with merges := w.merges.filter (fun x => !mine x) ++ [m'] }) ∧
    (m'.arrived = m.parts → MergeEnds s t k m')
  (∀ m, w.merges.find? mine = some m → joins m) ∧
  (w.merges.find? mine = none →
    (late = true → t = s) ∧
    (late = false → joins
      { mergeId := l.mergeId, root := l.root, object := l.object, ctx := l.ctx, k := l.k, parts := l.parts, arrived := 0,
        disagree := false, invalid := false, phase := s.mergePhase l, items := [], deadline := s.tick + 2 ^ (10 + l.tmo) }))

/-- The crucible has no room for a list (13 R361). -/
def ListRefused (s : State) (k : Nat) (l : MergeList) : Prop :=
  let w := s.switch k
  w.merges.find? (fun m => m.mergeId = l.mergeId && m.root = l.root) = none ∧ 64 ≤ w.merges.length ∧
    w.done.any (fun d => d.1 = l.mergeId && d.2.1 = l.root && s.tick < d.2.2 + 2 ^ 16) = false

/-- A list that reaches its crucible is taken, which ends the operation of this device that sent it; a full crucible refuses
it, and this device sends it again after 1024 ticks; one that meets its link down is lost. The phase of a root object of this
device is the word at its offset 0x20. A merge past its deadline ends with what it holds. -/
def CruciblesMerge : Prop :=
  (∀ (s : State) (l : MergeList), s.about.list = some l → s.about.switch = l.mergeId.toNat % 32 → l.op = none →
    let r := (s.enters s.about.switch s.about.flag).settleSwitch s.about.switch
    (ListRefused r s.about.switch l → s.Takes .crucibleListArrival r) ∧
    (¬ListRefused r s.about.switch l → ∃ t : State, s.Takes .crucibleListArrival t ∧ ListTaken r t s.about.switch l)) ∧
  (∀ (s r : State) (e : Instr) (o : Op) (l : MergeList) (id : Nat), s.ops.look id = some o → o.kind = .reduce l →
    let k := l.mergeId.toNat % 32
    (e = .crucibleListArrival ∧ s.about.list = some l ∧ s.about.switch = k ∧ l.op = some id ∧ o.promote = false ∧
        r = s.listLeaves o.core l) ∨
      (e = .crucibleRetry ∧ s.about.op = id ∧ o.promote = true ∧ o.issued + 1024 ≤ s.tick ∧
        r = (s.sendList o.core l).listLeaves o.core l) →
    ((r.port k).down = true → s.Takes e (r.endOp id o)) ∧
    ((r.port k).down = false →
      (ListRefused r k l → s.Takes e (r.setOp id { o with issued := r.tick, promote := true })) ∧
      (¬ListRefused r k l → ∃ t : State, s.Takes e (t.endOp id o) ∧ ListTaken r t k l))) ∧
  (∀ (s : State) (l : MergeList) (key : Nat), vaDevice l.root = s.dev.devnum → vaDevice l.object = s.dev.devnum →
    l.object.toNat % 64 = 0 →
    s.locate none l.ctx l.object .atomic false = .ok key → s.mergePhase l = some (BitVec.ofNat 32 (s.num (key + 0x20) 4))) ∧
  ∀ (s : State) (m : Merge), (s.switch s.about.switch).merges[s.about.index]? = some m →
    (s.tick < m.deadline → exec .crucibleMergeTimeout s = .refused .notEnabled) ∧
    (m.deadline ≤ s.tick → ∃ t : State, s.Takes .crucibleMergeTimeout t ∧ MergeEnds s t s.about.switch m)

end Sys2Proof.Machine

/-- (R251, R361, R362.) TKMERGE_COMPLETE writes the k least entries of its two inputs, each held once, with status 0;
an input that is not a valid list gives nothing and makes the status 2. A list that reaches the crucible of its merge
joins it, or starts it, and the one that completes the count, or the time-out, ends it: a root on this device gets the
merged list with its status, and its object one arrival of the phase read at the first list, confirmed at once; to a
root elsewhere both leave as packets. Lists of a merge that has ended are dropped for 2^16 ticks; a list a full
crucible refused is sent again after 1024. That a poisoned input counts as not valid (log 31), and that a phase read
or a write at another device may be refused there, a value left free (log 92), are the model's choices. -/
def Obligations.MergeEvents : Prop :=
  Sys2Proof.Machine.MergesOfTwo ∧ Sys2Proof.Machine.CruciblesMerge

/-! ## Events: placing and taking off groups (01 R44, R45; 11 R306 to R326; 12 R345; 14 R375, R376) -/

namespace Sys2Proof.Machine

/-- Unit `unit` of a launch has started on a core as a new group: its waves stand at the launch's entry with every slot alive,
the reset values of 01 R45, their work identifiers, and the argument address in v2:v3. -/
def Started (s u : State) (ctx serial : Nat) (l : Launch) (unit core : Nat) (args : DWord) : Prop :=
  ∃ g : Group, u.groups.look s.nextGroup = some g ∧ u.nextGroup = s.nextGroup + 1 ∧ g.ctx = ctx ∧ g.serial = serial ∧
    g.unit = unit ∧ g.member = 0 ∧ g.core = core ∧ g.regs = l.hdr.regs ∧ g.size = l.hdr.scr ∧ g.attached = true ∧
    g.present = true ∧ g.held = false ∧ g.saving = false ∧ g.written = [] ∧
    (s.onThe core = [] → g.waves.map (·.1) = List.range l.hdr.waves) ∧
    ∀ k w, g.waves.look k = some w →
      k < l.hdr.waves ∧ w.workId = BitVec.ofNat 64 (k * 64 + unit * 2 ^ (l.hdr.width 0 + l.hdr.width 1)) ∧
      w.live = BitVec.allOnes 64 ∧ w.exited = 0 ∧ w.mode = 0x44002000 ∧ w.stat = 0 ∧ w.priv = false ∧ w.loops = [] ∧
      w.tstat = 0 ∧ w.ctr = Counters.zero ∧ w.frag? 0 = some
        { pc := l.hdr.entry.extractLsb' 2 62, mask := BitVec.allOnes 64, st := .ready, link := none, suspended := false,
          notBefore := s.cycle } ∧
      w.split.length = 1 ∧ w.tag 2 = 0x12 ∧ w.tag 3 = 0x12 ∧
      ∀ n t, t < 64 → w.reg n t =
        if n = 2 then args.extractLsb' 0 32 else if n = 3 then args.extractLsb' 32 32 else 0

/-- The device has one launch, which may have groups placed, and nothing saved. -/
abbrev OneLaunch (s : State) (ctx serial : Nat) (l : Launch) : Prop :=
  (∃ c : Context, s.contexts = [(ctx, c)] ∧ c.launches = [(serial, l)]) ∧ s.runnable ctx l = true ∧ l.hdr.ganged = false ∧ s.saved = []

/-- The dispatcher's choice of a core can take a group, and no core that can is preferred to it. DISPATCH_STEP starts the next
unit of the one launch that can be served. -/
def UnitsStart : Prop :=
  (∀ (s : State) (serial : Nat) (h : Header) (core : Nat), s.chooseCore serial h = some core →
    s.takes core serial h = true ∧ ∀ c, c < 1152 → s.takes c serial h = true → s.prefers h c core = false) ∧
  ∀ (s : State) (ctx serial core : Nat) (l : Launch), OneLaunch s ctx serial l → l.card = none → l.next < l.units →
    s.chooseCore serial l.hdr = some core →
    ∃ u : State, s.Takes .dispatchStep u ∧ Started s u ctx serial l l.next core l.hdr.args ∧
      ((u.context ctx).launches.look serial).map (·.next) = some (l.next + 1)

/-- A good record of a card gives the tile VAs that stand behind its header; a bad one none (11 R314). -/
def RecordsAreRead : Prop :=
  ∀ (s : State) (ctx r : Nat) (l : Launch) (cd : Card) (h : List Byte) (key : Nat → Nat), l.card = some cd →
    let va := cd.recs + BitVec.ofNat 64 (r * cd.stride)
    let n := field h 0 4
    let tile : Nat → DWord := fun i => BitVec.ofNat 64 (s.num (key i) 8)
    (∀ bad, s.readVa ctx va 16 = some (h, bad) →
      bad = true ∨ 8 < n ∨ field h 8 8 ≠ 0 ∨ cd.stride < 16 + 8 * n + field h 4 4 → s.recordTiles ctx l r = none) ∧
    (s.readVa ctx va 16 = none → s.recordTiles ctx l r = none) ∧
    (s.readVa ctx va 16 = some (h, false) → n ≤ 8 → field h 8 8 = 0 → 16 + 8 * n + field h 4 4 ≤ cd.stride →
      (∀ i, i < n → s.locate none ctx (va + BitVec.ofNat 64 (16 + 8 * i)) .load true = .ok (key i) ∧ s.poisoned (key i) = false) →
      ((∀ i, i < n → (tile i).toNat % 4096 = 0 ∧ vaDevice (tile i) = s.dev.devnum) →
        s.recordTiles ctx l r = some ((List.range n).map tile)) ∧
      ((∃ i, i < n ∧ ((tile i).toNat % 4096 ≠ 0 ∨ vaDevice (tile i) ≠ s.dev.devnum)) → s.recordTiles ctx l r = none))

/-- DISPATCH_STEP for a card none of whose records is ready forms a chunk of the next records: their number is the rest
divided by twice the cores they are spread over, rounded up, from 1 to 16; the bad ones are skipped, the others are bound to
the core that can take a group and holds most tiles of the first, then the one with fewer groups, then the lower one. -/
def ChunksForm : Prop :=
  ∀ (s : State) (ctx serial : Nat) (l : Launch) (cd : Card), OneLaunch s ctx serial l → l.card = some cd → l.chunks = [] →
    l.next < l.units → (∃ c, c < 1152 ∧ s.takes c serial l.hdr = true) →
    let left := l.units - l.next
    let spread := ((List.range 1152).filter fun c => l.hdr.admits c && !s.draining c && !s.failedCore c &&
      (((s.core c).sreg = l.hdr.sreg && (s.core c).sscr = l.hdr.sscr) || (s.onThe c).all fun e => e.2.waves = [])).length
    let size := min (min 16 ((left + 2 * spread - 1) / (2 * spread))) left
    let good := (((List.range size).map (l.next + ·)).map fun r => (s.recordTiles ctx l r).map fun ts => (r, ts)).filterMap id
    let holds : Nat → List DWord → Nat := fun c ts => (ts.filter fun va => (s.core c).tags.any fun e =>
      e.2.valid && e.2.owner = ctx && e.2.va.extractLsb' 12 52 = va.extractLsb' 12 52).length
    spread ≠ 0 →
    ∃ (u : State) (l' : Launch), s.Takes .dispatchStep u ∧ u.groups = s.groups ∧ (u.context ctx).launches.look serial = some l' ∧
      l'.next = l.next + size ∧
      (good = [] → l'.chunks = []) ∧
      ∀ r ts rest, good = (r, ts) :: rest →
        ∃ core, core < 1152 ∧ s.takes core serial l.hdr = true ∧ (u.core core).sreg = l.hdr.sreg ∧ (u.core core).sscr = l.hdr.sscr ∧
          (good.length = size → (s.core core).splitIs l.hdr = true → u.mem = s.mem) ∧
          l'.chunks = [{ core := core, recs := good, tile := 0, filled := [], noted := [] }] ∧
          ∀ c, c < 1152 → s.takes c serial l.hdr = true → c ≠ core →
            holds c ts < holds core ts ∨ (holds c ts = holds core ts ∧ ((s.onThe core).length < (s.onThe c).length ∨
              ((s.onThe core).length = (s.onThe c).length ∧ core < c)))

/-- LADLE_FILL takes the next tile of the first record of a chunk: an entry of the context that holds it is pinned; else the
lowest slot outside every region whose entry is invalid, or valid, clean and unpinned, gets its 4096 bytes and its entry,
pinned; without such a slot the record waits. A tile that cannot be read skips the record and leaves the entries filled for it
invalid. -/
def TilesArePlaced : Prop :=
  ∀ (s : State) (ctx serial r : Nat) (l : Launch) (k : Chunk) (ts : List DWord) (rest : List (Nat × List DWord)) (va : DWord),
    OneLaunch s ctx serial l → (∀ n g, s.groups.look n = some g → g.image = none) → l.chunks = [k] → k.core = s.about.core →
    k.recs = (r, ts) :: rest → ts[k.tile]? = some va →
    let tags : State → Tab TagEnt := fun s => (s.core k.core).tags
    let page := va.extractLsb' 12 52 ++ 0#12
    let holding : Nat × TagEnt → Bool := fun e => e.2.valid && e.2.owner = ctx && e.2.va.extractLsb' 12 52 = va.extractLsb' 12 52
    let free : Nat → Bool := fun q => (s.onThe k.core).all (fun e => q < e.2.base || e.2.base + e.2.size ≤ q) &&
      (!(entryOf (tags s) q).valid || (!(entryOf (tags s) q).dirty && !(entryOf (tags s) q).pinned))
    let slots := List.range (16 * (s.core k.core).sscr)
    let chunk : State → Chunk → Prop := fun u k' => ((u.context ctx).launches.look serial).map (·.chunks) = some [k']
    (∀ q e, (tags s).find? holding = some (q, e) → (tags s).look q = some e →
      ∃ u : State, s.Takes .ladleFill u ∧ u.mem = s.mem ∧ tags u = (tags s).put q { e with pinned := true } ∧
        chunk u { k with tile := k.tile + 1, noted := if e.pinned then k.noted else q :: k.noted }) ∧
    ((tags s).find? holding = none →
      (slots.find? free = none → exec .ladleFill s = .refused .notEnabled) ∧
      ∀ q, slots.find? free = some q →
        let at' : Nat → Except Cause Nat := fun j => s.locate none ctx (page + BitVec.ofNat 64 (128 * j)) .load false
        (∀ ks : List Nat, ks.length = 32 → (∀ j, j < 32 → at' j = .ok (ks.getD j 0)) →
          (ks.any fun x => s.poisonedIn x 128) = false →
          ∃ u : State, s.Takes .ladleFill u ∧
            tags u = (tags s).put q { valid := true, pinned := true, dirty := false, owner := ctx, va := page } ∧
            chunk u { k with tile := k.tile + 1, filled := q :: k.filled, noted := q :: k.noted } ∧
            (∀ o, o < 4096 → u.byte (scratchKey k.core (4096 * q) + o) = s.byte (ks.getD (o / 128) 0 + o % 128)) ∧
            ∀ b, (b < scratchKey k.core (4096 * q) ∨ scratchKey k.core (4096 * q) + 4096 ≤ b) → u.byte b = s.byte b) ∧
        ((∃ j, j < 32 ∧ ((∃ c, at' j = .error c) ∨ ∃ x, at' j = .ok x ∧ s.poisonedIn x 128 = true)) →
          ∃ u : State, s.Takes .ladleFill u ∧ chunk u { k with recs := rest, tile := 0, filled := [], noted := [] } ∧
            ∀ f ∈ k.filled, (tags u).look f = none))

/-- DISPATCH_STEP starts the first record of a chunk once its tiles are in place and its core can take the group; the group
keeps the note of the tiles pinned for it. -/
def RecordsStart : Prop :=
  ∀ (s : State) (ctx serial r : Nat) (l : Launch) (cd : Card) (k : Chunk) (ts : List DWord) (rest : List (Nat × List DWord)),
    OneLaunch s ctx serial l → l.card = some cd → l.chunks = [k] → k.recs = (r, ts) :: rest → ts.length ≤ k.tile →
    s.takes k.core serial l.hdr = true →
    ∃ u : State, s.Takes .dispatchStep u ∧ Started s u ctx serial l r k.core (cd.recs + BitVec.ofNat 64 (r * cd.stride)) ∧
      (u.groups.look s.nextGroup).map (·.notes) = some k.noted ∧
      ((u.context ctx).launches.look serial).map (fun l => l.chunks.map (·.recs)) = some [rest]

end Sys2Proof.Machine

/-- (R44, R45, R310, R311, R312, R313, R314, R315, R316.) The dispatcher's choice of a core can take a group, and no
core that can is preferred to it. DISPATCH_STEP starts the next unit of the one launch that can be served: its waves
stand at the launch's entry with every slot alive, the reset values of 01 R45, their work identifiers, and the
argument address in v2:v3. For a card whose records are not ready it forms a chunk of the next ones, skips the bad
ones and binds the others to the core that holds most tiles of the first. LADLE_FILL takes the next tile of a chunk's
first record: it pins an entry that holds it, or fills the lowest free slot, waits where there is none, and skips a
record whose tile cannot be read. A record whose tiles are in place starts by DISPATCH_STEP. The values of the
registers the spec gives no start value are the model's choice (assumption log 7), and so are the events that carry
the ladle's steps (log 35) and the core's split when a chunk is bound (log 114). -/
def Obligations.GroupsStart : Prop :=
  Sys2Proof.Machine.UnitsStart ∧
    Sys2Proof.Machine.RecordsAreRead ∧
    Sys2Proof.Machine.ChunksForm ∧
    Sys2Proof.Machine.TilesArePlaced ∧
    Sys2Proof.Machine.RecordsStart

/-- (R305, R306, R309, R326, R345, R346.) The host's doorbells enqueue a header or a card and put the result in LQRES;
QCTL, the enable, stop and kill bits of a context do what 11 R306 and 12 R345 say; none answers before stage 3.
LAUNCH_COMPLETE sets the launch's events and frees its queue entry; LAUNCH_TIMEOUT ends its groups, and it starts no
more. What a cleared CTXCTL.en leaves running, and that a kill leaves TROOT, are the model's choices (assumption logs
36 and 82), as is a QCTL write out of range that is ignored (log 43). -/
def Obligations.LaunchControl : Prop :=
  ∀ (s : State) (l : Launch),
    let ctx := s.about.ctx
    let c := s.context ctx
    let serial := s.about.serial
    let x := s.about.value
    (s.dev.stage ≠ 3 → ∀ e, e ∈ [Instr.qctlWrite, .ctxctlEn, .ctxctlStop, .ctxctlKill] → s.Takes e s) ∧
    (s.dev.stage = 3 → x.getLsbD 0 = false →
      let result : Nat → Prop := fun r => s.Takes .lqdoorHeader (s.setContext ctx { c with lqres := BitVec.ofNat 32 r })
      (s.closed ctx = true → result 0x80000004) ∧
      (s.closed ctx = false → x.toNat % 128 ≠ 0 ∨ s.readVa ctx x 128 = none → result 0x80000001) ∧
      ∀ h bad, s.closed ctx = false → x.toNat % 128 = 0 → s.readVa ctx x 128 = some (h, bad) →
        let r := s.enqueueHeader ctx x h bad
        s.Takes .lqdoorHeader (r.1.onContext ctx fun c => { c with lqres := BitVec.ofNat 32 r.2 })) ∧
    (s.dev.stage = 3 → x.getLsbD 0 = true →
      let result : Nat → Prop := fun r => s.Takes .lqdoorCard (s.setContext ctx { c with lqres := BitVec.ofNat 32 r })
      let va := x &&& ~~~1#64
      (s.closed ctx = true → result 0x80000004) ∧
      (s.closed ctx = false → va.toNat % 64 ≠ 0 ∨ s.readVa ctx va 64 = none → result 0x80000001) ∧
      ∀ cd h bad, s.closed ctx = false → va.toNat % 64 = 0 → s.readVa ctx va 64 = some (cd, false) → cardBad cd = false →
        s.readVa ctx (BitVec.ofNat 64 (field cd 8 8)) 128 = some (h, bad) →
        let r := s.enqueueCard ctx va cd h bad
        s.Takes .lqdoorCard (r.1.onContext ctx fun c => { c with lqres := BitVec.ofNat 32 r.2 })) ∧
    (s.dev.stage = 3 →
      let y := x.extractLsb' 0 32
      let lg := (y.extractLsb' 7 5).toNat
      let q := (s.stack s.about.stack).queue s.about.index
      (lg < 4 ∨ 20 < lg → s.Takes .qctlWrite s) ∧
      (4 ≤ lg → lg ≤ 20 → ∃ u : State, s.Takes .qctlWrite u ∧ u.mem = s.mem ∧
        let q' := (u.stack s.about.stack).queue s.about.index
        q'.en = y.getLsbD 0 ∧ q'.tail = q.tail ∧ q'.head = (if y.getLsbD 0 = true then q.head else q.tail) ∧
          q'.ctx = (if q.en = true then q.ctx else (y.extractLsb' 1 6).toNat) ∧ q'.lgsize = if q.en = true then q.lgsize else lg)) ∧
    (s.dev.stage = 3 → ∃ u : State, s.Takes .ctxctlEn u ∧ u.context ctx = { c with en := s.about.flag } ∧ u.groups = s.groups) ∧
    (s.dev.stage = 3 → s.about.flag = false → s.Takes .ctxctlStop (s.setContext ctx { c with stop := false })) ∧
    (s.dev.stage = 3 → s.about.flag = true → ∃ u : State, s.Takes .ctxctlStop u ∧ (u.context ctx).stop = true ∧
      (u.context ctx).en = c.en ∧ (∀ n y, (u.context ctx).launches.look n = some y → y.plan = none) ∧
      (∀ k g, u.groups.look k = some g → g.ctx = ctx → g.saving = true) ∧
      ((∀ k g, (k, g) ∈ s.groups → g.ctx ≠ ctx) → u.groups = s.groups)) ∧
    (s.dev.stage = 3 → ∃ u : State, s.Takes .ctxctlKill u ∧ (u.context ctx).en = false ∧ (u.context ctx).launches = [] ∧
      (∀ k g, (k, g) ∈ u.groups → g.ctx ≠ ctx) ∧ (∀ k g, (k, g) ∈ u.saved → g.ctx ≠ ctx) ∧
      (∀ k cmd, (k, cmd) ∈ u.commands → cmd.ctx ≠ ctx) ∧ ∀ d, (u.die d).troot = (s.die d).troot) ∧
    (c.launches.look serial = some l →
      (s.launchOver ctx serial l = true → ∃ u : State, s.Takes .launchComplete u ∧
        (u.context ctx).events = c.events ||| l.hdr.set ∧ (u.context ctx).launches.look serial = none ∧ u.groups = s.groups) ∧
      (s.launchOver ctx serial l = false → exec .launchComplete s = .refused .notEnabled) ∧
      ∀ t, l.first = some t → l.hdr.tmo ≠ 0 → l.ended = false → t + l.hdr.tmo * 1024 ≤ s.tick →
        ∃ u : State, s.Takes .launchTimeout u ∧ (∀ k g, (k, g) ∈ u.groups → ¬(g.ctx = ctx ∧ g.serial = serial)) ∧
          (∀ k g, (k, g) ∈ u.saved → ¬(g.ctx = ctx ∧ g.serial = serial)) ∧
          ∃ l' : Launch, (u.context ctx).launches.look serial = some l' ∧ l'.ended = true ∧ l'.next = l.units ∧
            l'.chunks = [] ∧ l'.plan = none)

/-- (R317, R318, R319, R320, R321, R322, R324.) The pre-emption check notes when a launch that has groups to place is
first blocked while a core holds only groups of lower priority, forgets it when no core does, and after 2^12 ticks
drains such a core, which is then free for the launch (assumption log 94). GROUP_SAVE of a group at its boundary
writes its block at the context's place in the save area and takes the group off its core. A gang's messages start its
save, add a device to those that are ready, and start its members. Details of the save block the spec leaves open are
the model's choice (assumption log 37). The blocked time that runs from a check and starts again (log 80), a mismatch
that ends the unit at its ready message (log 78) and the messages of a gang (log 105) are the model's choices. -/
def Obligations.SavesAndGangs : Prop :=
  (∀ (s : State) (ctx serial : Nat) (c : Context) (l : Launch), s.contexts = [(ctx, c)] → c.launches = [(serial, l)] →
    s.pending ctx serial l = true → s.placeable ctx serial l = false →
    let noted : State → State := fun s => s.onLaunch ctx serial fun l => { l with blocked := some s.tick }
    (∀ t, l.blocked = some t → s.victim l = none →
      s.Takes .preemptionCheck (s.onLaunch ctx serial fun l => { l with blocked := none })) ∧
    ∀ core, s.victim l = some core →
      (l.blocked = none → s.Takes .preemptionCheck (noted s)) ∧
      (∀ t, l.blocked = some t → s.tick < t + 2 ^ 12 → exec .preemptionCheck s = .refused .notEnabled) ∧
      ∀ t, l.blocked = some t → t + 2 ^ 12 ≤ s.tick →
        ∃ u : State, s.Takes .preemptionCheck u ∧ (u.core core).freeFor = some serial ∧
          ∀ k g, u.groups.look k = some g → g.core = core → g.saving = true) ∧
  (∀ (s : State) (g : Group), s.groups.look s.about.gid = some g → g.saving = true →
    s.saveTurn s.about.gid g = true → s.atBoundary s.about.gid g = true → s.gangSize g = 1 → s.ops = [] → s.saved = [] →
    (∀ k w, (k, w) ∈ g.waves → ∀ e f, w.frag? e = some f → f.st = .ready) →
    (s.core g.core).mat.holder ≠ some s.about.gid → g.notes = [] → g.image = none →
    let x : Image := { cells := s.cellsOf (scratchKey g.core (4096 * g.base)) (4096 * g.size), tiles := [], mat := none }
    let id := match s.launchOf g with
      | some l => l.hdr.workId g.unit g.member 0
      | none => 0
    let b := ({ g with saving := false } : Group).block x id
    (b.length ≤ (s.context g.ctx).saveSize.toNat * 4096 → ∃ (u : State) (g' : Group), s.Takes .groupSave u ∧
      u.groups.look s.about.gid = none ∧ u.saved.look s.about.gid = some g' ∧ g'.image = some x ∧ g'.saving = false ∧
      (u.context g.ctx).saved = b.length ∧ u.mem = (s.writeVa g.ctx (s.context g.ctx).saveBase b).mem) ∧
    ((s.context g.ctx).saveSize.toNat * 4096 < b.length → ∃ u : State, s.Takes .groupSave u ∧
      u.groups.look s.about.gid = none ∧ u.saved.look s.about.gid = none ∧ (u.context g.ctx).en = false)) ∧
  (∀ (s : State) (k : Nat) (g : Group), s.groups = [(k, g)] → g.ctx = s.about.ctx → g.serial = s.about.serial →
    g.unit = s.about.unit →
    (g.saving = true → exec .gangSaveMessage s = .refused .notEnabled) ∧
    (g.saving = false → ∃ (u : State) (g' : Group), s.Takes .gangSaveMessage u ∧ u.groups = [(k, g')] ∧ g'.saving = true ∧
      ∀ n w, g.waves.look n = some w → ∃ w' : Wave, g'.waves.look n = some w' ∧ w'.regs = w.regs ∧
        w'.tstat = if w.tstat.getLsbD 0 = true then w.tstat ||| 0x40#32 else w.tstat)) ∧
  ∀ (s : State) (l : Launch), (s.context s.about.ctx).launches.look s.about.serial = some l → l.hdr.ganged = true →
    let after : State → (Launch → Prop) → Prop := fun u p =>
      ∃ l' : Launch, (u.context s.about.ctx).launches.look s.about.serial = some l' ∧ p l'
    (∀ r : GangReady, s.about.ready = some r → l.hdr.gdev = s.dev.devnum → r.dev ∈ l.hdr.devices →
      (readyMatches r l.hdr = true → ∃ u : State, s.Takes .gangReady u ∧ u.groups = s.groups ∧
        after u fun l' => r.dev ∈ l'.ready.lookD s.about.unit [] ∧ l'.plan = l.plan ∧ l'.next = l.next) ∧
      (readyMatches r l.hdr = false → ∃ u : State, s.Takes .gangReady u ∧
        after u fun l' => l'.plan = none ∧ l'.ready.look s.about.unit = none ∧
          l'.next = if l.next = s.about.unit then s.about.unit + 1 else l.next)) ∧
    (s.about.flag = false → s.runnable s.about.ctx l = false → exec .gangGo s = .refused .notEnabled) ∧
    (s.about.flag = true → l.hdr.gdev ≠ s.dev.devnum → ∃ u : State, s.Takes .gangGo u ∧
      after u fun l' => l'.plan = none ∧ l'.next = if l.next = s.about.unit then s.about.unit + 1 else l.next) ∧
    ∀ m core, s.about.flag = false → s.saved = [] → l.plan = some (s.about.unit, [(m, core)]) →
      l.hdr.members s.dev.devnum = [m] → (l.hdr.gdev = s.dev.devnum → ∀ d ∈ l.hdr.devices, d ∈ l.ready.lookD s.about.unit []) →
      s.runnable s.about.ctx l = true →
      (s.onLaunch s.about.ctx s.about.serial fun l => { l with
        plan := none, ready := l.ready.del s.about.unit,
        next := if l.next = s.about.unit then s.about.unit + 1 else l.next }).takes core s.about.serial l.hdr = true →
      ∃ (u : State) (g : Group), s.Takes .gangGo u ∧ u.groups.look s.nextGroup = some g ∧ g.core = core ∧ g.member = m ∧
        g.unit = s.about.unit ∧ g.serial = s.about.serial ∧ (after u fun l' => l'.plan = none)

namespace Sys2Proof.Machine

/-- ASSAY_DRAIN_START drains the next core of an isle when the rotation's time has come and no core of the isle is drained,
or at once one that asked for an early assay. ASSAY_COMPLETE after 20,000 ticks applies the core's tracked arrivals as
confirmed or failed, clears its list, its matrix side and its read-only lines and lets it take groups again when it passed; a
core that failed is noted in ASYFAIL, and each context seen on it gets a record. Confirming n arrivals adds n to the object's
confirmed count, failing them to the failed count with status.failed, each up to 2^32 - 1; settled is set when the two reach
the expected count; an entry of another phase sets stale and changes no count. A write to ASYFAIL clears the bits written as 1. -/
def AssayEvents : Prop :=
  (∀ (s : State) (core : Nat), core = 24 * s.about.isle + (s.isles.lookD s.about.isle { next := 0, last := 0 }).next →
    core < 24 * (s.about.isle + 1) → (∀ c, (s.core c).early = false) → (∀ c, (s.core c).drained = false) →
    s.failedCore core = false → (∀ k g, (k, g) ∈ s.groups → g.core ≠ core) → (s.core core).assay = none →
    let last := (s.isles.lookD s.about.isle { next := 0, last := 0 }).last
    (s.tick < last + s.dev.asyper / 24 → exec .assayDrainStart s = .refused .notEnabled) ∧
    (last + s.dev.asyper / 24 ≤ s.tick → ∃ u : State, s.Takes .assayDrainStart u ∧
      u.core core = { s.core core with drained := true, early := false, assay := some s.tick } ∧
      (u.isles.look s.about.isle).map (·.last) = some s.tick)) ∧
  (∀ (s : State) (j : Nat), j < 24 →
    let core := 24 * s.about.isle + j
    (s.core core).early = true → (∀ i, i < j → (s.core (24 * s.about.isle + i)).early = false) →
    (s.core core).drained = false → s.failedCore core = false → (∀ k g, (k, g) ∈ s.groups → g.core ≠ core) →
    (s.core core).assay = none →
    ∃ u : State, s.Takes .assayDrainStart u ∧
      u.core core = { s.core core with drained := true, early := false, assay := some s.tick } ∧ u.isles = s.isles) ∧
  (∀ (s : State) (t : Nat), (s.core s.about.core).assay = some t →
    let core := s.about.core
    let applied := (s.core core).track.foldl (fun (v : State) e => match v.locate none e.ctx e.object .atomic true with
      | .ok k => v.confirm e.ctx k e.phase.toNat e.count s.about.flag
      | .error _ => v) s
    let idle := applied.setCore core { applied.core core with track := [], drained := false, assay := none, ro := [], mat := Matrix.empty }
    (s.tick < t + 20000 → exec .assayComplete s = .refused .notEnabled) ∧
    (t + 20000 ≤ s.tick → s.about.flag = true →
      s.Takes .assayComplete (idle.setCore core { idle.core core with seen := [] })) ∧
    (t + 20000 ≤ s.tick → s.about.flag = false →
      let d := idle.die (dieOfCore core)
      let failed := idle.setDie (dieOfCore core) { d with asyfail := d.asyfail ||| (1#288 <<< (core % 288)) }
      let u := ((failed.core core).seen.foldl (fun (v : State) ctx =>
        v.post ctx { workId := 0, addr := 0, cause := 0x25, core := core }) failed).interrupt 68
      s.Takes .assayComplete u ∧ (u.core core).drained = false ∧ (u.core core).mat = Matrix.empty ∧ (u.core core).track = [] ∧
        (u.die (dieOfCore core)).asyfail.getLsbD (core % 288) = true ∧ u.msix.look 68 = some s.tick)) ∧
  (∀ (s : State) (ctx key ph n : Nat) (passed : Bool), key % 64 = 0 → isScratch key = false →
    (∀ o, o < 64 → (s.retired (key + o) || s.linkLost (key + o)) = false) →
    let u := s.confirm ctx key ph n passed
    let expected := s.num key 4
    let confirmed := s.num (key + 0x10) 4
    let failed := s.num (key + 0x18) 4
    let st := s.num (key + 0x28) 4
    (∀ b, ¬(key + 0x10 ≤ b ∧ b < key + 0x1C) → ¬(key + 0x28 ≤ b ∧ b < key + 0x2C) → u.byte b = s.byte b) ∧
    (s.num (key + 0x20) 4 ≠ ph →
      u.num (key + 0x10) 4 = confirmed ∧ u.num (key + 0x18) 4 = failed ∧ u.num (key + 0x28) 4 = st ||| 16) ∧
    (s.num (key + 0x20) 4 = ph →
      let now := if passed then (min (confirmed + n) 0xFFFFFFFF, failed) else (confirmed, min (failed + n) 0xFFFFFFFF)
      u.num (key + 0x10) 4 = now.1 ∧ u.num (key + 0x18) 4 = now.2 ∧
        u.num (key + 0x28) 4 = st ||| (if passed then 0 else 4) ||| if expected ≤ now.1 + now.2 then 2 else 0)) ∧
  ∀ s : State, s.dev.stage = 3 → s.Takes .asyfailWrite (s.setDie s.about.die { s.die s.about.die with
    asyfail := (s.die s.about.die).asyfail &&& ~~~s.about.wide })

/-! ## Events: errors, the platform, links (10 R280; 12 R329, R347; 13 R351 to R365; 14 R371 to R386) -/

/-- A clean visit changes nothing, and none finds a line where no way holds it; a corrected error of L2 is counted for its
slice; an uncorrectable word of HBM whose line is not dirty poisons both its units; a lost line ends its context and retires its frame. QWAY re-admits ways; a written-back
way holds nothing. A repair command starts the pending repair, a decline drops it, and a finished repair leaves REPSTAT. -/
def ReliabilityEvents : Prop :=
  ∀ s : State,
    let die := s.about.die
    let d := s.die die
    let k := s.stack s.about.stack
    (s.about.scrub = .clean → s.Takes .l2ScrubVisit s) ∧
    (∀ tier pa, tier < 2 → pa < 2 ^ 41 → s.about.index = tier * 2 ^ 41 + pa →
      let key := keyOf die tier s.about.flag (pa * 128)
      let slice := sliceOf key
      (s.about.scrub = .corrected → ∀ way, s.wayHolding die (key / 128) = some way →
        ∃ u : State, s.Takes .l2ScrubVisit u ∧ u.mem = s.mem ∧
        let c := (d.qway.lookD slice QWay.reset).corr
        ((u.die die).qway.lookD slice QWay.reset).corr = if c = 0xFFFF then c else c + 1) ∧
      (s.wayHolding die (key / 128) = none → s.Takes .l2ScrubVisit s) ∧
      ∀ ctx e, die < 4 → tier = 0 → s.about.scrub = .uncorrectable true true → d.lines.look (key / 128) = some e → e.owner = ctx →
        ∃ u : State, s.Takes .l2ScrubVisit u ∧ (u.context ctx).en = false ∧ (∀ n g, (n, g) ∈ u.groups → g.ctx ≠ ctx) ∧
          (u.die die).retired.isEmpty = false ∧ u.msix.look 66 = some s.tick) ∧
    (∀ c, s.about.cell = some c →
      let key := cellKey s.about.stack c
      (s.about.scrub = .clean → s.Takes .hbmScrubVisit s) ∧
      (∀ r p, s.about.scrub = .uncorrectable r p → (s.die (dieOfStack s.about.stack)).lines.look (key / 128) = none →
        ∃ u : State, s.Takes .hbmScrubVisit u ∧ u.mem = s.mem ∧
          ∀ n, u.poisoned n = (s.poisoned n || decide (n / 16 = key / 16) || decide (n / 16 = key / 16 + 1)))) ∧
    (∀ q, d.qway.look s.about.slice = some q → q.held = true → ∃ u : State, s.Takes .quarantineWritebackDone u ∧
      (u.die die).qway.look s.about.slice = some { q with held := false } ∧ u.mem = s.mem) ∧
    (∀ q, s.dev.stage = 3 → d.qway.look s.about.slice = some q → ∃ u : State, s.Takes .qwayWrite u ∧
      (u.die die).qway.look s.about.slice = some { q with ways := q.ways &&& ~~~(s.about.value.extractLsb' 0 16) }) ∧
    (s.dev.stage = 3 → k.repair.pend = none → s.Takes .repcmdGo s ∧ s.Takes .repcmdDecline s) ∧
    ∀ r, k.repair.pend = some r →
      (s.dev.stage = 3 → k.repair.busy = none →
        (r.1 ≠ 3 → ∃ u : State, s.Takes .repcmdGo u ∧
          (u.stack s.about.stack).repair = { k.repair with busy := some r }) ∧
        (k.faultMap = [] → ∃ u : State, s.Takes .repcmdDecline u ∧
          (u.stack s.about.stack).repair = { k.repair with pend := none })) ∧
      (k.repair.busy = some r → k.faultMap = [] → ∃ u : State, s.Takes .repairComplete u ∧
        (u.stack s.about.stack).repair.busy = none ∧ (u.stack s.about.stack).repair.pend = none ∧
        (u.stack s.about.stack).repair.last = 1 ∧ u.mem = s.mem ∧
        (r.1 = 3 → (u.stack s.about.stack).moved = k.moved ++ [(r.2.sid, r.2.pch, r.2.bank)]))

end Sys2Proof.Machine

/-- (R185, R325, R367, R368, R371, R372, R373, R374, R375, R376.) ASSAY_DRAIN_START drains the next core of an isle
when the rotation's time has come and no core of the isle is drained, or at once one that asked for an early assay;
how the two meet is the model's choice (assumption log 95). ASSAY_COMPLETE after 20,000 ticks applies the core's
tracked arrivals as confirmed or failed, an entry of another phase as stale, clears its list, its matrix side and its
read-only lines and lets it take groups again when it passed; a core that failed is noted in ASYFAIL, and each context
seen on it gets a record. A write to ASYFAIL clears the bits written as 1. A clean visit changes nothing, and none
finds a line where no way holds it; a corrected error of L2 is counted for its slice; an uncorrectable word of HBM
whose line is not dirty poisons both its units; a lost line ends its context and retires its frame. QWAY re-admits
ways; a written-back way holds nothing. A repair command starts the pending repair, a decline drops it, and a finished
repair leaves REPSTAT. -/
def Obligations.AssaysAndErrors : Prop :=
  Sys2Proof.Machine.AssayEvents ∧ Sys2Proof.Machine.ReliabilityEvents

namespace Sys2Proof.Machine

/-- What the host writes of the platform's registers, and what it leaves: power states and limits, translation registers
of a context that is idle, the device number until a context has been enabled, the restart of controllers, an arrival,
images, the nonce and its signature; a read of DEVSTAT clears hostvio; a telemetry sample renews rails and temperatures; a
device reset leaves the reset state with the host's memory. -/
def PlatformEvents : Prop :=
  ∀ s : State,
    let die := s.about.die
    let d := s.die die
    let x := s.about.value
    let ctx := s.about.ctx
    (s.dev.stage ≠ 3 → ∀ e, e ∈ [Instr.pstateRun, .pstateQuiesce, .pstateHalt, .mdutyWrite, .bactWrite, .devnumWrite,
      .harrp, .ctlrst, .translationRegWrite] → s.Takes e s) ∧
    (s.dev.stage = 3 →
      s.Takes .pstateRun (s.setDie die { d with power := { d.power with req := 0, cur := 0 } }) ∧
      s.Takes .pstateQuiesce (s.setDie die { d with power := { d.power with req := 1, cur := 1 } }) ∧
      (∃ u : State, s.Takes .pstateHalt u ∧ (u.die die).power.req = 2 ∧
        ∀ k g, u.groups.look k = some g → dieOfCore g.core = die → g.saving = true) ∧
      (s.Takes .mdutyWrite (if x.toNat % 128 = 0 ∨ 64 < x.toNat % 128 then s
        else s.setDie die { d with power := { d.power with mduty := x.toNat % 128 } })) ∧
      (s.Takes .bactWrite (if x.toNat % 32 = 0 ∨ 16 < x.toNat % 32 then s
        else s.setStack s.about.stack { s.stack s.about.stack with bact := x.toNat % 32 })) ∧
      s.Takes .devnumWrite (if s.dev.enabledOnce = true then s else { s with dev := { s.dev with devnum := x.toNat % 512 } }) ∧
      (∀ e, imageError s.dev.images = some e → ∃ u : State, s.Takes .ctlrst u ∧ u.dev.stage = 7 ∧ u.dev.err = e) ∧
      (imageError s.dev.images = none → ∃ u : State, s.Takes .ctlrst u ∧ (x.toNat % 65536 = 0 → u = s) ∧ u.groups = s.groups ∧
        ∀ k, k < 16 → (u.stack k).stopped = (!x.getLsbD k && (s.stack k).stopped) ∧
          (x.getLsbD k = true → (s.stack k).stopped = false →
            ∀ id c, u.commands.look id = some c → c.stack = k → c.accepted = false ∧ c.answer.isSome = true)) ∧
      ((s.context ctx).launches ≠ [] → s.Takes .translationRegWrite s) ∧
      ((∀ k g, (k, g) ∈ s.groups → g.ctx ≠ ctx) → (∀ k o, (k, o) ∈ s.ops → o.ctx ≠ ctx) → (s.context ctx).launches = [] → ∃ u : State, s.Takes .translationRegWrite u ∧ u.mem = s.mem ∧
          (if s.about.flag = true then (u.die die).tpool.look ctx = some (x &&& 0x0000_FFFF_FFFF_FFC1)
            else (u.die die).troot.look ctx = some (x &&& 0x0000_FFFF_FFFF_F001))) ∧
      (∀ k g, (k, g) ∈ s.groups → g.ctx = ctx → s.Takes .translationRegWrite s) ∧
      ∀ key, (s.context ctx).harra.toNat % 64 = 0 → s.locate none ctx (s.context ctx).harra .atomic true = .ok key →
        s.Takes .harrp (s.arrive ctx key (x.extractLsb' 0 32).toNat 1 true)) ∧
    (2 ≤ s.dev.stage → s.Takes .fwctl s) ∧
    (s.dev.stage < 2 → ∃ u : State, s.Takes .fwctl u ∧ u.mem = s.mem ∧
      let bad := imageError [s.dev.image]
      u.dev.images = (if bad = none then s.dev.images ++ [s.dev.image] else s.dev.images) ∧
        u.dev.stage = (if bad ≠ none then 7 else if s.dev.images.length = 2 then 2 else 1)) ∧
    (s.dev.stage = 2 → s.about.index = 0 → s.about.ports = [] →
      s.Takes .trainComplete { s with dev := { s.dev with stage := 3 } }) ∧
    (s.dev.stage = 2 → s.about.index = 3 ∨ s.about.index = 4 →
      s.Takes .trainComplete { s with dev := { s.dev with stage := 7, err := s.about.index } }) ∧
    (s.dev.stage ≠ 2 → exec .trainComplete s = .refused .notEnabled) ∧
    s.Takes .idchal (if s.dev.idBusy = true then s
      else { s with dev := { s.dev with idChal := s.about.wide.extractLsb' 0 256, idBusy := true } }) ∧
    (s.dev.idBusy = true → s.Takes .idSignComplete
      { s with dev := { s.dev with idBusy := false, idResp := Config.sign s.dev.message } }) ∧
    s.Takes .devstatRead { s with dev := { s.dev with hostvio := false } } ∧
    (s.tick ≠ s.dev.nextSample → exec .telemetrySample s = .refused .notEnabled) ∧
    (s.tick = s.dev.nextSample → ∃ u : State, s.Takes .telemetrySample u ∧ u.dev.nextSample = s.dev.nextSample + 1000 ∧
      u.mem = s.mem ∧ (∀ r y, r < 31 → s.about.rails[r]? = some y → (u.rail r).mv = y.mv % 2 ^ 16 ∧
        (u.rail r).ma = y.ma % 2 ^ 24 ∧ (u.rail r).uj = ((s.rail r).uj + y.uj) % 2 ^ 64) ∧
      ∀ d, d < 4 →
        let p := (s.die d).power
        let mw := (u.rail (3 * d)).mw + (u.rail (3 * d + 1)).mw + (u.rail (3 * d + 2)).mw
        let temp := match s.about.temps[d]? with
          | some t => BitVec.ofNat 32 (t.1 % 256 + t.2 % 256 * 256)
          | none => p.temp
        let hot := (p.blPwr != 0 && p.blPwr * 1000 < mw) || (p.blTemp != 0 && p.blTemp < temp.toNat % 256)
        let n := if hot then p.run + 1 else 0
        let step := p.blEn && n == p.dwell
        (u.die d).power = { p with temp := temp, above := p.cap * 1000 < mw, hot := hot, run := if step then 0 else n,
                                   mduty := if step then min p.mduty (max p.dmin (p.mduty - p.dstep)) else p.mduty,
                                   stepped := p.stepped || step, steps := if step then min 65535 (p.steps + 1) else p.steps } ∧
        (∀ k, k < 4 → (u.stack (4 * d + k)).bact =
          if step then max 1 ((s.stack (4 * d + k)).bact - p.bstep) else (s.stack (4 * d + k)).bact) ∧
        (step = true ∨ p.cap * 1000 < mw → u.msix.look 65 = some s.tick)) ∧
    ∃ u : State, s.Takes .deviceReset u ∧ u.groups = [] ∧ u.saved = [] ∧ u.ops = [] ∧
      u.dev = { Device.reset with nextSample := s.tick + 1000 } ∧
      u.contexts = [] ∧ (u.mem = s.mem.filter fun e => spaceOf e.1 = 8) ∧ u.poison = s.poison.filter fun e => spaceOf (16 * e.1) = 8

/-- A write of the register window does what its register says: one that is not assigned changes nothing, one of stage 3
nothing before. Here the slots of ASYPER, PKGCAP, MDUTY, DIECAP, BLCTL, BLTHR, CTXSUP and CTXSAVE of an idle
context. -/
def RegisterWindow : Prop :=
  ∀ s : State,
    let x := s.about.value
    let o := s.about.index
    (o % 8 ≠ 0 → s.Takes .registerWrite s) ∧
    (s.dev.stage ≠ 3 → 0x100000 ≤ o → s.Takes .registerWrite s) ∧
    (s.dev.stage = 3 →
      (o = 0x18 → s.Takes .registerWrite { s with dev := { s.dev with asyper := x.toNat % 2 ^ 32 } }) ∧
      (o = 0x20 → x.toNat % 2 ^ 32 ≤ 4000 →
        s.Takes .registerWrite { s with dev := { s.dev with pkgcap := x.toNat % 2 ^ 32 } }) ∧
      (∀ die, die < 4 → o = 0x100000 + 0x10000 * die + 0x430 →
        let n := x.toNat % 128
        s.Takes .registerWrite (if n = 0 ∨ 64 < n then s
          else s.setDie die { s.die die with power := { (s.die die).power with mduty := n } })) ∧
      (∀ die, die < 4 →
        let at' := 0x100000 + 0x10000 * die
        let p := (s.die die).power
        let field : Nat → Nat → Nat := fun lo n => (x.extractLsb' lo n).toNat
        let power : Power → Prop := fun q => s.Takes .registerWrite (s.setDie die { s.die die with power := q })
        (o = at' + 0x440 → power (if 1000 < field 0 16 then p else { p with cap := field 0 16 })) ∧
        (o = at' + 0x450 → power (if field 11 7 = 0 ∨ 64 < field 11 7 ∨ field 18 8 = 0 then p
          else { p with blEn := x.getLsbD 0, dstep := field 1 6, bstep := field 7 4, dmin := field 11 7, dwell := field 18 8 })) ∧
        (o = at' + 0x458 → power { p with blPwr := field 0 16, blTemp := field 16 8 })) ∧
      ∀ ctx, ctx < 64 → (∀ k g, (k, g) ∈ s.groups → g.ctx ≠ ctx) → (∀ k g, (k, g) ∈ s.saved → g.ctx ≠ ctx) →
        (o = 0x300000 + 0x100 * ctx + 0x08 →
          s.Takes .registerWrite (s.setContext ctx { s.context ctx with sup := x &&& ~~~3#64 })) ∧
        (o = 0x300000 + 0x100 * ctx + 0x10 →
          s.Takes .registerWrite (s.setContext ctx { s.context ctx with saveBase := x &&& ~~~0xFFF#64 })))

end Sys2Proof.Machine

/-- (R280, R377, R378, R379, R380, R381, R382, R383, R384.) What the host writes of the platform's registers, and what
it leaves: power states and limits, translation registers of a context that is idle, the device number until a context
has been enabled, the restart of the controllers CTLRST names, whose running commands end, an arrival, images, the
nonce and its signature; a read of DEVSTAT clears hostvio; a telemetry sample renews rails and temperatures, evaluates
each die's boiling condition and takes the emergency step that BLCTL sets; a device reset leaves the reset state with
the host's memory. A write of the register window does what its register says: one that is not assigned changes
nothing, one of stage 3 nothing before. Here the slots of ASYPER, PKGCAP, MDUTY, DIECAP, BLCTL, BLTHR, CTXSUP and
CTXSAVE of an idle context. The model's choices: values out of range that are ignored (log 43), what a device reset
keeps (log 41), the first sample after it (log 101), the sum of energies (log 84). -/
def Obligations.PlatformEvents : Prop :=
  Sys2Proof.Machine.PlatformEvents ∧ Sys2Proof.Machine.RegisterWindow

/-- (R350, R351, R356, R357, R358, R359, R363, R364, R365, R386.) Routing tables are written while their generation is
out of use, and set busywr otherwise; a new generation sends drain markers, and a marker that arrives is noted. A good
payload flit in its place advances the port's sequence and is acknowledged, a bad one or one out of place asks for a
replay. A link that has not retrained for 2^20 ticks is down and what its switch holds for the device is discarded,
and a context that may have lost a request ends; before that it may finish retraining and replays; links come up
again. A second-tier link's failure and an eye's measurement are noted in the link reports. The host's read within a
window brings back bytes and their poison, its write stores its bytes; any other access sets hostvio and a read of it
is poisoned; before stage 3 the access completes with an error. Which writes of FABGEN are ignored, and where a link's
sequence begins again, are the model's choices (assumption logs 44 and 45), as are the place of a host address (log
47) and the zero bytes and the error of an access that is refused (log 103). -/
def Obligations.LinkEvents : Prop :=
  ∀ s : State,
    let x := s.about.value.extractLsb' 0 32
    let p := s.about.port
    let q := s.port p
    (s.dev.stage = 3 → ∀ g, s.about.table = some (.egt g) →
      (s.dev.fabPend = true ∨ s.dev.fabGen = g →
        s.Takes .routingTableWrite { s with dev := { s.dev with fabBusy := true } }) ∧
      (s.dev.fabPend = false → s.dev.fabGen ≠ g → s.about.index < 512 → ∃ u : State, s.Takes .routingTableWrite u ∧
        u.mem = s.mem ∧ ∀ n, (if g = true then u.dev.egt1 else u.dev.egt0).lookD n 0xFFFFFFFF =
          if n = s.about.index then x else (if g = true then s.dev.egt1 else s.dev.egt0).lookD n 0xFFFFFFFF)) ∧
    (s.dev.stage = 3 → x.getLsbD 0 = s.dev.fabGen → x.getLsbD 2 = false → s.Takes .fabgenWrite s) ∧
    (s.dev.stage = 3 → x.getLsbD 0 ≠ s.dev.fabGen → s.dev.fabPend = false → s.dev.devnum < 512 →
      (∀ k, k < 32 → (s.port k).down = false) →
      ∃ u : State, s.Takes .fabgenWrite u ∧ u.dev.fabGen = x.getLsbD 0 ∧ u.dev.fabPend = true ∧
        u.net.length = s.net.length + 32) ∧
    (s.about.switch < 32 → p < 512 → p ≠ (s.switch s.about.switch).landing false s.dev.devnum →
      (s.switch s.about.switch).downPorts = [] → (s.switch s.about.switch).markers0 = [] →
      (s.switch s.about.switch).markers1 = [] → s.about.flag = false →
      s.Takes .drainMarkerArrival (s.setSwitch s.about.switch { s.switch s.about.switch with markers0 := [p] })) ∧
    (p < 32 → q.down = false → q.retraining = none →
      let f := s.about.flit
      let payload := flitField f 0 2 / 4096 = 0
      (flitBad f = true → ∃ u : State, s.Takes .flitReceive u ∧ u.mem = s.mem ∧ (u.port p).rxSeq = q.rxSeq ∧
        (u.port p).replay = q.replay ∧ (u.port p).nak = true ∧ (u.port p).wire = [flitOf 2 q.txSeq q.got true []] ∧
        (u.port p).retraining = if 8 ≤ q.asked + 1 then some s.tick else none) ∧
      (flitBad f = false → payload → flitField f 0 2 % 4096 = q.rxSeq → ∃ u : State, s.Takes .flitReceive u ∧
        u.mem = s.mem ∧ (u.port p).rxSeq = (q.rxSeq + 1) % 4096 ∧ (u.port p).nak = false ∧
        flitOf 2 (u.port p).txSeq (u.port p).got false [] ∈ (u.port p).wire) ∧
      (flitBad f = false → payload → flitField f 0 2 % 4096 ≠ q.rxSeq → ∃ u : State, s.Takes .flitReceive u ∧
        u.mem = s.mem ∧ (u.port p).rxSeq = q.rxSeq ∧ (u.port p).nak = true) ∧
      (flitBad f = false → ¬payload → ∃ u : State, s.Takes .flitReceive u ∧
        u.mem = s.mem ∧ (u.port p).rxSeq = q.rxSeq ∧ (u.port p).nak = q.nak)) ∧
    (∀ t, q.retraining = some t →
      (s.tick < t + 2 ^ 20 → exec .linkDown s = .refused .notEnabled ∧ ∃ u : State, s.Takes .linkRetrainComplete u ∧
        u.mem = s.mem ∧ (u.port p).retraining = none ∧ (u.port p).tries = 0 ∧ (u.port p).asked = 0 ∧
        (u.port p).rxSeq = q.rxSeq ∧ q.replay <+: (u.port p).wire) ∧
      (t + 2 ^ 20 ≤ s.tick → exec .linkRetrainComplete s = .refused .notEnabled ∧
        ((∀ k c, (k, c) ∈ s.cores → c.reqs = []) → ∃ u : State, s.Takes .linkDown u ∧ (u.port p).down = true ∧
          (u.report p).down = true ∧ (∀ g, (s.switch p).landing g s.dev.devnum ∈ (u.switch p).downPorts) ∧
          (∀ x, x ∈ u.net → x.strait.toNat = p → x.ptype ≠ 9 → packetGoal x ≠ s.dev.devnum) ∧ u.groups = s.groups))) ∧
    (∀ core c r o, (core, c) ∈ s.cores → r ∈ c.reqs → r.strait = p → s.ops.look r.op = some o →
      o.ctx = s.about.ctx → q.down = false → ∃ u : State, s.Takes .lostNotice u ∧ (u.context s.about.ctx).en = false ∧
        ∀ k g, (k, g) ∈ u.groups → g.ctx ≠ s.about.ctx) ∧
    (q.down = true → ∃ u : State, s.Takes .linkBringUp u ∧ u.port p = Port.reset ∧ (u.report p).down = false ∧
      (∀ g, (s.switch p).landing g s.dev.devnum ∉ (u.switch p).downPorts) ∧ u.mem = s.mem) ∧
    (q.down = false → exec .linkBringUp s = .refused .notEnabled) ∧
    (let die := s.about.die
      let link := s.about.index
      die < 4 → link < 2 →
      (link ∉ (s.die die).cxlDown → (s.die die).cxlDown ≠ [] ∨ (∀ k c, (k, c) ∈ s.contexts → c.en = false) → ∃ u : State, s.Takes .cxlLinkFailure u ∧
        link ∈ (u.die die).cxlDown ∧ (u.report (32 + 2 * die + link)).down = true ∧ u.mem = s.mem) ∧
      (link ∈ (s.die die).cxlDown → exec .cxlLinkFailure s = .refused .notEnabled ∧
        ∃ u : State, s.Takes .cxlLinkRestore u ∧ link ∉ (u.die die).cxlDown ∧
          (u.report (32 + 2 * die + link)).down = false)) ∧
    (∀ l e, s.about.link = some l → s.about.eye = some e →
      let r := s.report (linkKey l)
      let period := s.tick / 2 ^ 24
      (period ≤ r.period → exec .eyeMeasurement s = .refused .notEnabled) ∧
      (r.period < period → ∃ u : State, s.Takes .eyeMeasurement u ∧ u.mem = s.mem ∧
        let q := u.report (linkKey l)
        let low := (e.width : Int) + q.slope * (r.hor : Int) < (r.thr : Int)
        (q.width, q.height, q.lane, q.period, q.thr, q.hor, q.down) =
          (e.width, e.height, e.lane, period, r.thr, r.hor, r.down) ∧
        (r.period = 0 → q.slope = 0) ∧
        (r.period ≠ 0 → -32768 ≤ (((e.width : Int) - r.width) * 64 / ((period - r.period : Nat) : Int)) →
          (((e.width : Int) - r.width) * 64 / ((period - r.period : Nat) : Int)) ≤ 32767 →
          q.slope = ((e.width : Int) - r.width) * 64 / ((period - r.period : Nat) : Int)) ∧
        q.fecc = Nat.min (r.fecc + e.fecc) 0xFFFFFFFF ∧ q.fecu = Nat.min (r.fecu + e.fecu) 0xFFFFFFFF ∧
        q.alert = (r.alert || decide low) ∧ (low → u.msix.look 67 = some s.tick))) ∧
    let die := s.about.index / 2 ^ 39
    let pa := s.about.index % 2 ^ 39
    (∀ a, s.about.access = some a → s.dev.stage ≠ 3 ∨ 4 ≤ die → s.Takes .hostCxlMemAccess (s.answerHost true [] [])) ∧
    (s.dev.stage = 3 → die < 4 →
      (∀ n, s.about.access = some (.read n) → pa + n ≤ 2 ^ 39 →
        ((∀ w, w ∈ (s.die die).hostWin → w.2.permits pa n false = false) → s.Takes .hostCxlMemAccess
          (({ s with dev := { s.dev with hostvio := true } } : State).answerHost false (List.replicate n 0)
            (List.replicate (unitsIn pa n) true))) ∧
        (∀ w, w ∈ (s.die die).hostWin → w.1 < 8 → w.2.permits pa n false = true →
          (∀ j, j < n → s.accessHeld (hbmKey die (pa + j)) = false) → s.Takes .hostCxlMemAccess
            (s.answerHost false ((List.range n).map fun j => s.byte (hbmKey die (pa + j)))
              ((List.range (unitsIn pa n)).map fun j => s.poisoned (hbmKey die (pa / 16 * 16 + 16 * j)))))) ∧
      ∀ bs, s.about.access = some (.write bs) → pa + bs.length ≤ 2 ^ 39 →
        ((∀ w, w ∈ (s.die die).hostWin → w.2.permits pa bs.length true = false) → s.Takes .hostCxlMemAccess
          (({ s with dev := { s.dev with hostvio := true } } : State).answerHost false [] [])) ∧
        ∀ key w, bs ≠ [] → (∀ j, j < bs.length → hbmKey die (pa + j) = key + j ∧ s.accessHeld (key + j) = false) →
          key % 128 + bs.length ≤ 128 → w ∈ (s.die die).hostWin → w.1 < 8 →
          w.2.permits pa bs.length true = true → (s.retired key || s.linkLost key) = false →
          ∃ u : State, s.Takes .hostCxlMemAccess u ∧ (∀ j, j < bs.length → u.byte (key + j) = bs.getD j 0) ∧
            (∀ n, ¬(key ≤ n ∧ n < key + bs.length) → u.byte n = s.byte n) ∧
            (u.die die).lines.look (key / 128) = none)

/-! ## Decoding and encoding (03 R72 to R80) -/

/-- (R75, R78, R80, R130.) Words the spec writes out decode to the instructions it names. -/
def Obligations.WordsOfTheSpec : Prop :=
  decode 0x02850A96 0 = .instr (.mad 0 20 21 22) ∧ decode 0x0381C409 0 = .instr (.divs 0 7 8 9) ∧
    decode 0x200142FF 0 = .instr (.addi 0 5 5 0x7F) ∧ decode 0x28031234 0 = .instr (.movk 3 0x1234) ∧
    decode 0x290A0000 0x3FC00000 = .instr (.lit 10 0x3FC00000) ∧ decode 0x61850049 0 = .instr (.tagw 5 0x49) ∧
    decode 0x69030380 0 = .instr (.voteBal 0 12 7) ∧ decode 0xA2830101 0 = .instr (.ldd 0 12 2 1) ∧
    decode 0xB0014303 0 = .instr (.lds 0 5 6 3) ∧ decode 0xC4850416 0 = .instr (.acas64 0 20 8 22) ∧
    decode 0xE1000400 0 = .instr (.mma 0 0 8 0) ∧ decode 0xE6050B18 0 = .instr (.cpy 0 20 22 24) ∧
    decode 0xD5028205 0 = .instr (.cwxch 0 10 4 5) ∧ decode 0x90050415 0 = .instr (.pgmap 0 20 8 21) ∧
    decode 0x86000000 0 = .instr (.exit 0) ∧ decode 0xF5804000 0 = .instr (.bcolr 0 1 0)

/-- (R72, R75, R76, R78, R80, R82.) Every well-formed operation is read back from its words, whatever bytes follow. -/
def Obligations.DecodeReadsBackEveryEncoding : Prop :=
  ∀ (i : Instr) (rest : List Byte), i.encodable = true → i.wellFormed = true →
    decodeBytes ((encode i).flatMap bytesOfWord ++ rest) = some (.instr i, rest)

/-! ## Steps and fetches (01 R18; 03 R73; 06 R161) -/

namespace Sys2Proof.Machine

/-- What a fetch leaves as it was: everything of the device but caches and counts of accesses. -/
abbrev FetchKeeps (s u : State) : Prop :=
  u.groups = s.groups ∧ u.ops = s.ops ∧ u.cur = s.cur ∧ u.view = s.view ∧ u.cycle = s.cycle ∧ u.schedule = s.schedule ∧
    u.contexts = s.contexts ∧ u.nextOp = s.nextOp ∧ u.progress = s.progress ∧
    ((∀ d, (s.die d).smp.ctl.getLsbD 0 = false) → u.mem = s.mem)

end Sys2Proof.Machine

/-- (R18, R72, R73, R80, R161, R227, R245.) A word is fetched from memory, where the read-only partition of the core
does not hold its line, and an instruction is decoded from its words. A step whose turn is a lane block issues the
decoded instruction of the fragment whose turn it is, once its registers are free and neither a fence nor an earlier
acquire holds it: it is exec of that instruction, after which every wait is looked at again and the issue is noted. A
step of a bank engine, a walker or an event is exec too. The order in which units move is the model's schedule
(assumption log 1). -/
def Obligations.StepRunsTheDecodedInstruction : Prop :=
  (∀ (s : State) (fr : Frame) (va : DWord) (key : Nat), s.locate (some fr.g.core) fr.g.ctx va .fetch fr.priv = .ok key →
    (s.core fr.g.core).ro.look (roKey fr.g.ctx va) = none → s.accessHeld key = false → s.poisonedIn key 4 = false →
    va.toNat % 4 = 0 → key % 128 = va.toNat % 128 → spaceOf key < 8 →
    (∀ d, (s.die d).smp.ctl.getLsbD 0 = false) →
    (∀ t, t ∈ slotsOf fr.act → s.roInOrder fr.g.core fr.gid fr.wid t s.nextOp key 4 = true) →
    ∃ u : State, s.fetchWord fr va = (u, .got (wordOfBytes (s.bytes key 4))) ∧ FetchKeeps s u) ∧
  (∀ (s u : State) (fr : Frame) (w : Word), s.fetchWord fr (pcAddr fr.f.pc) = (u, .got w) →
    (wordIsLong w = false → s.fetch fr = (u, .got (w, decode w 0))) ∧
    ∀ v l, wordIsLong w = true → u.fetchWord fr (pcAddr fr.f.pc + 4) = (v, .got l) →
      s.fetch fr = (v, .got (w, decode w l))) ∧
  (∀ (s u : State) (rest : List Turn) (core block : Nat) (fr : Frame) (more : List (Nat × Nat × Nat)) (w : Word)
    (i : Instr), s.schedule = .issue core block :: rest →
    s.nextFragments core block = (fr.gid, fr.wid, fr.ent) :: more → s.blockFree core block 1 = true →
    let s0 : State := { s with schedule := rest, cur := .wave fr.gid fr.wid fr.ent, view := none }
    s0.frame? = some fr → s0.fetch fr = (u, .got (w, .instr i)) → u.interlocked fr i = false →
    u.fenced fr i = false → u.behindAcquire fr i = false → fr.w.readyAt i ≤ u.cycle →
    ∀ t, exec i u = .next t →
      let v := t.wake
      let x := (fr.gid, fr.wid, fr.ent)
      let stop := u.stopAt fr.g.core fr.w.slot x (fr.reads i) (v.cyclesOf u.nextOp i)
      let y := if v.testsAgain x = true ∨ fr.f.counting = true then v
        else (v.noteIssue fr.g.core fr.w.slot x i (fr.wrote i v) stop).onWave fr.gid fr.wid fun w => w.spaced fr.w u.cycle stop
      step s = .next { (y.opportunity core block x).watch with cur := .none, view := none }) ∧
  (∀ (s : State) (rest : List Turn) (e : Nat) (p : BankProg) (i : Instr), s.schedule = .bank e :: rest →
    (s.engine e).prog = some p → p.spent = false →
    let word : Nat → Word := fun k => (s.engine e).store.lookD (512 * p.code + k) 0
    p.pc + 1 < 512 → decode (word p.pc) (if wordIsLong (word p.pc) then word (p.pc + 1) else 0) = .instr i →
    ∀ t, exec i { s with schedule := rest, cur := .bank e } = .next t →
      step s = .next { t.wake with cur := .none, view := none }) ∧
  (∀ (s : State) (rest : List Turn) (id k : Nat) (w : Walker) (c : Command) (i : Instr), s.schedule = .walker id :: rest →
    s.walkers.look id = some w → s.commands.look w.cmd = some c → w.place = .running k → c.spent = false → w.pc % 4 = 0 →
    let word : Nat → Word := fun k => c.image.getD k 0
    w.pc / 4 + 1 < c.image.length → c.imageBad = [] →
    decode (word (w.pc / 4)) (if wordIsLong (word (w.pc / 4)) then word (w.pc / 4 + 1) else 0) = .instr i →
    ∀ t, exec i { s.countWalker w.cmd c with schedule := rest, cur := .walker id } = .next t →
      step s = .next { t.wake with cur := .none, view := none }) ∧
  ∀ (s : State) (rest : List Turn) (i : Instr) (p : Particulars), s.schedule = .event i p :: rest → i.encodable = false →
    step s = exec i { s with schedule := rest, cur := .none, about := p }

/-! ## Reset and memory (11 R306; 13 R358; 14 R381, R384) -/

/-- (R13, R306, R358, R368, R378, R379, R381, R384.) Right after reset: stage 0, no error, nothing in flight, no group
and no launch; the registers the spec gives a reset value hold it. -/
def Obligations.ResetState : Prop :=
  let s := State.reset
  s.dev.stage = 0 ∧ s.dev.err = 0 ∧ s.dev.hostvio = false ∧ s.dev.pkgover = false ∧ s.dev.frlost = 0 ∧
    s.dev.asyper = 1200000 ∧ s.dev.pkgcap = 4000 ∧ s.dev.fabGen = false ∧ s.dev.fabPend = false ∧ s.dev.fabBusy = false ∧
    (∀ n, s.dev.egt0.lookD n 0xFFFFFFFF = 0xFFFFFFFF ∧ s.dev.egt1.lookD n 0xFFFFFFFF = 0xFFFFFFFF) ∧
    s.groups = [] ∧ s.saved = [] ∧ s.ops = [] ∧ s.net = [] ∧ s.poison = [] ∧ s.empty = [] ∧
    (∀ c, (s.context c).en = false ∧ (s.context c).stop = false ∧ (s.context c).sup = 0 ∧ (s.context c).saveBase = 0 ∧
      (s.context c).saveSize = 0 ∧ (s.context c).lqres = 0 ∧ (s.context c).harra = 0 ∧ (s.context c).launches = []) ∧
    (∀ d, (s.die d).troot = [] ∧ (s.die d).tpool = [] ∧ (s.die d).asyfail = 0 ∧ (s.die d).retired = [] ∧
      (s.die d).power.req = 0 ∧ (s.die d).power.mduty = 64 ∧ (s.die d).power.cap = 1000 ∧ (s.die d).power.blEn = false ∧
      (s.die d).power.dstep = 8 ∧ (s.die d).power.bstep = 4 ∧ (s.die d).power.dmin = 16 ∧ (s.die d).power.dwell = 5) ∧
    (∀ k, (s.stack k).bact = 16 ∧ (s.stack k).faultMap = [] ∧ (s.stack k).repair.pend = none ∧
      ∀ q, ((s.stack k).queue q).en = false ∧ ((s.stack k).queue q).lgsize = 4) ∧
    ∀ k, (s.switch k).retired = 2 ∧ (s.switch k).busywr = false

/-- (R284.) Memory right after reset is in canonical form: it lists nothing. That unwritten memory reads zero is the
model's choice (assumption log 5). -/
def Obligations.ResetMemoryCanonical : Prop := Memory.wf State.reset.mem = true

/-- (R284.) Every step keeps memory in canonical form: addresses strictly rising, no byte that equals what an unlisted
address reads as. The form is the model's own; that unwritten memory reads zero is the model's choice (assumption log
5). -/
def Obligations.StepKeepsMemoryCanonical : Prop :=
  ∀ s t : State, Memory.wf s.mem = true → step s = .next t → Memory.wf t.mem = true

/-- (R157, R284.) A byte written is read back, and every other byte is as it was; the form of memory is kept. -/
def Obligations.MemoryReadsBack : Prop :=
  (∀ (s : State) (k n : Nat) (x : Byte), (s.setByte k x).byte n = if n = k then x else s.byte n) ∧
  (∀ (s : State) (k : Nat) (l : List Byte) (n : Nat), (s.setBytes k l).byte n =
    if k ≤ n ∧ n < k + l.length then l.getD (n - k) 0 else s.byte n) ∧
  ∀ (s : State) (k : Nat) (l : List Byte), Memory.wf s.mem = true → Memory.wf (s.setBytes k l).mem = true

/-! ## The frame of an instruction that goes on (05 R130) -/

/-- (R9, R129, R143.) Going on after an instruction changes nothing but where the wave's slots are: every register,
tag, flag, counter and control register of the new wave, every other wave, memory and every other unit are as they
were. -/
def Obligations.GoingOnKeepsTheRest : Prop :=
  ∀ (s : State) (fr : Frame) (w : Wave) (i : Instr),
    (∃ w' : Wave, s.finish fr w i = { s with
        groups := s.groups.change fr.gid fun g => { g with waves := g.waves.put fr.wid w' }, progress := s.progress + 1 } ∧
      { w' with split := w.split, loops := w.loops, nextLoop := w.nextLoop } = w) ∧
    ∀ a, (s.finish fr w i).byte a = s.byte a
end

