-- ==== Sys2Proof/Laws/Table.lean ====
section
/-! SUPPORT. The laws of the sparse table: read after write, and the canonical form every operation keeps. -/

namespace Sys2Proof

variable {α : Type}

/-! ## Read after write -/

@[simp] theorem Tab.look_nil (q : Nat) : Tab.look ([] : Tab α) q = none := rfl

theorem Tab.look_cons (k : Nat) (v : α) (r : Tab α) (q : Nat) :
    Tab.look ((k, v) :: r) q = if q = k then some v else Tab.look r q := rfl

theorem Tab.look_put (t : Tab α) (k : Nat) (x : α) (q : Nat) :
    Tab.look (Tab.put t k x) q = if q = k then some x else Tab.look t q := by
  induction t with
  | nil => rfl
  | cons e r ih =>
    obtain ⟨j, v⟩ := e
    simp only [Tab.put]
    split
    · rfl
    · split
      · next h => subst h; simp only [Tab.look_cons]; split <;> rfl
      · next hk =>
        simp only [Tab.look_cons, ih]
        by_cases h : q = j
        · subst h; simp only [if_pos]; rw [if_neg (Ne.symm hk)]
        · simp only [if_neg h]

theorem Tab.look_del (t : Tab α) (k q : Nat) : Tab.look (Tab.del t k) q = if q = k then none else Tab.look t q := by
  induction t with
  | nil => simp [Tab.del]
  | cons e r ih =>
    obtain ⟨j, v⟩ := e
    simp only [Tab.del]
    split
    · next h => subst h; rw [ih, Tab.look_cons]; split <;> rfl
    · next hk =>
      simp only [Tab.look_cons, ih]
      by_cases h : q = j
      · subst h; simp only [if_pos]; rw [if_neg (Ne.symm hk)]
      · simp only [if_neg h]

@[simp] theorem Tab.lookD_nil (q : Nat) (d : α) : Tab.lookD ([] : Tab α) q d = d := rfl

theorem Tab.lookD_put (t : Tab α) (k : Nat) (x : α) (q : Nat) (d : α) :
    Tab.lookD (Tab.put t k x) q d = if q = k then x else Tab.lookD t q d := by
  simp only [Tab.lookD, Tab.look_put]; split <;> rfl

theorem Tab.lookD_del (t : Tab α) (k q : Nat) (d : α) :
    Tab.lookD (Tab.del t k) q d = if q = k then d else Tab.lookD t q d := by
  simp only [Tab.lookD, Tab.look_del]; split <;> rfl

theorem Tab.lookD_write [DecidableEq α] (d : α) (t : Tab α) (k : Nat) (x : α) (q : Nat) :
    Tab.lookD (Tab.write d t k x) q d = if q = k then x else Tab.lookD t q d := by
  unfold Tab.write
  split
  · next h => subst h; exact Tab.lookD_del t k q x
  · exact Tab.lookD_put t k x q d

theorem Tab.look_change (t : Tab α) (k : Nat) (f : α → α) (q : Nat) :
    Tab.look (Tab.change t k f) q = if q = k then (Tab.look t k).map f else Tab.look t q := by
  unfold Tab.change
  split
  · next x h => rw [Tab.look_put]; simp only [h, Option.map_some]
  · next h =>
    split
    · next e => subst e; simp [h]
    · rfl

theorem Tab.lookD_modify (t : Tab α) (k : Nat) (d : α) (f : α → α) (q : Nat) :
    Tab.lookD (Tab.modify t k d f) q d = if q = k then f (Tab.lookD t k d) else Tab.lookD t q d :=
  Tab.lookD_put t k _ q d

theorem Tab.look_append (s t : Tab α) (q : Nat) : Tab.look (s ++ t) q = (Tab.look s q).or (Tab.look t q) := by
  induction s with
  | nil => rfl
  | cons e r ih =>
    obtain ⟨j, v⟩ := e
    simp only [List.cons_append, Tab.look_cons, ih]
    split <;> rfl

/-- A column of values over the keys below n, defaults left out, reads as the values. -/
theorem Tab.lookD_column [DecidableEq α] (f : Nat → α) (d : α) (n q : Nat) :
    Tab.lookD ((List.range n).filterMap fun t => if f t = d then none else some (t, f t)) q d =
      if q < n then f q else d := by
  have key : Tab.look ((List.range n).filterMap fun t => if f t = d then none else some (t, f t)) q =
      if q < n ∧ f q ≠ d then some (f q) else none := by
    induction n with
    | zero => simp
    | succ n ih =>
      rw [List.range_succ, List.filterMap_append, Tab.look_append, ih]
      by_cases hq : q = n
      · subst hq
        by_cases hd : f q = d <;> simp [hd, Tab.look_cons]
      · have : (q < n + 1) = (q < n) := by simp; omega
        by_cases hd : f n = d <;> simp [hd, Tab.look_cons, hq, this]
  unfold Tab.lookD
  rw [key]
  by_cases hq : q < n <;> by_cases hd : f q = d <;> simp [hq, hd]

/-! ## The canonical form -/

/-- A key bounds the rest of a rising table. -/
theorem Tab.risesFrom_mono {lo lo' : Nat} (h : lo ≤ lo') {t : Tab α} (ht : Tab.risesFrom (some lo') t = true) :
    Tab.risesFrom (some lo) t = true := by
  cases t with
  | nil => rfl
  | cons e r =>
    simp only [Tab.risesFrom, Bool.and_eq_true, decide_eq_true_eq] at ht ⊢
    exact ⟨by omega, ht.2⟩

theorem Tab.risesFrom_none {lo : Nat} {t : Tab α} (ht : Tab.risesFrom (some lo) t = true) :
    Tab.risesFrom none t = true := by
  cases t with
  | nil => rfl
  | cons e r => simp only [Tab.risesFrom, Bool.true_and, Bool.and_eq_true] at ht ⊢; exact ht.2

/-- The bound of a table is below a key. -/
def Tab.under (lo : Option Nat) (k : Nat) : Prop := ∀ b, lo = some b → b < k

theorem Tab.risesFrom_cons (lo : Option Nat) (k : Nat) (v : α) (r : Tab α) :
    Tab.risesFrom lo ((k, v) :: r) = true ↔ Tab.under lo k ∧ Tab.risesFrom (some k) r = true := by
  cases lo <;> simp [Tab.risesFrom, Tab.under]

theorem Tab.risesFrom_under {lo : Option Nat} {k : Nat} (h : Tab.under lo k) {t : Tab α}
    (ht : Tab.risesFrom (some k) t = true) : Tab.risesFrom lo t = true := by
  cases lo with
  | none => exact Tab.risesFrom_none ht
  | some b => exact Tab.risesFrom_mono (Nat.le_of_lt (h b rfl)) ht

theorem Tab.risesFrom_put {lo : Option Nat} {t : Tab α} (ht : Tab.risesFrom lo t = true) {k : Nat}
    (hk : Tab.under lo k) (x : α) : Tab.risesFrom lo (Tab.put t k x) = true := by
  induction t generalizing lo with
  | nil => exact (Tab.risesFrom_cons lo k x []).2 ⟨hk, rfl⟩
  | cons e r ih =>
    obtain ⟨j, v⟩ := e
    obtain ⟨h1, h2⟩ := (Tab.risesFrom_cons lo j v r).1 ht
    simp only [Tab.put]
    split
    · next h =>
      exact (Tab.risesFrom_cons ..).2 ⟨hk, (Tab.risesFrom_cons ..).2 ⟨fun b hb => by cases hb; exact h, h2⟩⟩
    · split
      · next h => subst h; exact (Tab.risesFrom_cons ..).2 ⟨hk, h2⟩
      · exact (Tab.risesFrom_cons ..).2 ⟨h1, ih h2 fun b hb => by cases hb; omega⟩

theorem Tab.risesFrom_filter {lo : Option Nat} {t : Tab α} (ht : Tab.risesFrom lo t = true) (p : Nat × α → Bool) :
    Tab.risesFrom lo (t.filter p) = true := by
  induction t generalizing lo with
  | nil => rfl
  | cons e r ih =>
    obtain ⟨j, v⟩ := e
    obtain ⟨h1, h2⟩ := (Tab.risesFrom_cons lo j v r).1 ht
    simp only [List.filter]
    split
    · exact (Tab.risesFrom_cons ..).2 ⟨h1, ih h2⟩
    · exact Tab.risesFrom_under h1 (ih h2)

theorem Tab.del_eq_filter (t : Tab α) (k : Nat) : Tab.del t k = t.filter fun e => !decide (k = e.1) := by
  induction t with
  | nil => rfl
  | cons e r ih =>
    obtain ⟨j, v⟩ := e
    simp only [Tab.del, List.filter]
    split
    · next h => subst h; simpa using ih
    · next h => simp [h, ih]

theorem Tab.canon_nil [DecidableEq α] (d : α) : Tab.canon d ([] : Tab α) = true := rfl

theorem Tab.canon_filter [DecidableEq α] {d : α} {t : Tab α} (h : Tab.canon d t = true) (p : Nat × α → Bool) :
    Tab.canon d (t.filter p) = true := by
  simp only [Tab.canon, Bool.and_eq_true, List.all_eq_true] at h ⊢
  exact ⟨Tab.risesFrom_filter h.1 p, fun e he => h.2 e (List.mem_filter.1 he).1⟩

theorem Tab.mem_put {t : Tab α} {k : Nat} {x : α} {e : Nat × α} (h : e ∈ Tab.put t k x) : e = (k, x) ∨ e ∈ t := by
  induction t with
  | nil => exact .inl (List.mem_singleton.1 h)
  | cons f r ih =>
    obtain ⟨j, v⟩ := f
    simp only [Tab.put] at h
    split at h
    · exact List.mem_cons.1 h
    · split at h
      · rcases List.mem_cons.1 h with h | h
        · exact .inl h
        · exact .inr (List.mem_cons_of_mem _ h)
      · rcases List.mem_cons.1 h with h | h
        · exact .inr (h ▸ List.mem_cons_self ..)
        · exact (ih h).imp id fun h => List.mem_cons_of_mem _ h

/-- A write keeps the canonical form. -/
theorem Tab.canon_write [DecidableEq α] {d : α} {t : Tab α} (h : Tab.canon d t = true) (k : Nat) (x : α) :
    Tab.canon d (Tab.write d t k x) = true := by
  unfold Tab.write
  split
  · rw [Tab.del_eq_filter]; exact Tab.canon_filter h _
  · next hx =>
    simp only [Tab.canon, Bool.and_eq_true, List.all_eq_true, Bool.not_eq_true', decide_eq_false_iff_not] at h ⊢
    refine ⟨Tab.risesFrom_put h.1 (fun _ hb => by cases hb) x, fun e he => ?_⟩
    rcases Tab.mem_put he with rfl | he
    · exact hx
    · exact h.2 e he

end Sys2Proof
end

