-- ==== Sys2Proof/Laws/Wave.lean ====
section
/-! SUPPORT. Registers and tags of a wave, of a bank wave and of a walker: read after write, and what a result leaves. -/

namespace Sys2Proof.Machine

/-! ## Masks -/

theorem slotBit_getLsbD (u t : Nat) : (slotBit u).getLsbD t = (decide (t < 64) && decide (t = u)) := by
  unfold slotBit
  rw [BitVec.getLsbD_shiftLeft]
  by_cases h : t = u
  · subst h; simp
  · by_cases h1 : t < u
    · simp [h, h1]
    · have : t - u ≠ 0 := by omega
      simp [h, BitVec.getLsbD_one, this]

theorem maskOf_foldl (ts : List Nat) (m : DWord) (t : Nat) :
    (ts.foldl (fun m t => m ||| slotBit t) m).getLsbD t = (m.getLsbD t || (decide (t < 64) && ts.contains t)) := by
  induction ts generalizing m with
  | nil => simp
  | cons u r ih =>
    rw [List.foldl_cons, ih, BitVec.getLsbD_or, slotBit_getLsbD, List.contains_cons]
    by_cases h2 : t = u
    · subst h2; cases m.getLsbD t <;> by_cases h : t < 64 <;> simp [h]
    · simp only [beq_eq_false_iff_ne.2 h2, h2, decide_false, Bool.and_false, Bool.or_false, Bool.false_or]

theorem inMask_maskOf (ts : List Nat) (t : Nat) : inMask (maskOf ts) t = (decide (t < 64) && ts.contains t) := by
  unfold inMask maskOf
  rw [maskOf_foldl]
  simp

theorem mem_slotsOf (m : DWord) (t : Nat) : t ∈ slotsOf m ↔ t < 64 ∧ inMask m t = true := by
  simp [slotsOf]

theorem lowest_mem {m : DWord} {u : Nat} (h : lowest m = some u) : u < 64 ∧ inMask m u = true := by
  unfold lowest at h
  exact ⟨List.mem_range.1 (List.mem_of_find?_eq_some h), List.find?_some h⟩

theorem maskOf_nil : maskOf [] = 0 := rfl

theorem and_not_zero (m : DWord) : m &&& ~~~(0 : DWord) = m := by
  rw [show ~~~(0 : DWord) = BitVec.allOnes 64 from rfl, BitVec.and_allOnes]

/-! ## Registers of a wave -/

theorem column_eq (f : Nat → Word) (t : Nat) : Tab.lookD (column f) t 0 = if t < 64 then f t else 0 :=
  Tab.lookD_column f 0 64 t

theorem Wave.reg_writeCol (w : Wave) (n : Nat) (m : DWord) (f : Nat → Word) (k t : Nat) (ht : t < 64) :
    (w.writeCol n m f).reg k t = if n ≠ 0 ∧ k = n ∧ inMask m t = true then f t else w.reg k t := by
  unfold Wave.writeCol
  by_cases hn : n = 0
  · simp [hn]
  · rw [if_neg hn]
    by_cases hk : k = n
    · subst hk
      have e : (({ w with regs := w.regs.write [] k (column fun t => if inMask m t then f t else w.reg k t) } : Wave)).reg k t
          = Tab.lookD (column fun t => if inMask m t then f t else w.reg k t) t 0 := by
        unfold Wave.reg
        rw [if_neg hn]
        simp only [Tab.lookD_write, if_pos]
      rw [e, column_eq, if_pos ht]
      simp [hn]
    · have e : (({ w with regs := w.regs.write [] n (column fun t => if inMask m t then f t else w.reg n t) } : Wave)).reg k t
          = w.reg k t := by
        unfold Wave.reg
        simp only [Tab.lookD_write, if_neg hk]
      rw [e]; simp [hk]

theorem Wave.writeCol_rest (w : Wave) (n : Nat) (m : DWord) (f : Nat → Word) :
    { w.writeCol n m f with regs := w.regs } = w := by
  unfold Wave.writeCol; split <;> rfl

theorem Wave.reg_writePair (w : Wave) (n : Nat) (m : DWord) (f : Nat → DWord) (k t : Nat) (ht : t < 64) :
    (w.writePair n m f).reg k t =
      if n ≠ 0 ∧ k = n ∧ inMask m t = true then (f t).extractLsb' 0 32
      else if n ≠ 0 ∧ k = n + 1 ∧ inMask m t = true then (f t).extractLsb' 32 32
      else w.reg k t := by
  unfold Wave.writePair
  by_cases hn : n = 0
  · simp [hn]
  · rw [if_neg hn, Wave.reg_writeCol _ _ _ _ _ _ ht, Wave.reg_writeCol _ _ _ _ _ _ ht]
    by_cases h1 : k = n
    · subst h1; simp [hn]
    · simp [h1, hn]

theorem Wave.writePair_rest (w : Wave) (n : Nat) (m : DWord) (f : Nat → DWord) :
    { w.writePair n m f with regs := w.regs } = w := by
  unfold Wave.writePair
  split
  · rfl
  · generalize he : w.writeCol n m _ = x
    have h1 : { x with regs := w.regs } = w := he ▸ Wave.writeCol_rest w n m _
    have h2 := Wave.writeCol_rest x (n + 1) m fun t => (f t).extractLsb' 32 32
    exact (congrArg (fun y : Wave => { y with regs := w.regs }) h2).trans h1

theorem Wave.tag_setTag (w : Wave) (n : Nat) (g : Byte) (k : Nat) :
    (w.setTag n g).tag k = if n ≠ 0 ∧ k = n then g else w.tag k := by
  unfold Wave.setTag
  by_cases hn : n = 0
  · simp [hn]
  · rw [if_neg hn]
    unfold Wave.tag
    by_cases hk : k = 0
    · have : k ≠ n := by omega
      simp [hk, hn]; omega
    · simp only [if_neg hk, Tab.lookD_write]
      simp [hn]

theorem Wave.setTag_rest (w : Wave) (n : Nat) (g : Byte) : { w.setTag n g with tags := w.tags } = w := by
  unfold Wave.setTag; split <;> rfl

theorem Wave.setTag_regs (w : Wave) (n : Nat) (g : Byte) : (w.setTag n g).regs = w.regs := by
  unfold Wave.setTag; split <;> rfl

theorem Wave.setPairTag_eq (w : Wave) (n : Nat) (g : Byte) :
    w.setPairTag n g = if n = 0 then w else (w.setTag n g).setTag (n + 1) g := rfl

theorem Wave.tag_setPairTag (w : Wave) (n : Nat) (g : Byte) (k : Nat) :
    (w.setPairTag n g).tag k = if n ≠ 0 ∧ (k = n ∨ k = n + 1) then g else w.tag k := by
  rw [Wave.setPairTag_eq]
  by_cases hn : n = 0
  · simp [hn]
  · rw [if_neg hn, Wave.tag_setTag, Wave.tag_setTag]
    by_cases h1 : k = n <;> by_cases h2 : k = n + 1 <;> simp [h1, h2, hn]

theorem Wave.setPairTag_rest (w : Wave) (n : Nat) (g : Byte) : { w.setPairTag n g with tags := w.tags } = w := by
  rw [Wave.setPairTag_eq]
  split
  · rfl
  · have h2 := Wave.setTag_rest (w.setTag n g) (n + 1) g
    exact (congrArg (fun y : Wave => { y with tags := w.tags }) h2).trans (Wave.setTag_rest w n g)

theorem Wave.setPairTag_regs (w : Wave) (n : Nat) (g : Byte) : (w.setPairTag n g).regs = w.regs := by
  rw [Wave.setPairTag_eq]; split
  · rfl
  · rw [Wave.setTag_regs, Wave.setTag_regs]

theorem Wave.reg_of_regs {w w' : Wave} (h : w'.regs = w.regs) (n t : Nat) : w'.reg n t = w.reg n t := by
  unfold Wave.reg; rw [h]

theorem Wave.tag_of_tags {w w' : Wave} (h : w'.tags = w.tags) (n : Nat) : w'.tag n = w.tag n := by
  unfold Wave.tag; rw [h]

theorem Wave.writeCol_tags (w : Wave) (n : Nat) (m : DWord) (f : Nat → Word) : (w.writeCol n m f).tags = w.tags := by
  unfold Wave.writeCol; split <;> rfl

theorem Wave.writePair_tags (w : Wave) (n : Nat) (m : DWord) (f : Nat → DWord) : (w.writePair n m f).tags = w.tags := by
  unfold Wave.writePair; split
  · rfl
  · rw [Wave.writeCol_tags, Wave.writeCol_tags]

/-! ## What committing a result does -/

theorem Wave.reg_commit (w : Wave) (o : VecOp) (m : DWord) (f : Nat → DWord) (tag : Option Byte) (n t : Nat)
    (ht : t < 64) :
    (w.commit o m f tag).reg n t =
      if o.d.toNat ≠ 0 ∧ n = o.d.toNat ∧ inMask m t = true then (f t).extractLsb' 0 32
      else if o.d.toNat ≠ 0 ∧ o.wide = true ∧ n = o.d.toNat + 1 ∧ inMask m t = true then (f t).extractLsb' 32 32
      else w.reg n t := by
  have key : ∀ x : Wave, (match tag with
      | some t => if o.wide then x.setPairTag o.d.toNat t else x.setTag o.d.toNat t
      | none => x).reg n t = x.reg n t := by
    intro x
    cases tag with
    | none => rfl
    | some g =>
      by_cases h : o.wide = true
      · simp only [h, if_true]; exact Wave.reg_of_regs (Wave.setPairTag_regs ..) ..
      · simp only [h, Bool.false_eq_true, if_false]; exact Wave.reg_of_regs (Wave.setTag_regs ..) ..
  unfold Wave.commit
  refine (key _).trans ?_
  by_cases h : o.wide = true
  · simp only [h, if_true, true_and]; exact Wave.reg_writePair _ _ _ _ _ _ ht
  · simp only [h, Bool.false_eq_true, if_false, false_and, and_false]; exact Wave.reg_writeCol _ _ _ _ _ _ ht

theorem Wave.tag_commit (w : Wave) (o : VecOp) (m : DWord) (f : Nat → DWord) (tag : Option Byte) (n : Nat) :
    (w.commit o m f tag).tag n =
      match tag with
      | some g => if o.d.toNat ≠ 0 ∧ (n = o.d.toNat ∨ o.wide = true ∧ n = o.d.toNat + 1) then g else w.tag n
      | none => w.tag n := by
  have key : (if o.wide then w.writePair o.d.toNat m f
      else w.writeCol o.d.toNat m fun t => (f t).extractLsb' 0 32).tags = w.tags := by
    split
    · exact Wave.writePair_tags ..
    · exact Wave.writeCol_tags ..
  unfold Wave.commit
  cases tag with
  | none => exact Wave.tag_of_tags key n
  | some g =>
    by_cases h : o.wide = true
    · simp only [h, if_true, true_and]; rw [Wave.tag_setPairTag, Wave.tag_of_tags (Wave.writePair_tags ..)]
    · simp only [h, Bool.false_eq_true, if_false, false_and, or_false]
      rw [Wave.tag_setTag, Wave.tag_of_tags (Wave.writeCol_tags ..)]

theorem Wave.commit_rest (w : Wave) (o : VecOp) (m : DWord) (f : Nat → DWord) (tag : Option Byte) :
    { w.commit o m f tag with regs := w.regs, tags := w.tags } = w := by
  unfold Wave.commit
  generalize hx : (if o.wide then w.writePair o.d.toNat m f
      else w.writeCol o.d.toNat m fun t => (f t).extractLsb' 0 32) = x
  have h1 : { x with regs := w.regs } = w := by
    subst hx; split
    · exact Wave.writePair_rest ..
    · exact Wave.writeCol_rest ..
  have h2 : ∀ y : Wave, y.regs = x.regs → { y with tags := x.tags } = x →
      { y with regs := w.regs, tags := w.tags } = w := fun y _ hy =>
    (congrArg (fun z : Wave => { z with regs := w.regs, tags := w.tags }) hy).trans
      (congrArg (fun z : Wave => { z with tags := w.tags }) h1)
  cases tag with
  | none => exact h2 x rfl rfl
  | some g =>
    by_cases h : o.wide = true
    · simp only [h, if_true]; exact h2 _ (Wave.setPairTag_regs ..) (Wave.setPairTag_rest ..)
    · simp only [h, Bool.false_eq_true, if_false]; exact h2 _ (Wave.setTag_regs ..) (Wave.setTag_rest ..)

end Sys2Proof.Machine
end

