-- ==== Sys2Proof/Laws/Units.lean ====
section
/-! SUPPORT. What comes before an instruction's own effect on each unit, and what an operation of opcode groups 0 to 3 then
does: the lemmas every statement about an instruction starts from. -/

namespace Sys2Proof.Machine

/-! ## Before an instruction's own effect -/

/-- A starting instruction of a core runs its effect. -/
theorem onCore_starts {i : Instr} {s : State} {fr : Frame} (h : Starts s fr i) (k : Frame → State) :
    onCore i s k = .next (k fr) := by
  obtain ⟨hf, hl, hr, hb, hn, hp, ha⟩ := h
  have hp' : (needsPrivilege i && !fr.priv) = false := by
    cases hx : needsPrivilege i with
    | false => rfl
    | true => simp [Frame.priv, hp hx]
  have ha' : (!placesSlots i && (fr.w.advance fr.ent fr.f (sizeOf4 i / 4) s.cycle).isNone) = false := by
    cases hx : placesSlots i with
    | true => rfl
    | false => simpa [Option.isNone_eq_false_iff] using ha hx
  unfold onCore
  simp only [hf, hl, hr, hb, hn, hp', ha', Bool.not_true, Bool.false_eq_true, if_false]

/-- A frame names a wave that is issuing. -/
theorem frame_cur {s : State} {fr : Frame} (h : s.frame? = some fr) : s.cur = .wave fr.gid fr.wid fr.ent := by
  unfold State.frame? at h
  split at h
  · next hc =>
    split at h
    · cases h
    · split at h
      · cases h
      · split at h
        · cases h
        · cases h; exact hc
  · cases h

/-- The parts of a frame stand in the state. -/
theorem frame_parts {s : State} {fr : Frame} (h : s.frame? = some fr) :
    s.groups.look fr.gid = some fr.g ∧ fr.g.waves.look fr.wid = some fr.w ∧ fr.w.frag? fr.ent = some fr.f ∧
      fr.v = s.view.getD fr.w := by
  unfold State.frame? at h
  split at h
  · split at h
    · cases h
    · split at h
      · cases h
      · split at h
        · cases h
        · cases h; exact ⟨‹_›, ‹_›, ‹_›, rfl⟩
  · cases h

theorem onUnit_starts {i : Instr} {s : State} {fr : Frame} (h : Starts s fr i) (core : Frame → State)
    (bank : Nat → BankProg → State) (walker : Nat → Walker → Command → State) :
    onUnit i s core bank walker = .next (core fr) := by
  unfold onUnit
  rw [frame_cur h.1]
  exact onCore_starts h core

theorem onCoreOnly_starts {i : Instr} {s : State} {fr : Frame} (h : Starts s fr i) (core : Frame → State) :
    onCoreOnly i s core = .next (core fr) := onUnit_starts h core _ _

/-- A starting instruction of a bank program runs its effect. -/
theorem onUnit_bank {i : Instr} {s : State} {e : Nat} {p : BankProg} (h : BankStarts s e p i) (core : Frame → State)
    (bank : Nat → BankProg → State) (walker : Nat → Walker → Command → State) :
    onUnit i s core bank walker = .next (bank e p).moved := by
  obtain ⟨hc, hp, hr, hb, hn⟩ := h
  unfold onUnit
  rw [hc]
  unfold onBank
  simp only [hp, hr, hb, hn, Bool.not_true, Bool.false_eq_true, if_false, if_true]

/-- A starting instruction of a walker runs its effect. -/
theorem onUnit_walker {i : Instr} {s : State} {id : Nat} {w : Walker} {c : Command} (h : WalkerStarts s id w c i)
    (core : Frame → State) (bank : Nat → BankProg → State) (walker : Nat → Walker → Command → State) :
    onUnit i s core bank walker = .next (walker id w c).moved := by
  obtain ⟨hc, hw, hk, hr, hb, hn⟩ := h
  unfold onUnit
  rw [hc]
  unfold onWalker
  simp only [hw, hk, hr, hb, hn, Bool.not_true, Bool.false_eq_true, if_false, if_true]

/-! ## Bank waves and walkers: registers and tags -/

theorem BankProg.reg_writeLanes (p : BankProg) (n : Nat) (m : BitVec 128) (f : Nat → Word) (k l : Nat) (hl : l < 128) :
    (p.writeLanes n m f).reg k l = if n ≠ 0 ∧ k = n ∧ m.getLsbD l = true then f l else p.reg k l := by
  unfold BankProg.writeLanes
  by_cases hn : n = 0
  · simp [hn]
  · rw [if_neg hn]
    unfold BankProg.reg
    by_cases hk : k = n
    · subst hk
      simp only [Tab.lookD_write, if_pos, ne_eq, hn, not_false_eq_true, true_and]
      have := Tab.lookD_column (fun l => if m.getLsbD l then f l else (p.regs.lookD k []).lookD l 0) 0 128 l
      rw [if_pos hl] at this
      exact this
    · simp only [Tab.lookD_write, hk, false_and, and_false, if_false]

theorem BankProg.tag_setTag (p : BankProg) (n : Nat) (g : Byte) (k : Nat) :
    (p.setTag n g).tag k = if n ≠ 0 ∧ k = n then g else p.tag k := by
  unfold BankProg.setTag
  by_cases hn : n = 0
  · simp [hn]
  · rw [if_neg hn]
    unfold BankProg.tag
    by_cases hk : k = 0
    · simp [hk, hn]; omega
    · simp only [if_neg hk, Tab.lookD_write]
      simp [hn]

theorem BankProg.writeLanes_rest (p : BankProg) (n : Nat) (m : BitVec 128) (f : Nat → Word) :
    { p.writeLanes n m f with regs := p.regs } = p := by
  unfold BankProg.writeLanes; split <;> rfl

theorem BankProg.setTag_rest (p : BankProg) (n : Nat) (g : Byte) : { p.setTag n g with tags := p.tags } = p := by
  unfold BankProg.setTag; split <;> rfl

theorem BankProg.setTag_regs (p : BankProg) (n : Nat) (g : Byte) : (p.setTag n g).regs = p.regs := by
  unfold BankProg.setTag; split <;> rfl

theorem BankProg.writeLanes_tags (p : BankProg) (n : Nat) (m : BitVec 128) (f : Nat → Word) :
    (p.writeLanes n m f).tags = p.tags := by
  unfold BankProg.writeLanes; split <;> rfl

theorem BankProg.reg_of_regs {p q : BankProg} (h : q.regs = p.regs) (n l : Nat) : q.reg n l = p.reg n l := by
  unfold BankProg.reg; rw [h]

theorem BankProg.tag_of_tags {p q : BankProg} (h : q.tags = p.tags) (n : Nat) : q.tag n = p.tag n := by
  unfold BankProg.tag; rw [h]

theorem Walker.reg_setReg (w : Walker) (n : Nat) (x : Word) (k : Nat) :
    (w.setReg n x).reg k = if n ≠ 0 ∧ k = n then x else w.reg k := by
  unfold Walker.setReg
  by_cases hn : n = 0
  · simp [hn]
  · rw [if_neg hn]
    unfold Walker.reg
    by_cases hk : k = 0
    · simp [hk, hn]; omega
    · simp only [if_neg hk, Tab.lookD_write]
      simp [hn]

theorem Walker.tag_setTag (w : Walker) (n : Nat) (g : Byte) (k : Nat) :
    (w.setTag n g).tag k = if n ≠ 0 ∧ k = n then g else w.tag k := by
  unfold Walker.setTag
  by_cases hn : n = 0
  · simp [hn]
  · rw [if_neg hn]
    unfold Walker.tag
    by_cases hk : k = 0
    · simp [hk, hn]; omega
    · simp only [if_neg hk, Tab.lookD_write]
      simp [hn]

theorem Walker.setReg_rest (w : Walker) (n : Nat) (x : Word) : { w.setReg n x with regs := w.regs } = w := by
  unfold Walker.setReg; split <;> rfl

theorem Walker.setTag_rest (w : Walker) (n : Nat) (g : Byte) : { w.setTag n g with tags := w.tags } = w := by
  unfold Walker.setTag; split <;> rfl

theorem Walker.setReg_tags (w : Walker) (n : Nat) (x : Word) : (w.setReg n x).tags = w.tags := by
  unfold Walker.setReg; split <;> rfl

theorem Walker.setTag_regs (w : Walker) (n : Nat) (g : Byte) : (w.setTag n g).regs = w.regs := by
  unfold Walker.setTag; split <;> rfl

theorem Walker.reg_of_regs {w w' : Walker} (h : w'.regs = w.regs) (n : Nat) : w'.reg n = w.reg n := by
  unfold Walker.reg; rw [h]

theorem Walker.tag_of_tags {w w' : Walker} (h : w'.tags = w.tags) (n : Nat) : w'.tag n = w.tag n := by
  unfold Walker.tag; rw [h]

/-! ## Operations of groups 0 to 3 -/

theorem handlerMask_self (m : DWord) : handlerMask m m = m := by
  unfold handlerMask
  split <;> simp

theorem trapSets_all (m d : DWord) (pc : Pc) : trapSets m m d pc = [] := by
  unfold trapSets
  simp

theorem Wave.trapped_eq (w : Wave) (fr : Frame) (c : Cause) (reg : Nat) (hr : reg < 128) (he : fr.ent < 16) (uni : Bool) (addr : DWord) (m d : DWord) :
    { w.enterTrap fr.ent (pcAddr fr.f.pc) m uni { cause := c, mask := m, reg := reg, addr := addr, done := d } with
        adopted := false } = w.trapped fr c reg uni addr m := by
  unfold Wave.trapped Wave.enterTrap tcauseWord tstatEntry pcAddr
  rw [Nat.mod_eq_of_lt hr, Nat.mod_eq_of_lt he]
  all_goals congr 1

theorem State.trap_all {s : State} {fr : Frame} (h : fr.TrapsTo s) (w : Wave) (hw : w.tstat = fr.w.tstat) (c : Cause) (reg : Nat) (hr : reg < 128) (uni : Bool)
    (addr : DWord) (done : DWord) :
    s.trap fr uni w { cause := c, mask := fr.act, reg := reg, addr := addr, done := done } = s.trapped fr w c reg uni addr := by
  obtain ⟨h0, he, hn, hs, hv⟩ := h
  rw [← hw] at hn
  have he := Wave.trapped_eq w fr c reg hr he uni addr fr.act done
  unfold State.trap
  simp only [handlerMask_self, hn, hs, trapSets_all, hv, List.length_nil, Nat.not_lt_zero, decide_false, Bool.or_false,
    if_false, Bool.false_eq_true, if_true, Wave.place, bne_self_eq_false, Bool.false_and, he]
  rfl

/-- An instruction of groups 0 to 3 goes on after it on a core, where no check fails and no participating slot meets IV
under MODE.inv_trap: the issuing wave alone has its results. -/
theorem vec_goesOn {i : Instr} {o : VecOp} {s : State} {fr : Frame} (h : Starts s fr i) (hc : o.check fr.look = none)
    (hv : modeInvTrap fr.v.mode = false ∨ ∀ t, hasIV (o.val fr.look t).flags = false) :
    ∃ w : Wave, vec i o s = .next (s.finish fr w i) := by
  rw [vec, onUnit_starts h]
  unfold VecOp.core
  by_cases hu : isUniform i = true
  · rw [if_pos hu]
    unfold VecOp.uniform
    cases hs : fr.uniformSlot with
    | none => exact ⟨_, rfl⟩
    | some u => simp only [hc]; exact ⟨_, rfl⟩
  · rw [if_neg hu]
    have hbad : (if modeInvTrap fr.look.mode then
        maskOf ((slotsOf (if o.guarded then fr.part else fr.act)).filter fun t => hasIV (o.val fr.look t).flags) else 0)
          = 0 := by
      rcases hv with hv | hv
      · exact if_neg (by simpa [Frame.look] using hv)
      · have hn : ∀ l : List Nat, l.filter (fun _ => false) = [] := fun l => by simp
        simp only [hv, hn, maskOf_nil, ite_self]
    simp only [hc, hbad, if_true]
    exact ⟨_, rfl⟩

/-- An operation agrees with a rule where the rule's checks pass. -/
structure Rule.Agrees (r : Rule) (o : VecOp) : Prop where
  d : o.d = r.d
  wide : o.wide = r.wide
  guarded : o.guarded = r.guarded
  check : ∀ v, r.needs v = true → o.check v = r.firstWrong v
  tag : ∀ v, r.passes v = true → o.tag v = r.tag v
  val : ∀ v t, r.passes v = true → o.val v t = { bits := r.val v t, flags := r.flags v t }

theorem View.first_none {v : View} {cs : List (Reg × (Byte → Bool))} (h : cs.all v.ok = true) : v.first cs = none := by
  unfold View.first
  rw [Option.map_eq_none_iff, List.find?_eq_none]
  intro c hc
  have := List.all_eq_true.1 h c hc
  simp [this]

/-- A check of v0 passes. -/
theorem View.ok_zero (v : View) (p : Byte → Bool) : v.ok (0#7, p) = true := rfl

theorem Rule.firstWrong_none {r : Rule} {v : View} (h : r.passes v = true) : r.firstWrong v = none := by
  unfold Rule.passes at h
  rw [Bool.and_eq_true] at h
  exact View.first_none h.1

/-- A check of v0 more changes nothing. -/
theorem View.first_more (v : View) (cs : List (Reg × (Byte → Bool))) (p : Byte → Bool) :
    v.first (cs ++ [((0 : Reg), p)]) = v.first cs := by
  unfold View.first
  rw [List.find?_append]
  simp [View.ok_zero]

/-- Where the rule's checks pass, the operation's do. -/
theorem Rule.Agrees.none {r : Rule} {o : VecOp} (h : r.Agrees o) {v : View} (hv : r.passes v = true) : o.check v = none := by
  have hn : r.needs v = true := by unfold Rule.passes at hv; rw [Bool.and_eq_true] at hv; exact hv.2
  rw [h.check v hn]
  exact Rule.firstWrong_none hv

theorem flagsOf_agrees {r : Rule} {o : VecOp} (h : r.Agrees o) {v : View} (hv : r.passes v = true) (ts : List Nat) :
    flagsOf (o.val v) ts = r.raised v ts := by
  unfold flagsOf Rule.raised
  exact congrArg (fun f => ts.foldl f 0) (funext fun g => funext fun t => by rw [h.val v t hv])

/-- The wave after a commit and its flags is the result of the rule. -/
theorem result_commit (w : Wave) (o : VecOp) (m : DWord) (f : Nat → DWord) (tag : Option Byte) (g : FlagSet) :
    w.Result ((w.commit o m f tag).raise g) o.d.toNat o.wide m f tag g := by
  have hrest := Wave.commit_rest w o m f tag
  have hstat : (w.commit o m f tag).stat = w.stat := by
    have := congrArg Wave.stat hrest
    exact this
  refine ⟨fun n t ht => ?_, fun n => ?_, ?_, ?_⟩
  · exact (Wave.reg_of_regs (w := w.commit o m f tag) rfl n t).trans (Wave.reg_commit w o m f tag n t ht)
  · exact (Wave.tag_of_tags (w := w.commit o m f tag) rfl n).trans (Wave.tag_commit w o m f tag n)
  · show (w.commit o m f tag).stat ||| _ = _
    rw [hstat]
  · have := congrArg (fun y : Wave => { y with stat := w.stat }) hrest
    exact this

theorem maskOf_filter_none {m : DWord} {p : Nat → Bool} (h : (slotsOf m).all (fun t => !p t) = true) :
    maskOf ((slotsOf m).filter p) = 0 := by
  have : (slotsOf m).filter p = [] := by
    rw [List.filter_eq_nil_iff]
    intro t ht
    have := List.all_eq_true.1 h t ht
    simpa using this
  rw [this, maskOf_nil]

theorem Rule.onCore_of_agrees {r : Rule} {o : VecOp} (h : r.Agrees o) (he : ∀ s, exec r.instr s = vec r.instr o s) :
    r.OnCore := by
  intro s fr hs hu hp ht
  have hbad : (if modeInvTrap fr.look.mode then
      maskOf ((slotsOf (if o.guarded then fr.part else fr.act)).filter fun t => hasIV (o.val fr.look t).flags) else 0)
        = 0 := by
    split
    · next hm =>
      apply maskOf_filter_none
      have hm' : modeInvTrap fr.v.mode = true := hm
      simp only [Rule.untrapped, hm', Bool.not_true, Bool.false_or] at ht
      rw [h.guarded]
      refine Eq.trans ?_ ht
      exact congrArg (List.all _) (funext fun t => by rw [h.val _ t hp])
    · rfl
  refine ⟨(fr.w.commit o (r.slots fr) (r.val fr.look) (r.tag fr.look)).raise
    (r.raised fr.look (slotsOf (r.slots fr))), ?_, ?_⟩
  · rw [he, vec, onUnit_starts hs]
    have hm : (if o.guarded then fr.part else fr.act) = r.slots fr := by rw [h.guarded]; rfl
    have hv : (fun t => (o.val fr.look t).bits) = r.val fr.look := funext fun t => by rw [h.val _ t hp]
    unfold VecOp.core
    simp only [hu, Bool.false_eq_true, if_false, h.none hp, hbad, if_true]
    rw [and_not_zero, hm, hv, h.tag _ hp, flagsOf_agrees h hp]
  · rw [← h.d, ← h.wide]
    exact result_commit ..

theorem Rule.uniform_of_agrees {r : Rule} {o : VecOp} (h : r.Agrees o) (hu : isUniform r.instr = true)
    (he : ∀ s, exec r.instr s = vec r.instr o s) : r.Uniform := by
  intro s fr hs
  have key : exec r.instr s = .next (o.uniform r.instr s fr) := by
    rw [he, vec, onUnit_starts hs]; unfold VecOp.core; rw [if_pos hu]
  refine ⟨fun hn => ?_, fun u hu' hp => ?_⟩
  · rw [key]; unfold VecOp.uniform Frame.uniformSlot; rw [hn]
  · refine ⟨fr.w.commit o fr.w.live (fun _ => (o.val fr.look u).bits) (o.tag fr.look), ?_, ?_⟩
    · rw [key]; unfold VecOp.uniform Frame.uniformSlot; simp only [hu', h.none hp]
    · rw [← h.d, ← h.wide, h.val _ _ hp, h.tag _ hp]
      have := result_commit fr.w o fr.w.live (fun _ => r.val fr.look u) (r.tag fr.look) 0
      have e : ∀ x : Wave, x.raise 0 = x := fun x => by
        unfold Wave.raise
        have : x.stat ||| BitVec.setWidth 32 (0 : FlagSet) = x.stat := by simp
        rw [this]
      rwa [e] at this

theorem Rule.onBank_of_agrees {r : Rule} {o : VecOp} (h : r.Agrees o) (he : ∀ s, exec r.instr s = vec r.instr o s) :
    r.OnBank := by
  intro s e p hs hp
  rw [he, vec, onUnit_bank hs]
  unfold VecOp.bank
  simp only [h.none hp]
  refine ⟨_, rfl, ?_⟩
  · have hv : (fun l => (o.val p.look l).bits.extractLsb' 0 32) = fun l => (r.val p.look l).extractLsb' 0 32 :=
      funext fun l => by rw [h.val _ l hp]
    rw [h.d, hv, h.tag _ hp, flagsOf_agrees h hp]
    generalize hq : p.writeLanes r.d.toNat p.mask _ = q
    have hr : ∀ n l, l < 128 → q.reg n l =
        if r.d.toNat ≠ 0 ∧ n = r.d.toNat ∧ p.mask.getLsbD l = true then (r.val p.look l).extractLsb' 0 32
        else p.reg n l := fun n l hl => by subst hq; exact BankProg.reg_writeLanes _ _ _ _ _ _ hl
    have h1 : { q with regs := p.regs } = p := by subst hq; exact BankProg.writeLanes_rest ..
    have h2 : q.tags = p.tags := by subst hq; exact BankProg.writeLanes_tags ..
    have h3 : q.flags = p.flags := by
      have := congrArg BankProg.flags h1
      exact this
    cases htag : r.tag p.look with
    | none =>
      refine ⟨fun n l hl => hr n l hl, fun n => BankProg.tag_of_tags h2 n, ?_, ?_⟩
      · show q.flags ||| _ = _; rw [h3]; rfl
      · exact congrArg (fun y : BankProg => { y with tags := p.tags, flags := p.flags }) h1
    | some g =>
      have h4 := BankProg.setTag_rest q r.d.toNat g
      refine ⟨fun n l hl => ?_, fun n => ?_, ?_, ?_⟩
      · exact (BankProg.reg_of_regs (q := q.setTag r.d.toNat g) (BankProg.setTag_regs ..) n l).trans (hr n l hl)
      · show (q.setTag r.d.toNat g).tag n = _
        rw [BankProg.tag_setTag, BankProg.tag_of_tags h2]
      · show (q.setTag r.d.toNat g).flags ||| _ = _
        have h5 := congrArg BankProg.flags h4
        have h6 : (q.setTag r.d.toNat g).flags = q.flags := h5
        rw [h6, h3]; rfl
      · exact (congrArg (fun y : BankProg => { y with regs := p.regs, tags := p.tags, flags := p.flags }) h4).trans
          (congrArg (fun y : BankProg => { y with tags := p.tags, flags := p.flags }) h1)

theorem Walker.reg_commit (w : Walker) (o : VecOp) (x : DWord) (tag : Option Byte) (n : Nat) :
    (w.commit o x tag).reg n =
      if o.d.toNat ≠ 0 ∧ n = o.d.toNat then x.extractLsb' 0 32
      else if o.d.toNat ≠ 0 ∧ o.wide = true ∧ n = o.d.toNat + 1 then x.extractLsb' 32 32
      else w.reg n := by
  have key : ∀ y : Walker, (match tag with
      | some t => if o.wide && o.d.toNat != 0 then (y.setTag o.d.toNat t).setTag (o.d.toNat + 1) t
          else y.setTag o.d.toNat t
      | none => y).reg n = y.reg n := by
    intro y
    apply Walker.reg_of_regs
    cases tag with
    | none => rfl
    | some g =>
      dsimp only
      split
      · rw [Walker.setTag_regs, Walker.setTag_regs]
      · exact Walker.setTag_regs ..
  unfold Walker.commit
  refine (key _).trans ?_
  by_cases hd : o.d.toNat = 0
  · simp only [hd, bne_self_eq_false, Bool.and_false, Bool.false_eq_true, if_false, ne_eq, not_true, false_and]
    rw [Walker.reg_setReg]; simp
  · by_cases hw : o.wide = true
    · simp only [hw, bne_iff_ne, ne_eq, hd, not_false_eq_true, Bool.true_and, if_true, true_and]
      rw [Walker.reg_setReg, Walker.reg_setReg]
      by_cases h1 : n = o.d.toNat
      · subst h1; simp [hd]
      · simp [h1, hd]
    · simp only [hw, Bool.false_and, Bool.false_eq_true, if_false, false_and, and_false]
      exact Walker.reg_setReg ..

theorem Walker.tag_commit (w : Walker) (o : VecOp) (x : DWord) (tag : Option Byte) (n : Nat) :
    (w.commit o x tag).tag n =
      match tag with
      | some g => if o.d.toNat ≠ 0 ∧ (n = o.d.toNat ∨ o.wide = true ∧ n = o.d.toNat + 1) then g else w.tag n
      | none => w.tag n := by
  have key : ((if o.wide && o.d.toNat != 0 then (w.setReg o.d.toNat (x.extractLsb' 0 32)).setReg (o.d.toNat + 1)
      (x.extractLsb' 32 32) else w.setReg o.d.toNat (x.extractLsb' 0 32)) : Walker).tags = w.tags := by
    split
    · rw [Walker.setReg_tags, Walker.setReg_tags]
    · exact Walker.setReg_tags ..
  unfold Walker.commit
  cases tag with
  | none => exact Walker.tag_of_tags key n
  | some g =>
    by_cases h : (o.wide && o.d.toNat != 0) = true
    · have h' := h
      rw [Bool.and_eq_true, bne_iff_ne] at h'
      simp only [h, if_true] at key ⊢
      rw [Walker.tag_setTag, Walker.tag_setTag, Walker.tag_of_tags key]
      simp only [h'.1, h'.2, true_and, ne_eq, not_false_eq_true]
      by_cases h1 : n = o.d.toNat <;> by_cases h2 : n = o.d.toNat + 1 <;> simp [h1, h2]
    · simp only [h, Bool.false_eq_true, if_false] at key ⊢
      rw [Walker.tag_setTag, Walker.tag_of_tags key]
      by_cases hd : o.d.toNat = 0
      · simp [hd]
      · have hw : o.wide ≠ true := fun hw => h (by simp [hw, hd])
        simp [hw]

theorem Walker.commit_rest (w : Walker) (o : VecOp) (x : DWord) (tag : Option Byte) :
    { w.commit o x tag with regs := w.regs, tags := w.tags } = w := by
  have hr : ∀ (y : Walker) n v, { y.setReg n v with regs := w.regs, tags := w.tags } =
      { y with regs := w.regs, tags := w.tags } := fun y n v =>
    congrArg (fun z : Walker => { z with regs := w.regs, tags := w.tags }) (Walker.setReg_rest y n v)
  have ht : ∀ (y : Walker) n v, { y.setTag n v with regs := w.regs, tags := w.tags } =
      { y with regs := w.regs, tags := w.tags } := fun y n v =>
    congrArg (fun z : Walker => { z with regs := w.regs, tags := w.tags }) (Walker.setTag_rest y n v)
  have hc : ∀ y : Walker, { y with regs := w.regs, tags := w.tags } = w → ∀ g : Byte,
      { (if o.wide && o.d.toNat != 0 then (y.setTag o.d.toNat g).setTag (o.d.toNat + 1) g else y.setTag o.d.toNat g)
        with regs := w.regs, tags := w.tags } = w := by
    intro y h g
    split
    · exact (ht _ _ _).trans ((ht _ _ _).trans h)
    · exact (ht _ _ _).trans h
  have h1 : { (if o.wide && o.d.toNat != 0 then (w.setReg o.d.toNat (x.extractLsb' 0 32)).setReg (o.d.toNat + 1)
      (x.extractLsb' 32 32) else w.setReg o.d.toNat (x.extractLsb' 0 32)) with regs := w.regs, tags := w.tags } = w := by
    split
    · exact (hr _ _ _).trans (hr _ _ _)
    · exact hr _ _ _
  unfold Walker.commit
  cases tag with
  | none => exact h1
  | some g => exact hc _ h1 g

theorem Rule.onWalker_of_agrees {r : Rule} {o : VecOp} (h : r.Agrees o) (he : ∀ s, exec r.instr s = vec r.instr o s) :
    r.OnWalker := by
  intro s id w c hs hp
  rw [he, vec, onUnit_walker hs]
  unfold VecOp.walker
  simp only [h.none hp]
  refine ⟨_, rfl, ?_⟩
  · rw [h.val _ _ hp, h.tag _ hp, ← h.d, ← h.wide]
    have h1 := Walker.commit_rest w o (r.val (w.look c.mode) 0) (r.tag (w.look c.mode))
    have h2 := congrArg Walker.flags h1
    refine ⟨fun n => ?_, fun n => ?_, ?_, ?_⟩
    · exact (Walker.reg_of_regs (w := w.commit o _ _) rfl n).trans (Walker.reg_commit ..)
    · exact (Walker.tag_of_tags (w := w.commit o _ _) rfl n).trans (Walker.tag_commit ..)
    · show (w.commit o _ _).flags ||| _ = _
      rw [show (w.commit o (r.val (w.look c.mode) 0) (r.tag (w.look c.mode))).flags = w.flags from h2]
    · exact congrArg (fun y : Walker => { y with flags := w.flags }) h1

/-! ## Rules hold -/

/-- A rule holds when an operation that agrees with it is the instruction's meaning. -/
theorem Rule.holds_of_agrees {r : Rule} {o : VecOp} (h : r.Agrees o) (he : ∀ s, exec r.instr s = vec r.instr o s) :
    r.Holds := ⟨Rule.onCore_of_agrees h he, Rule.onBank_of_agrees h he, Rule.onWalker_of_agrees h he⟩

/-- A rule stops on tags when an operation that agrees with it is the instruction's meaning. -/
theorem Rule.stopsOnTags_of_agrees {r : Rule} {o : VecOp} (h : r.Agrees o) (he : ∀ s, exec r.instr s = vec r.instr o s) :
    r.StopsOnTags := by
  refine ⟨fun s fr n hs hu ht hn hw => ?_, fun s e p n hs hn hw => ?_, fun s id w c n hs hn hw => ?_⟩
  · rw [he, vec, onUnit_starts hs]
    unfold VecOp.core
    simp only [hu, Bool.false_eq_true, if_false, h.check _ hn, hw]
    have hr : n < 128 := by
      unfold Rule.firstWrong at hw
      obtain ⟨c, -, rfl⟩ := Option.map_eq_some_iff.1 hw
      exact c.1.isLt
    rw [State.trap_all ht fr.w rfl .tag n hr]
  · rw [he, vec, onUnit_bank hs]
    unfold VecOp.bank
    simp only [h.check _ hn, hw]
  · rw [he, vec, onUnit_walker hs]
    unfold VecOp.walker
    simp only [h.check _ hn, hw]

end Sys2Proof.Machine
end

