-- ==== Sys2Proof/Laws/Split.lean ====
section
/-! SUPPORT. The split table of a wave when only the issuing fragment moves: nothing else settles. -/

namespace Sys2Proof.Machine

/-- Nothing of a wave settles: it is in no loop, every fragment has slots and waits for no loop step, every join record
waits for a slot. -/
def Wave.Still (w : Wave) : Prop :=
  w.loops = [] ∧ ∀ x ∈ w.split, match x.2 with
    | .frag g => g.mask ≠ 0 ∧ ∀ id, g.st ≠ .waiting (.loopStep id)
    | .join j => j.wait ≠ 0

theorem Tab.mem_of_look {α : Type} {t : Tab α} {k : Nat} {x : α} (h : Tab.look t k = some x) : (k, x) ∈ t := by
  induction t with
  | nil => cases h
  | cons e r ih =>
    obtain ⟨j, v⟩ := e
    rw [Tab.look_cons] at h
    split at h
    · next hk => cases h; subst hk; exact List.mem_cons_self ..
    · exact List.mem_cons_of_mem _ (ih h)

theorem Tab.mem_of_mem_del {α : Type} {t : Tab α} {k : Nat} {e : Nat × α} (h : e ∈ Tab.del t k) : e ∈ t ∧ e.1 ≠ k := by
  rw [Tab.del_eq_filter, List.mem_filter] at h
  exact ⟨h.1, by have := h.2; simp at this; exact fun e => this e.symm⟩

/-- Setting a key twice is setting it once. -/
theorem Tab.put_put {α : Type} (t : Tab α) (k : Nat) (x y : α) : Tab.put (Tab.put t k x) k y = Tab.put t k y := by
  induction t with
  | nil => simp [Tab.put]
  | cons e r ih =>
    obtain ⟨j, v⟩ := e
    simp only [Tab.put]
    split
    · simp [Tab.put]
    · split
      · simp [Tab.put]
      · next h1 h2 => simp [Tab.put, h1, h2, ih]

theorem Wave.frag?_mem {w : Wave} {e : Nat} {f : Fragment} (h : w.frag? e = some f) : (e, .frag f) ∈ w.split := by
  unfold Wave.frag? at h
  split at h
  · cases h; exact Tab.mem_of_look ‹_›
  · cases h

theorem Wave.join?_mem {w : Wave} {e : Nat} {j : JoinRec} (h : w.join? e = some j) : (e, .join j) ∈ w.split := by
  unfold Wave.join? at h
  split at h
  · cases h; exact Tab.mem_of_look ‹_›
  · cases h

theorem Wave.Still.sweep {w : Wave} (h : w.Still) : w.sweep = w := by
  obtain ⟨hl, hs⟩ := h
  have key : ∀ p q : Nat × Entry → Bool, (∀ x ∈ w.split, p x = true) → (∀ x ∈ w.split, q x = true) →
      ({ w with split := (w.split.filter p).filter q, loops := [] } : Wave) = w := by
    intro p q hp hq
    rw [List.filter_eq_self.2 hp, List.filter_eq_self.2 hq, ← hl]
  unfold Wave.sweep
  simp only [hl, List.filter_nil, List.map_nil]
  refine key _ _ (fun x hx => ?_) (fun x _ => ?_)
  · have := hs x hx
    obtain ⟨k, e⟩ := x
    cases e with
    | frag g => simpa using this.1
    | join j => rfl
  · obtain ⟨k, e⟩ := x
    cases e with
    | frag g => rfl
    | join j => dsimp only; split <;> rfl

theorem Wave.Still.satisfied? {w : Wave} (h : w.Still) : w.satisfied? = none := by
  unfold Wave.satisfied?
  have : ((List.range 16).filterMap fun e => match w.join? e with
      | some j => if j.wait = 0 then some (e, j) else none
      | none => none) = [] := by
    rw [List.filterMap_eq_nil_iff]
    intro e _
    split
    · next j hj => have := h.2 _ (Wave.join?_mem hj); rw [if_neg this]
    · rfl
  exact congrArg (List.foldl _ none) this

theorem Wave.Still.settle {w : Wave} (h : w.Still) (strict : List Nat) (now n : Nat) : w.settle strict now n = some w := by
  cases n with
  | zero => rfl
  | succ n => unfold Wave.settle; simp only [h.sweep, h.satisfied?]

theorem Wave.Still.resumeLoops {w : Wave} (h : w.Still) (now n : Nat) : w.resumeLoops now n = w := by
  cases n with
  | zero => rfl
  | succ n =>
    unfold Wave.resumeLoops
    split
    · rfl
    · next e f id hf =>
      obtain ⟨k, _, hk⟩ := List.exists_of_findSome?_eq_some hf
      split at hk
      · next g hg =>
        have := (h.2 _ (Wave.frag?_mem hg)).2
        split at hk
        · next id' hst => exact absurd hst (this id')
        · cases hk
      · cases hk

theorem Wave.Still.settled {w : Wave} (h : w.Still) (now : Nat) : w.settled now = w := by
  unfold Wave.settled; rw [h.settle]; rfl

/-! ## A quiet frame -/

/-- What a quiet frame says of each entry. -/
theorem Frame.Quiet.mem {fr : Frame} (h : fr.Quiet) : ∀ x ∈ fr.w.split, match x.2 with
    | .frag g => (if x.1 = fr.ent then g = fr.f else g.mask ≠ 0 ∧ g.mask &&& fr.f.mask = 0) ∧ ∀ id, g.st ≠ .waiting (.loopStep id)
    | .join j => x.1 ≠ fr.ent ∧ j.wait ≠ 0 := by
  intro x hx
  have := List.all_eq_true.1 h.2.2.2.2 x hx
  obtain ⟨k, e⟩ := x
  cases e with
  | frag g =>
    dsimp only at this ⊢
    rw [Bool.and_eq_true] at this
    refine ⟨?_, fun id hst => ?_⟩
    · have := this.1
      by_cases hk : k = fr.ent
      · simpa [hk] using this
      · simp [hk] at this ⊢; exact this
    · have := this.2; rw [hst] at this; cases this
  | join j => simpa using this

/-- The entries of a quiet frame are settled. -/
theorem Frame.Quiet.still {fr : Frame} (h : fr.Quiet) : ∀ x ∈ fr.w.split, match x.2 with
    | .frag g => g.mask ≠ 0 ∧ ∀ id, g.st ≠ .waiting (.loopStep id)
    | .join j => j.wait ≠ 0 := by
  intro x hx
  have := Frame.Quiet.mem h x hx
  obtain ⟨k, e⟩ := x
  cases e with
  | frag g =>
    refine ⟨?_, this.2⟩
    have := this.1
    dsimp only at this
    split at this
    · rw [this]; exact h.2.1
    · exact this.1
  | join j => exact this.2

/-- An entry that nothing settles. -/
def Entry.Settled (x : Entry) : Prop := match x with
    | .frag g => g.mask ≠ 0 ∧ ∀ id, g.st ≠ .waiting (.loopStep id)
    | .join j => j.wait ≠ 0
theorem Entry.settled_put {l : Tab Entry} (hs : ∀ x ∈ l, Entry.Settled x.2) {k : Nat} {e : Entry} (he : Entry.Settled e) : ∀ x ∈ l.put k e, Entry.Settled x.2 := by
  intro x hx
  rcases Tab.mem_put hx with rfl | hx
  · exact he
  · exact hs x hx
theorem Entry.settled_frag {f : Fragment} (hm : f.mask ≠ 0) (hs : f.st = .ready) : Entry.Settled (.frag f) := ⟨hm, fun id h => by rw [hs] at h; cases h⟩

theorem Wave.still_iff (w : Wave) : w.Still ↔ w.loops = [] ∧ ∀ x ∈ w.split, Entry.Settled x.2 := Iff.rfl

theorem Wave.arrivals_none {w : Wave} (h : w.loops = []) (pc : Pc) (n : Nat) (m : DWord) : w.arrivals pc n m = none := by
  unfold Wave.arrivals Wave.innermost; rw [h]; rfl

/-- A quiet fragment goes on to the next instruction, in its entry. -/
theorem Frame.Quiet.advance {fr : Frame} (h : fr.Quiet) {w : Wave} {f : Fragment} (hl : w.loops = []) (hs : ∀ x ∈ w.split, Entry.Settled x.2) (ha : w.alive = fr.w.alive)
   (hm : f.mask = fr.f.mask) (n now : Nat) : w.advance fr.ent f n now = some (w.setFrag fr.ent { f with pc := pcPlus f.pc n, st := .ready, notBefore := now }) := by
  have hst : f.mask &&& w.alive = f.mask := by rw [ha, hm]; exact h.2.2.2.1
  have h0 : f.mask ≠ 0 := hm ▸ h.2.1
  unfold Wave.advance Wave.transfer
  rw [hst]
  simp only [Wave.arrivals_none hl, and_not_zero, bne_iff_ne, ne_eq, h0, not_false_eq_true, if_true, Wave.place]
  have : (w.setFrag fr.ent { f with pc := pcPlus f.pc n, mask := f.mask, st := .ready, notBefore := now }).Still :=
    (Wave.still_iff _).2 ⟨hl, Entry.settled_put hs (Entry.settled_frag h0 rfl)⟩
  rw [this.settle]
  simp only [Option.map_some, this.resumeLoops]

theorem Wave.setFrag_setFrag (w : Wave) (e : Nat) (f g : Fragment) : (w.setFrag e f).setFrag e g = w.setFrag e g := by
  unfold Wave.setFrag; simp only [Tab.put_put]

/-- A quiet fragment goes on in sequence. -/
theorem Frame.Quiet.goOn {s : State} {fr : Frame} (h : fr.Quiet) {w : Wave} {f : Fragment} (hf : w.frag? fr.ent = some f) (hl : w.loops = []) (hs : ∀ x ∈ w.split, Entry.Settled x.2) (ha : w.alive = fr.w.alive)
   (hm : f.mask = fr.f.mask) : s.goOn fr w = s.becomes fr (w.setFrag fr.ent { f with pc := pcPlus f.pc 1, st := .ready, notBefore := s.cycle }) := by
  unfold State.goOn
  rw [hf]
  simp only [Option.bind_some, Frame.Quiet.advance h hl hs ha hm]
  rfl

/-- Linking fragments to the record they are linked to changes nothing. -/
theorem Wave.relink_same {w : Wave} {m : DWord} {l : Option Nat} (h : ∀ x ∈ w.split, ∀ g, x.2 = .frag g → g.mask = m → g.link = l) : w.relink m l = w := by
  have key : ∀ g : Nat × Entry → Nat × Entry, (∀ x ∈ w.split, g x = x) → ({ w with split := w.split.map g } : Wave) = w := by
    intro g hg
    have : w.split.map g = w.split := by
      conv => rhs; rw [← List.map_id w.split]
      exact List.map_congr_left hg
    rw [this]
  unfold Wave.relink
  refine key _ fun x hx => ?_
  obtain ⟨k, e⟩ := x
  cases e with
  | join j => rfl
  | frag g =>
    dsimp only
    split
    · next hc =>
      rw [Bool.and_eq_true] at hc
      have := h _ hx g rfl (by simpa using hc.1)
      subst this; rfl
    · rfl

/-- A quiet fragment moves whole to a target. -/
theorem Frame.Quiet.go {s : State} {fr : Frame} (h : fr.Quiet) {w : Wave} (hl : w.loops = []) (hsp : w.split = fr.w.split) (r : Leaves) (p : Pc) :
   s.go fr w r [(p, fr.act)] 0 = s.becomes fr (w.setFrag fr.ent (fr.fragAt p fr.act fr.f.link (s.cycle + 7))) := by
  unfold State.go Wave.transfer
  have ha : fr.act ≠ 0 := by rw [h.2.2.1]; exact h.2.1
  simp only [Wave.arrivals_none hl]
  have h0 : ((0 : DWord) &&& ~~~(0 : DWord) != 0) = false := rfl
  simp only [h0, Bool.false_eq_true, if_false, List.head?_cons, List.tail_cons, Wave.place]
  have key : ∀ x ∈ (w.setFrag fr.ent (fr.fragAt p fr.act fr.f.link (s.cycle + 7))).split, Entry.Settled x.2 :=
    Entry.settled_put (hsp ▸ Frame.Quiet.still h) (Entry.settled_frag ha rfl)
  have hst : (w.setFrag fr.ent (fr.fragAt p fr.act fr.f.link (s.cycle + 7))).Still := ⟨hl, key⟩
  have hre : (w.setFrag fr.ent (fr.fragAt p fr.act fr.f.link (s.cycle + 7))).relink fr.act fr.f.link = w.setFrag fr.ent (fr.fragAt p fr.act fr.f.link (s.cycle + 7)) := by
    apply Wave.relink_same
    intro x hx g hg hm
    rcases Tab.mem_put hx with rfl | hx
    · cases hg; rfl
    · have := Frame.Quiet.mem h x (hsp ▸ hx)
      obtain ⟨k, e⟩ := x
      subst hg
      have := this.1
      dsimp only at this
      split at this
      · rw [this]
      · rw [hm, h.2.2.1] at this
        exact absurd (by simpa using this.2) h.2.1
  have hlv : ∀ b, ((w.setFrag fr.ent (fr.fragAt p fr.act fr.f.link (s.cycle + 7))).leaving fr.act p b) = [] := by
    intro b; unfold Wave.leaving; show List.map _ (List.filter _ (List.filter _ w.loops)) = []; rw [hl]; rfl
  have hfrag : ({ fr.f with pc := p, mask := fr.act, st := .ready, notBefore := s.cycle + 7 } : Fragment) = fr.fragAt p fr.act fr.f.link (s.cycle + 7) := rfl
  simp only [hfrag]
  cases r <;> simp only [reduceCtorEq, if_false, if_true, List.foldl_cons, List.foldl_nil, hlv, Wave.leaveAll, hre, hst.settle, Option.map_some, hst.resumeLoops] <;> rfl
end Sys2Proof.Machine
end

