-- ==== Sys2Proof/Laws/Access.lean ====
section
/-! SUPPORT. What an instruction that accesses memory does when it issues (06 R157 to R177): an access of each slot, the
traps of the slots that may not access, and the shapes of loads, stores and atomics. An instruction's rule follows from
the lemma of its shape by MemRule.issues_of_agrees and MemRule.otherwise_of_agrees. -/

namespace Sys2Proof.Machine

theorem causesOf_ok {place : Nat → DWord × Except Cause Nat} {ts : List Nat} (h : ∀ t ∈ ts, (place t).2.isOk = true) :
    causesOf place ts = [] := by
  unfold causesOf
  rw [List.filterMap_eq_nil_iff]
  intro t ht
  have := h t ht
  cases hp : (place t).2 with
  | ok k => rfl
  | error c => rw [hp] at this; cases this

theorem slotsOf_ne_nil {m : DWord} (h : m ≠ 0) : slotsOf m ≠ [] := by
  intro hn
  apply h
  ext t ht
  have := mt (mem_slotsOf m t).2
  rw [hn] at this
  simp only [List.not_mem_nil, not_false_eq_true, forall_const, not_and, Bool.not_eq_true] at this
  simpa [inMask, BitVec.getElem_eq_testBit_toNat, BitVec.getLsbD] using this ht

theorem Access.issue_ok {a : Access} {s : State} {fr : Frame} {i : Instr} {note : State → List DWord → State}
    (hc : fr.look.first a.checks = none) (hp : fr.part ≠ 0) (hn : fr.w.ctr.get a.ctr ≠ 63)
    (h : ∀ t ∈ slotsOf fr.part, (a.place t).2.isOk = true) :
    a.issue s fr i note = ((note s ((slotsOf fr.part).map fun t => (a.place t).1)).pushOp (a.op s fr (slotsOf fr.part))).finish fr
      (a.retag (fr.w.count a.ctr)) i := by
  unfold Access.issue
  rw [hc]
  have hf : (slotsOf fr.part).filter (fun _ => true) = slotsOf fr.part := List.filter_eq_self.2 fun _ _ => rfl
  simp only [causesOf_ok h, List.any_nil, Bool.not_false, hf]
  rw [if_neg (slotsOf_ne_nil hp), if_neg hn]
  rfl

theorem Access.issue_none {a : Access} {s : State} {fr : Frame} {i : Instr} {note : State → List DWord → State}
    (hc : fr.look.first a.checks = none) (hp : fr.part = 0) : a.issue s fr i note = s.finish fr (a.retag fr.w) i := by
  have h0 : slotsOf fr.part = [] := by rw [hp]; decide
  unfold Access.issue
  rw [hc]
  simp only [h0]
  rfl

theorem Access.issue_full {a : Access} {s : State} {fr : Frame} {i : Instr} {note : State → List DWord → State}
    (hc : fr.look.first a.checks = none) (hp : fr.part ≠ 0) (hn : fr.w.ctr.get a.ctr = 63)
    (h : ∀ t ∈ slotsOf fr.part, (a.place t).2.isOk = true) : a.issue s fr i note = s.holdOn fr := by
  unfold Access.issue
  rw [hc]
  have hf : (slotsOf fr.part).filter (fun _ => true) = slotsOf fr.part := List.filter_eq_self.2 fun _ _ => rfl
  simp only [causesOf_ok h, List.any_nil, Bool.not_false, hf]
  rw [if_neg (slotsOf_ne_nil hp), if_pos hn]

theorem maskOf_slotsOf (m : DWord) : maskOf (slotsOf m) = m := by
  ext t ht
  have h := inMask_maskOf (slotsOf m) t
  have hm := mem_slotsOf m t
  have : inMask (maskOf (slotsOf m)) t = inMask m t := by
    rw [h]
    by_cases hc : inMask m t = true
    · rw [hc]; simp [ht, hm, hc]
    · rw [Bool.not_eq_true] at hc; rw [hc]; simp [ht, hm, hc]
  simpa [inMask, BitVec.getElem_eq_testBit_toNat, BitVec.getLsbD] using this

theorem causesOf_all {place : Nat → DWord × Except Cause Nat} {ts : List Nat} {c : Cause}
    (h : ∀ t ∈ ts, (place t).2 = .error c) : causesOf place ts = ts.map fun t => (t, (place t).1, c) := by
  unfold causesOf
  induction ts with
  | nil => rfl
  | cons t r ih =>
    have h0 := h t (by simp)
    have hr := ih fun x hx => h x (by simp [hx])
    simp only [List.filterMap_cons, h0, List.map_cons, hr]

theorem firstCause_all (place : Nat → DWord) (ts : List Nat) (c : Cause) (h : ts ≠ []) :
    firstCause (ts.map fun t => (t, place t, c)) = some c := by
  induction ts with
  | nil => exact absurd rfl h
  | cons t r ih =>
    cases r with
    | nil => rfl
    | cons x r =>
      have := ih (by simp)
      simp only [List.map_cons] at this ⊢
      rw [firstCause.eq_2, this]
      simp

/-- The trap of an access all of whose slots raise one cause. -/
theorem accessTrap_all (place : Nat → DWord) (m : DWord) (c : Cause) :
    accessTrap m ((slotsOf m).map fun t => (t, place t, c)) c =
      { cause := c, mask := m, addr := match (slotsOf m).head? with
          | some t => place t
          | none => 0, done := 0 } := by
  unfold accessTrap
  have hf : ((slotsOf m).map fun t => (t, place t, c)).filter (fun x => decide (x.2.2 = c)) =
      (slotsOf m).map fun t => (t, place t, c) := List.filter_eq_self.2 (by simp)
  have hm : ((slotsOf m).map fun t => (t, place t, c)).map (·.1) = slotsOf m := by
    rw [List.map_map]; exact List.map_id _
  simp only [hf, hm, maskOf_slotsOf]
  have : m &&& ~~~m = 0 := by simp
  rw [this]
  congr 1
  cases slotsOf m <;> rfl

theorem Access.issue_error {a : Access} {s : State} {fr : Frame} {i : Instr} {note : State → List DWord → State} {c : Cause}
    (hc : fr.look.first a.checks = none) (hp : fr.part = fr.act) (h0 : fr.act ≠ 0)
    (h : ∀ t ∈ slotsOf fr.act, (a.place t).2 = .error c) :
    a.issue s fr i note = s.trap fr false fr.w { cause := c, mask := fr.act, addr := (a.place fr.u).1 } := by
  have hu : (slotsOf fr.act).head? = some fr.u := by
    unfold Frame.u lowest slotsOf
    rw [List.head?_filter]
    cases hf : (List.range 64).find? (inMask fr.act) with
    | some u => rfl
    | none =>
      exfalso
      apply slotsOf_ne_nil h0
      unfold slotsOf
      rw [List.filter_eq_nil_iff]
      exact fun t ht => by simpa using (List.find?_eq_none.1 hf) t ht
  have hg : (slotsOf fr.act).filter (fun t => !((slotsOf fr.act).map fun t => (t, (a.place t).1, c)).any fun x => x.1 = t) = [] := by
    rw [List.filter_eq_nil_iff]
    intro t ht
    simp only [Bool.not_eq_true, Bool.not_eq_false', List.any_map, List.any_eq_true]
    exact ⟨t, ht, by simp⟩
  unfold Access.issue
  rw [hc]
  simp only [hp, causesOf_all h, hg]
  rw [if_pos trivial]
  have hne : ((slotsOf fr.act).map fun t => (t, (a.place t).1, c)) ≠ [] := by simpa using slotsOf_ne_nil h0
  rw [if_neg hne]
  unfold State.afterIssue
  rw [firstCause_all _ _ _ (slotsOf_ne_nil h0)]
  simp only [accessTrap_all (fun t => (a.place t).1), hu]

theorem Wave.tag_setTags (w : Wave) (d k : Nat) (g : Byte) (n : Nat) :
    (w.setTags d k g).tag n = if n ≠ 0 ∧ d ≤ n ∧ n < d + k then g else w.tag n := by
  unfold Wave.setTags
  induction k with
  | zero => simp <;> omega
  | succ k ih =>
    rw [List.range_succ, List.foldl_append]
    simp only [List.foldl_cons, List.foldl_nil]
    rw [Wave.tag_setTag, ih]
    by_cases h0 : n = 0
    · subst h0; simp; intro h1 h2; omega
    · by_cases h1 : n = d + k
      · subst h1; simp
      · have : (d ≤ n ∧ n < d + (k + 1)) ↔ (d ≤ n ∧ n < d + k) := by omega
        simp only [h1, and_false, if_false, this, ne_eq, h0, not_false_eq_true, true_and]

theorem Wave.setTags_rest (w : Wave) (d k : Nat) (g : Byte) : { w.setTags d k g with tags := w.tags } = w := by
  unfold Wave.setTags
  induction k with
  | zero => rfl
  | succ k ih =>
    rw [List.range_succ, List.foldl_append]
    simp only [List.foldl_cons, List.foldl_nil]
    have h := congrArg (fun (x : Wave) => ({ x with tags := w.tags } : Wave)) (Wave.setTag_rest ((List.range k).foldl (fun w j => w.setTag (d + j) g) w) (d + k) g)
    exact h.trans ih

theorem Wave.tag_tagWords (w : Wave) (d k : Nat) (g : Byte) (n : Nat) :
    (w.tagWords d k g).tag n = if n ≠ 0 ∧ d ≤ n ∧ n < d + k ∧ (d = 0 → k ≠ 2) then g else w.tag n := by
  unfold Wave.tagWords
  by_cases h : d = 0 ∧ k = 2
  · simp [h]
  · have hb : (decide (d = 0) && decide (k = 2)) = false := by simpa using h
    rw [hb, if_neg (by simp), Wave.tag_setTags]
    congr 1
    simp only [eq_iff_iff, and_congr_right_iff, iff_self_and]
    intro _ _ _ h1 h2
    exact h ⟨h1, h2⟩

theorem Wave.tagWords_rest (w : Wave) (d k : Nat) (g : Byte) : { w.tagWords d k g with tags := w.tags } = w := by
  unfold Wave.tagWords
  split
  · rfl
  · exact Wave.setTags_rest w d k g

theorem Counters.get_set (c : Counters) (k x : CtrKind) (v : BitVec 6) : (c.set k v).get x = if x = k then v else c.get x := by
  cases k <;> cases x <;> rfl

theorem Frame.stored_eq (fr : Frame) (d : Reg) (n t : Nat) (hn : n = 1 ∨ n = 2 ∨ n = 4 ∨ n = 8 ∨ n = 16) :
    fr.stored d n t = held fr d (wordsIn n) t := by
  obtain rfl | rfl | rfl | rfl | rfl := hn <;> rfl

/-- An access with a rule's checks, place, counter, data and tags. -/
def MemRule.Agrees (r : MemRule) (a : Frame → Access) (note : Frame → State → List DWord → State) (s : State) : Prop :=
  ∀ fr, Starts s fr r.instr →
  exec r.instr s = .next ((a fr).issue s fr r.instr (note fr)) ∧
  (∀ va, note fr s va = if r.scratch then s else s.noteAccess fr va r.perm r.sampled) ∧
  (r.checks.all fr.look.ok = true → fr.look.first (a fr).checks = none) ∧
  (∀ t, (a fr).place t = (r.addr fr t, r.leads s fr (r.addr fr t))) ∧
  (a fr).kind = r.kind fr.look ∧ (a fr).ctr = r.ctr ∧ (∀ t, (a fr).data t = r.data fr t) ∧ (∀ t, (a fr).cmp t = r.cmp fr t) ∧
  ∀ w, (a fr).retag w = w.tagWords r.d.toNat r.tagged (r.tag fr.look)

theorem MemRule.issues_of_agrees {r : MemRule} {a : State → Frame → Access} {note : Frame → State → List DWord → State} (h : ∀ s, r.Agrees (a s) note s) : r.Issues := by
  intro s fr key hs hc hp hn hl noted
  obtain ⟨he, hnote, hfirst, hplace, hkind, hctr, hdata, hcmp, htag⟩ := h s fr hs
  have hok : ∀ t ∈ slotsOf fr.part, ((a s fr).place t).2.isOk = true := fun t ht => by rw [hplace, hl t ht]; rfl
  refine ⟨(fr.w.count r.ctr).tagWords r.d.toNat r.tagged (r.tag fr.look), ⟨fun n => ?_, fun x => ?_, ?_⟩, ?_⟩
  · rw [Wave.tag_tagWords]
    simp only [show (r.d.toNat = 0) = (r.d = 0) from by simp [← BitVec.toNat_inj]]
    rfl
  · have := congrArg Wave.ctr (Wave.tagWords_rest (fr.w.count r.ctr) r.d.toNat r.tagged (r.tag fr.look))
    have h2 : ((fr.w.count r.ctr).tagWords r.d.toNat r.tagged (r.tag fr.look)).ctr = (fr.w.count r.ctr).ctr := this
    rw [h2]
    unfold Wave.count
    rw [Counters.get_set]
    split
    · next hx => rw [hx]
    · rfl
  · have := Wave.tagWords_rest (fr.w.count r.ctr) r.d.toNat r.tagged (r.tag fr.look)
    exact congrArg (fun (x : Wave) => { x with ctr := fr.w.ctr }) this
  · rw [he, Access.issue_ok (hfirst hc) hp (by rw [hctr]; exact hn) hok, htag, hctr, hnote]
    have : (a s fr).op s fr (slotsOf fr.part) =
        { gid := fr.gid, wave := fr.wid, ctx := fr.g.ctx, serial := fr.g.serial, core := fr.g.core, ctr := some r.ctr,
          kind := r.kind fr.look,
          accs := (slotsOf fr.part).map fun t =>
            { slot := t, va := r.addr fr t, key := key t, data := r.data fr t, cmp := r.cmp fr t, done := false, grp := false,
              heed := fr.w.heard.lookD t 0 },
          scope := modeScope fr.v.mode, promote := modePromote fr.v.mode, issued := s.tick, tmo := modeTmo fr.v.mode } := by
      unfold Access.op
      rw [hkind, hctr]
      congr 1
      apply List.map_congr_left
      intro t ht
      rw [hdata, hcmp, hplace, hl t ht]
    rw [this]
    have hm : (slotsOf fr.part).map (fun t => ((a s fr).place t).1) = (slotsOf fr.part).map (r.addr fr) :=
      List.map_congr_left fun t _ => by rw [hplace]
    rw [hm]

theorem MemRule.otherwise_of_agrees {r : MemRule} {a : State → Frame → Access} {note : Frame → State → List DWord → State} (h : ∀ s, r.Agrees (a s) note s) : r.Otherwise := by
  intro s fr hs hc
  obtain ⟨he, hnote, hfirst, hplace, hkind, hctr, hdata, hcmp, htag⟩ := h s fr hs
  refine ⟨fun h0 => ⟨_, by rw [he, Access.issue_none (hfirst hc) h0, htag], Wave.tagWords_rest _ _ _ _⟩, fun hp hn hl => ?_, fun c hp ht hl => ?_⟩
  · rw [he, Access.issue_full (hfirst hc) hp (by rw [hctr]; exact hn) (fun t ht => by rw [hplace]; exact hl t ht)]
  · rw [he, Access.issue_error (hfirst hc) hp ht.1 (fun t h => by rw [hplace]; exact hl t h), hplace]
    exact congrArg _ (State.trap_all ht fr.w rfl c 0 (by decide) false _ 0)

theorem first_of_all {v : View} {cs : List (Reg × (Byte → Bool))} (h : cs.all v.ok = true) : v.first cs = none := View.first_none h

theorem pairCheck_eq (a : Reg) : pairTags a = pairCheck a := rfl
theorem intTags_eq (a : Reg) : intTags [a] = [(a, isInt)] := rfl
theorem anyTags_eq (a : Reg) : anyTags [a] = [(a, isAny)] := rfl
theorem wordsIn_eq {n : Nat} (hn : n = 1 ∨ n = 2 ∨ n = 4 ∨ n = 8 ∨ n = 16) : regsOf n = wordsIn n := by
  obtain rfl | rfl | rfl | rfl | rfl := hn <;> rfl

theorem MemRule.leads_generic (r : MemRule) (h : r.scratch = false) (s : State) (fr : Frame) (va : DWord) :
    s.generic fr va r.bytes r.perm = (va, r.leads s fr va) := by
  unfold State.generic MemRule.leads
  rw [h]
  simp only [Bool.false_eq_true, if_false, bne_iff_ne]

theorem MemRule.leads_scratch (r : MemRule) (h : r.scratch = true) (s : State) (fr : Frame) (va : Word) :
    s.scratchAt fr va r.bytes = (va.setWidth 64, r.leads s fr (va.setWidth 64)) := by
  unfold State.scratchAt MemRule.leads
  rw [h]
  have : (va.setWidth 64).setWidth 32 = va := by simp
  simp only [if_true, this]

theorem loadRule_agrees {i : Instr} {d a : Reg} {k : BitVec 7} {n type : Nat} {kind : OpKind} (hk : kind.sampled = type)
    (he : ∀ s, exec i s = onCoreOnly i s fun fr => s.load fr i d a k n kind) (hn : n = 1 ∨ n = 2 ∨ n = 4 ∨ n = 8 ∨ n = 16) :
    (loadRule i d a k n type kind).Issues ∧ (loadRule i d a k n type kind).Otherwise := by
  subst hk
  have h : ∀ s : State, (loadRule i d a k n kind.sampled kind).Agrees
      (fun fr => { checks := pairCheck a, place := fun t => s.generic fr (fr.va a k n t) n .load, kind := kind,
                   ctr := .ld, data := fun _ => 0, cmp := fun _ => 0,
                   retag := fun w => w.tagWords d.toNat (regsOf n) (modeEtype fr.v.mode) })
      (fun fr s vas => s.noteAccess fr vas .load kind.sampled) s := fun s fr hs =>
    ⟨(he s).trans (onCoreOnly_starts hs _), fun va => rfl, fun h => first_of_all h,
      fun t => MemRule.leads_generic (loadRule i d a k n kind.sampled kind) rfl s fr (fr.va a k n t), rfl, rfl, fun _ => rfl, fun _ => rfl, fun w => by rw [wordsIn_eq hn]; rfl⟩
  exact ⟨MemRule.issues_of_agrees h, MemRule.otherwise_of_agrees h⟩

theorem storeRule_agrees {i : Instr} {d a : Reg} {k : BitVec 7} {n : Nat} {rel : Bool}
    (he : ∀ s, exec i s = onCoreOnly i s fun fr => s.storeOp fr i d a k n rel) (hn : n = 1 ∨ n = 2 ∨ n = 4 ∨ n = 8 ∨ n = 16) :
    (storeRule i d a k n rel).Issues ∧ (storeRule i d a k n rel).Otherwise := by
  have h : ∀ s : State, (storeRule i d a k n rel).Agrees
      (fun fr => { checks := pairCheck a, place := fun t => s.generic fr (fr.va a k n t) n .store, kind := .store n rel,
                   ctr := .st, data := fr.stored d n, cmp := fun _ => 0, retag := id })
      (fun fr s vas => s.noteAccess fr vas .store 1) s := fun s fr hs =>
    ⟨(he s).trans (onCoreOnly_starts hs _), fun va => rfl, fun h => first_of_all h,
      fun t => MemRule.leads_generic (storeRule i d a k n rel) rfl s fr (fr.va a k n t), rfl, rfl,
      fun t => Frame.stored_eq fr d n t hn, fun _ => rfl, fun w => rfl⟩
  exact ⟨MemRule.issues_of_agrees h, MemRule.otherwise_of_agrees h⟩

theorem scratchLoadRule_agrees {i : Instr} {d a : Reg} {k : BitVec 7} {n : Nat}
    (he : ∀ s, exec i s = onCoreOnly i s fun fr => s.scratchLoad fr i d a k n) (hn : n = 1 ∨ n = 2 ∨ n = 4 ∨ n = 8 ∨ n = 16) :
    (scratchLoadRule i d a k n).Issues ∧ (scratchLoadRule i d a k n).Otherwise := by
  have h : ∀ s : State, (scratchLoadRule i d a k n).Agrees
      (fun fr => { checks := [(a, isInt)], place := fun t => s.scratchAt fr (fr.scratchVa a k n t) n, kind := .scratchLoad d n,
                   ctr := .ld, data := fun _ => 0, cmp := fun _ => 0,
                   retag := fun w => w.tagWords d.toNat (regsOf n) (modeEtype fr.v.mode) })
      (fun fr s _ => s) s := fun s fr hs =>
    ⟨(he s).trans (onCoreOnly_starts hs _), fun va => rfl, fun h => first_of_all h,
      fun t => MemRule.leads_scratch (scratchLoadRule i d a k n) rfl s fr (fr.scratchVa a k n t), rfl, rfl, fun _ => rfl, fun _ => rfl, fun w => by rw [wordsIn_eq hn]; rfl⟩
  exact ⟨MemRule.issues_of_agrees h, MemRule.otherwise_of_agrees h⟩

theorem scratchStoreRule_agrees {i : Instr} {d a : Reg} {k : BitVec 7} {n : Nat}
    (he : ∀ s, exec i s = onCoreOnly i s fun fr => s.scratchStore fr i d a k n) (hn : n = 1 ∨ n = 2 ∨ n = 4 ∨ n = 8 ∨ n = 16) :
    (scratchStoreRule i d a k n).Issues ∧ (scratchStoreRule i d a k n).Otherwise := by
  have h : ∀ s : State, (scratchStoreRule i d a k n).Agrees
      (fun fr => { checks := [(a, isInt)], place := fun t => s.scratchAt fr (fr.scratchVa a k n t) n, kind := .scratchStore n,
                   ctr := .st, data := fr.stored d n, cmp := fun _ => 0, retag := id })
      (fun fr s _ => s) s := fun s fr hs =>
    ⟨(he s).trans (onCoreOnly_starts hs _), fun va => rfl, fun h => first_of_all h,
      fun t => MemRule.leads_scratch (scratchStoreRule i d a k n) rfl s fr (fr.scratchVa a k n t), rfl, rfl,
      fun t => Frame.stored_eq fr d n t hn, fun _ => rfl, fun w => rfl⟩
  exact ⟨MemRule.issues_of_agrees h, MemRule.otherwise_of_agrees h⟩

theorem atomicRule_agrees {i : Instr} {d a b : Reg} {n : Nat} {checks : List (Reg × (Byte → Bool))} {f : View → AtomOp} 
    (he : ∀ s, exec i s = onCoreOnly i s fun fr => s.atomic fr i d a b n checks (f fr.look)) (hn : n = 4 ∨ n = 8) :
    (atomicRule i d a b n checks f).Issues ∧ (atomicRule i d a b n checks f).Otherwise := by
  have hn' : n = 1 ∨ n = 2 ∨ n = 4 ∨ n = 8 ∨ n = 16 := by omega
  have h : ∀ s : State, (atomicRule i d a b n checks f).Agrees
      (fun fr => { checks := checks, place := fun t => s.generic fr (fr.v.pair a.toNat t) n .atomic, kind := .atomic d n (f fr.look),
                   ctr := if d = 0 then .st else .ld, data := fr.stored b n, cmp := fr.stored d n,
                   retag := fun w => w.tagWords d.toNat (regsOf n) (if n = 8 then 0x12 else fr.look.res b.toNat) })
      (fun fr s vas => s.noteAccess fr vas .atomic 2) s := fun s fr hs =>
    ⟨(he s).trans (onCoreOnly_starts hs _), fun va => rfl, fun h => first_of_all h,
      fun t => MemRule.leads_generic (atomicRule i d a b n checks f) rfl s fr (fr.v.pair a.toNat t), rfl, rfl,
      fun t => Frame.stored_eq fr b n t hn', fun t => Frame.stored_eq fr d n t hn', fun w => by rw [wordsIn_eq hn']; rfl⟩
  exact ⟨MemRule.issues_of_agrees h, MemRule.otherwise_of_agrees h⟩

end Sys2Proof.Machine
end

