-- ==== Sys2Proof/Laws/State.lean ====
section
/-! SUPPORT. The fields of the state, and of a wave, after each update: one lemma for each field an update leaves alone, and
what the part it replaces then reads as. -/

namespace Sys2Proof.Machine

/-! ## State.setCore -/

section
variable (s : State) (c : Nat) (x : Core)
@[simp] theorem State.setCore_cores : (s.setCore c x).cores = s.cores.put c x := rfl
@[simp] theorem State.setCore_cycle : (s.setCore c x).cycle = s.cycle := rfl
@[simp] theorem State.setCore_cur : (s.setCore c x).cur = s.cur := rfl
@[simp] theorem State.setCore_about : (s.setCore c x).about = s.about := rfl
@[simp] theorem State.setCore_view : (s.setCore c x).view = s.view := rfl
@[simp] theorem State.setCore_schedule : (s.setCore c x).schedule = s.schedule := rfl
@[simp] theorem State.setCore_progress : (s.setCore c x).progress = s.progress := rfl
@[simp] theorem State.setCore_nextOp : (s.setCore c x).nextOp = s.nextOp := rfl
@[simp] theorem State.setCore_nextGroup : (s.setCore c x).nextGroup = s.nextGroup := rfl
@[simp] theorem State.setCore_nextSerial : (s.setCore c x).nextSerial = s.nextSerial := rfl
@[simp] theorem State.setCore_groups : (s.setCore c x).groups = s.groups := rfl
@[simp] theorem State.setCore_saved : (s.setCore c x).saved = s.saved := rfl
@[simp] theorem State.setCore_contexts : (s.setCore c x).contexts = s.contexts := rfl
@[simp] theorem State.setCore_dies : (s.setCore c x).dies = s.dies := rfl
@[simp] theorem State.setCore_hbm : (s.setCore c x).hbm = s.hbm := rfl
@[simp] theorem State.setCore_engines : (s.setCore c x).engines = s.engines := rfl
@[simp] theorem State.setCore_commands : (s.setCore c x).commands = s.commands := rfl
@[simp] theorem State.setCore_walkers : (s.setCore c x).walkers = s.walkers := rfl
@[simp] theorem State.setCore_ops : (s.setCore c x).ops = s.ops := rfl
@[simp] theorem State.setCore_mem : (s.setCore c x).mem = s.mem := rfl
@[simp] theorem State.setCore_poison : (s.setCore c x).poison = s.poison := rfl
@[simp] theorem State.setCore_empty : (s.setCore c x).empty = s.empty := rfl
@[simp] theorem State.setCore_narrow : (s.setCore c x).narrow = s.narrow := rfl
@[simp] theorem State.setCore_past : (s.setCore c x).past = s.past := rfl
@[simp] theorem State.setCore_net : (s.setCore c x).net = s.net := rfl
@[simp] theorem State.setCore_mail : (s.setCore c x).mail = s.mail := rfl
@[simp] theorem State.setCore_ports : (s.setCore c x).ports = s.ports := rfl
@[simp] theorem State.setCore_switches : (s.setCore c x).switches = s.switches := rfl
@[simp] theorem State.setCore_reports : (s.setCore c x).reports = s.reports := rfl
@[simp] theorem State.setCore_rails : (s.setCore c x).rails = s.rails := rfl
@[simp] theorem State.setCore_isles : (s.setCore c x).isles = s.isles := rfl
@[simp] theorem State.setCore_lastServed : (s.setCore c x).lastServed = s.lastServed := rfl
@[simp] theorem State.setCore_msix : (s.setCore c x).msix = s.msix := rfl
@[simp] theorem State.setCore_dev : (s.setCore c x).dev = s.dev := rfl
end

/-! ## State.setContext -/

section
variable (s : State) (c : Nat) (x : Context)
@[simp] theorem State.setContext_contexts : (s.setContext c x).contexts = s.contexts.put c x := rfl
@[simp] theorem State.setContext_cycle : (s.setContext c x).cycle = s.cycle := rfl
@[simp] theorem State.setContext_cur : (s.setContext c x).cur = s.cur := rfl
@[simp] theorem State.setContext_about : (s.setContext c x).about = s.about := rfl
@[simp] theorem State.setContext_view : (s.setContext c x).view = s.view := rfl
@[simp] theorem State.setContext_schedule : (s.setContext c x).schedule = s.schedule := rfl
@[simp] theorem State.setContext_progress : (s.setContext c x).progress = s.progress := rfl
@[simp] theorem State.setContext_nextOp : (s.setContext c x).nextOp = s.nextOp := rfl
@[simp] theorem State.setContext_nextGroup : (s.setContext c x).nextGroup = s.nextGroup := rfl
@[simp] theorem State.setContext_nextSerial : (s.setContext c x).nextSerial = s.nextSerial := rfl
@[simp] theorem State.setContext_groups : (s.setContext c x).groups = s.groups := rfl
@[simp] theorem State.setContext_saved : (s.setContext c x).saved = s.saved := rfl
@[simp] theorem State.setContext_cores : (s.setContext c x).cores = s.cores := rfl
@[simp] theorem State.setContext_dies : (s.setContext c x).dies = s.dies := rfl
@[simp] theorem State.setContext_hbm : (s.setContext c x).hbm = s.hbm := rfl
@[simp] theorem State.setContext_engines : (s.setContext c x).engines = s.engines := rfl
@[simp] theorem State.setContext_commands : (s.setContext c x).commands = s.commands := rfl
@[simp] theorem State.setContext_walkers : (s.setContext c x).walkers = s.walkers := rfl
@[simp] theorem State.setContext_ops : (s.setContext c x).ops = s.ops := rfl
@[simp] theorem State.setContext_mem : (s.setContext c x).mem = s.mem := rfl
@[simp] theorem State.setContext_poison : (s.setContext c x).poison = s.poison := rfl
@[simp] theorem State.setContext_empty : (s.setContext c x).empty = s.empty := rfl
@[simp] theorem State.setContext_narrow : (s.setContext c x).narrow = s.narrow := rfl
@[simp] theorem State.setContext_past : (s.setContext c x).past = s.past := rfl
@[simp] theorem State.setContext_net : (s.setContext c x).net = s.net := rfl
@[simp] theorem State.setContext_mail : (s.setContext c x).mail = s.mail := rfl
@[simp] theorem State.setContext_ports : (s.setContext c x).ports = s.ports := rfl
@[simp] theorem State.setContext_switches : (s.setContext c x).switches = s.switches := rfl
@[simp] theorem State.setContext_reports : (s.setContext c x).reports = s.reports := rfl
@[simp] theorem State.setContext_rails : (s.setContext c x).rails = s.rails := rfl
@[simp] theorem State.setContext_isles : (s.setContext c x).isles = s.isles := rfl
@[simp] theorem State.setContext_lastServed : (s.setContext c x).lastServed = s.lastServed := rfl
@[simp] theorem State.setContext_msix : (s.setContext c x).msix = s.msix := rfl
@[simp] theorem State.setContext_dev : (s.setContext c x).dev = s.dev := rfl
end

/-! ## State.setDie -/

section
variable (s : State) (d : Nat) (x : Die)
@[simp] theorem State.setDie_dies : (s.setDie d x).dies = s.dies.put d x := rfl
@[simp] theorem State.setDie_cycle : (s.setDie d x).cycle = s.cycle := rfl
@[simp] theorem State.setDie_cur : (s.setDie d x).cur = s.cur := rfl
@[simp] theorem State.setDie_about : (s.setDie d x).about = s.about := rfl
@[simp] theorem State.setDie_view : (s.setDie d x).view = s.view := rfl
@[simp] theorem State.setDie_schedule : (s.setDie d x).schedule = s.schedule := rfl
@[simp] theorem State.setDie_progress : (s.setDie d x).progress = s.progress := rfl
@[simp] theorem State.setDie_nextOp : (s.setDie d x).nextOp = s.nextOp := rfl
@[simp] theorem State.setDie_nextGroup : (s.setDie d x).nextGroup = s.nextGroup := rfl
@[simp] theorem State.setDie_nextSerial : (s.setDie d x).nextSerial = s.nextSerial := rfl
@[simp] theorem State.setDie_groups : (s.setDie d x).groups = s.groups := rfl
@[simp] theorem State.setDie_saved : (s.setDie d x).saved = s.saved := rfl
@[simp] theorem State.setDie_cores : (s.setDie d x).cores = s.cores := rfl
@[simp] theorem State.setDie_contexts : (s.setDie d x).contexts = s.contexts := rfl
@[simp] theorem State.setDie_hbm : (s.setDie d x).hbm = s.hbm := rfl
@[simp] theorem State.setDie_engines : (s.setDie d x).engines = s.engines := rfl
@[simp] theorem State.setDie_commands : (s.setDie d x).commands = s.commands := rfl
@[simp] theorem State.setDie_walkers : (s.setDie d x).walkers = s.walkers := rfl
@[simp] theorem State.setDie_ops : (s.setDie d x).ops = s.ops := rfl
@[simp] theorem State.setDie_mem : (s.setDie d x).mem = s.mem := rfl
@[simp] theorem State.setDie_poison : (s.setDie d x).poison = s.poison := rfl
@[simp] theorem State.setDie_empty : (s.setDie d x).empty = s.empty := rfl
@[simp] theorem State.setDie_narrow : (s.setDie d x).narrow = s.narrow := rfl
@[simp] theorem State.setDie_past : (s.setDie d x).past = s.past := rfl
@[simp] theorem State.setDie_net : (s.setDie d x).net = s.net := rfl
@[simp] theorem State.setDie_mail : (s.setDie d x).mail = s.mail := rfl
@[simp] theorem State.setDie_ports : (s.setDie d x).ports = s.ports := rfl
@[simp] theorem State.setDie_switches : (s.setDie d x).switches = s.switches := rfl
@[simp] theorem State.setDie_reports : (s.setDie d x).reports = s.reports := rfl
@[simp] theorem State.setDie_rails : (s.setDie d x).rails = s.rails := rfl
@[simp] theorem State.setDie_isles : (s.setDie d x).isles = s.isles := rfl
@[simp] theorem State.setDie_lastServed : (s.setDie d x).lastServed = s.lastServed := rfl
@[simp] theorem State.setDie_msix : (s.setDie d x).msix = s.msix := rfl
@[simp] theorem State.setDie_dev : (s.setDie d x).dev = s.dev := rfl
end

/-! ## State.setStack -/

section
variable (s : State) (k : Nat) (x : Stack)
@[simp] theorem State.setStack_hbm : (s.setStack k x).hbm = s.hbm.put k x := rfl
@[simp] theorem State.setStack_cycle : (s.setStack k x).cycle = s.cycle := rfl
@[simp] theorem State.setStack_cur : (s.setStack k x).cur = s.cur := rfl
@[simp] theorem State.setStack_about : (s.setStack k x).about = s.about := rfl
@[simp] theorem State.setStack_view : (s.setStack k x).view = s.view := rfl
@[simp] theorem State.setStack_schedule : (s.setStack k x).schedule = s.schedule := rfl
@[simp] theorem State.setStack_progress : (s.setStack k x).progress = s.progress := rfl
@[simp] theorem State.setStack_nextOp : (s.setStack k x).nextOp = s.nextOp := rfl
@[simp] theorem State.setStack_nextGroup : (s.setStack k x).nextGroup = s.nextGroup := rfl
@[simp] theorem State.setStack_nextSerial : (s.setStack k x).nextSerial = s.nextSerial := rfl
@[simp] theorem State.setStack_groups : (s.setStack k x).groups = s.groups := rfl
@[simp] theorem State.setStack_saved : (s.setStack k x).saved = s.saved := rfl
@[simp] theorem State.setStack_cores : (s.setStack k x).cores = s.cores := rfl
@[simp] theorem State.setStack_contexts : (s.setStack k x).contexts = s.contexts := rfl
@[simp] theorem State.setStack_dies : (s.setStack k x).dies = s.dies := rfl
@[simp] theorem State.setStack_engines : (s.setStack k x).engines = s.engines := rfl
@[simp] theorem State.setStack_commands : (s.setStack k x).commands = s.commands := rfl
@[simp] theorem State.setStack_walkers : (s.setStack k x).walkers = s.walkers := rfl
@[simp] theorem State.setStack_ops : (s.setStack k x).ops = s.ops := rfl
@[simp] theorem State.setStack_mem : (s.setStack k x).mem = s.mem := rfl
@[simp] theorem State.setStack_poison : (s.setStack k x).poison = s.poison := rfl
@[simp] theorem State.setStack_empty : (s.setStack k x).empty = s.empty := rfl
@[simp] theorem State.setStack_narrow : (s.setStack k x).narrow = s.narrow := rfl
@[simp] theorem State.setStack_past : (s.setStack k x).past = s.past := rfl
@[simp] theorem State.setStack_net : (s.setStack k x).net = s.net := rfl
@[simp] theorem State.setStack_mail : (s.setStack k x).mail = s.mail := rfl
@[simp] theorem State.setStack_ports : (s.setStack k x).ports = s.ports := rfl
@[simp] theorem State.setStack_switches : (s.setStack k x).switches = s.switches := rfl
@[simp] theorem State.setStack_reports : (s.setStack k x).reports = s.reports := rfl
@[simp] theorem State.setStack_rails : (s.setStack k x).rails = s.rails := rfl
@[simp] theorem State.setStack_isles : (s.setStack k x).isles = s.isles := rfl
@[simp] theorem State.setStack_lastServed : (s.setStack k x).lastServed = s.lastServed := rfl
@[simp] theorem State.setStack_msix : (s.setStack k x).msix = s.msix := rfl
@[simp] theorem State.setStack_dev : (s.setStack k x).dev = s.dev := rfl
end

/-! ## State.setEngine -/

section
variable (s : State) (e : Nat) (x : Engine)
@[simp] theorem State.setEngine_engines : (s.setEngine e x).engines = s.engines.put e x := rfl
@[simp] theorem State.setEngine_cycle : (s.setEngine e x).cycle = s.cycle := rfl
@[simp] theorem State.setEngine_cur : (s.setEngine e x).cur = s.cur := rfl
@[simp] theorem State.setEngine_about : (s.setEngine e x).about = s.about := rfl
@[simp] theorem State.setEngine_view : (s.setEngine e x).view = s.view := rfl
@[simp] theorem State.setEngine_schedule : (s.setEngine e x).schedule = s.schedule := rfl
@[simp] theorem State.setEngine_progress : (s.setEngine e x).progress = s.progress := rfl
@[simp] theorem State.setEngine_nextOp : (s.setEngine e x).nextOp = s.nextOp := rfl
@[simp] theorem State.setEngine_nextGroup : (s.setEngine e x).nextGroup = s.nextGroup := rfl
@[simp] theorem State.setEngine_nextSerial : (s.setEngine e x).nextSerial = s.nextSerial := rfl
@[simp] theorem State.setEngine_groups : (s.setEngine e x).groups = s.groups := rfl
@[simp] theorem State.setEngine_saved : (s.setEngine e x).saved = s.saved := rfl
@[simp] theorem State.setEngine_cores : (s.setEngine e x).cores = s.cores := rfl
@[simp] theorem State.setEngine_contexts : (s.setEngine e x).contexts = s.contexts := rfl
@[simp] theorem State.setEngine_dies : (s.setEngine e x).dies = s.dies := rfl
@[simp] theorem State.setEngine_hbm : (s.setEngine e x).hbm = s.hbm := rfl
@[simp] theorem State.setEngine_commands : (s.setEngine e x).commands = s.commands := rfl
@[simp] theorem State.setEngine_walkers : (s.setEngine e x).walkers = s.walkers := rfl
@[simp] theorem State.setEngine_ops : (s.setEngine e x).ops = s.ops := rfl
@[simp] theorem State.setEngine_mem : (s.setEngine e x).mem = s.mem := rfl
@[simp] theorem State.setEngine_poison : (s.setEngine e x).poison = s.poison := rfl
@[simp] theorem State.setEngine_empty : (s.setEngine e x).empty = s.empty := rfl
@[simp] theorem State.setEngine_narrow : (s.setEngine e x).narrow = s.narrow := rfl
@[simp] theorem State.setEngine_past : (s.setEngine e x).past = s.past := rfl
@[simp] theorem State.setEngine_net : (s.setEngine e x).net = s.net := rfl
@[simp] theorem State.setEngine_mail : (s.setEngine e x).mail = s.mail := rfl
@[simp] theorem State.setEngine_ports : (s.setEngine e x).ports = s.ports := rfl
@[simp] theorem State.setEngine_switches : (s.setEngine e x).switches = s.switches := rfl
@[simp] theorem State.setEngine_reports : (s.setEngine e x).reports = s.reports := rfl
@[simp] theorem State.setEngine_rails : (s.setEngine e x).rails = s.rails := rfl
@[simp] theorem State.setEngine_isles : (s.setEngine e x).isles = s.isles := rfl
@[simp] theorem State.setEngine_lastServed : (s.setEngine e x).lastServed = s.lastServed := rfl
@[simp] theorem State.setEngine_msix : (s.setEngine e x).msix = s.msix := rfl
@[simp] theorem State.setEngine_dev : (s.setEngine e x).dev = s.dev := rfl
end

/-! ## State.setPort -/

section
variable (s : State) (p : Nat) (x : Port)
@[simp] theorem State.setPort_ports : (s.setPort p x).ports = s.ports.put p x := rfl
@[simp] theorem State.setPort_cycle : (s.setPort p x).cycle = s.cycle := rfl
@[simp] theorem State.setPort_cur : (s.setPort p x).cur = s.cur := rfl
@[simp] theorem State.setPort_about : (s.setPort p x).about = s.about := rfl
@[simp] theorem State.setPort_view : (s.setPort p x).view = s.view := rfl
@[simp] theorem State.setPort_schedule : (s.setPort p x).schedule = s.schedule := rfl
@[simp] theorem State.setPort_progress : (s.setPort p x).progress = s.progress := rfl
@[simp] theorem State.setPort_nextOp : (s.setPort p x).nextOp = s.nextOp := rfl
@[simp] theorem State.setPort_nextGroup : (s.setPort p x).nextGroup = s.nextGroup := rfl
@[simp] theorem State.setPort_nextSerial : (s.setPort p x).nextSerial = s.nextSerial := rfl
@[simp] theorem State.setPort_groups : (s.setPort p x).groups = s.groups := rfl
@[simp] theorem State.setPort_saved : (s.setPort p x).saved = s.saved := rfl
@[simp] theorem State.setPort_cores : (s.setPort p x).cores = s.cores := rfl
@[simp] theorem State.setPort_contexts : (s.setPort p x).contexts = s.contexts := rfl
@[simp] theorem State.setPort_dies : (s.setPort p x).dies = s.dies := rfl
@[simp] theorem State.setPort_hbm : (s.setPort p x).hbm = s.hbm := rfl
@[simp] theorem State.setPort_engines : (s.setPort p x).engines = s.engines := rfl
@[simp] theorem State.setPort_commands : (s.setPort p x).commands = s.commands := rfl
@[simp] theorem State.setPort_walkers : (s.setPort p x).walkers = s.walkers := rfl
@[simp] theorem State.setPort_ops : (s.setPort p x).ops = s.ops := rfl
@[simp] theorem State.setPort_mem : (s.setPort p x).mem = s.mem := rfl
@[simp] theorem State.setPort_poison : (s.setPort p x).poison = s.poison := rfl
@[simp] theorem State.setPort_empty : (s.setPort p x).empty = s.empty := rfl
@[simp] theorem State.setPort_narrow : (s.setPort p x).narrow = s.narrow := rfl
@[simp] theorem State.setPort_past : (s.setPort p x).past = s.past := rfl
@[simp] theorem State.setPort_net : (s.setPort p x).net = s.net := rfl
@[simp] theorem State.setPort_mail : (s.setPort p x).mail = s.mail := rfl
@[simp] theorem State.setPort_switches : (s.setPort p x).switches = s.switches := rfl
@[simp] theorem State.setPort_reports : (s.setPort p x).reports = s.reports := rfl
@[simp] theorem State.setPort_rails : (s.setPort p x).rails = s.rails := rfl
@[simp] theorem State.setPort_isles : (s.setPort p x).isles = s.isles := rfl
@[simp] theorem State.setPort_lastServed : (s.setPort p x).lastServed = s.lastServed := rfl
@[simp] theorem State.setPort_msix : (s.setPort p x).msix = s.msix := rfl
@[simp] theorem State.setPort_dev : (s.setPort p x).dev = s.dev := rfl
end

/-! ## State.setSwitch -/

section
variable (s : State) (k : Nat) (x : Switch)
@[simp] theorem State.setSwitch_switches : (s.setSwitch k x).switches = s.switches.put k x := rfl
@[simp] theorem State.setSwitch_cycle : (s.setSwitch k x).cycle = s.cycle := rfl
@[simp] theorem State.setSwitch_cur : (s.setSwitch k x).cur = s.cur := rfl
@[simp] theorem State.setSwitch_about : (s.setSwitch k x).about = s.about := rfl
@[simp] theorem State.setSwitch_view : (s.setSwitch k x).view = s.view := rfl
@[simp] theorem State.setSwitch_schedule : (s.setSwitch k x).schedule = s.schedule := rfl
@[simp] theorem State.setSwitch_progress : (s.setSwitch k x).progress = s.progress := rfl
@[simp] theorem State.setSwitch_nextOp : (s.setSwitch k x).nextOp = s.nextOp := rfl
@[simp] theorem State.setSwitch_nextGroup : (s.setSwitch k x).nextGroup = s.nextGroup := rfl
@[simp] theorem State.setSwitch_nextSerial : (s.setSwitch k x).nextSerial = s.nextSerial := rfl
@[simp] theorem State.setSwitch_groups : (s.setSwitch k x).groups = s.groups := rfl
@[simp] theorem State.setSwitch_saved : (s.setSwitch k x).saved = s.saved := rfl
@[simp] theorem State.setSwitch_cores : (s.setSwitch k x).cores = s.cores := rfl
@[simp] theorem State.setSwitch_contexts : (s.setSwitch k x).contexts = s.contexts := rfl
@[simp] theorem State.setSwitch_dies : (s.setSwitch k x).dies = s.dies := rfl
@[simp] theorem State.setSwitch_hbm : (s.setSwitch k x).hbm = s.hbm := rfl
@[simp] theorem State.setSwitch_engines : (s.setSwitch k x).engines = s.engines := rfl
@[simp] theorem State.setSwitch_commands : (s.setSwitch k x).commands = s.commands := rfl
@[simp] theorem State.setSwitch_walkers : (s.setSwitch k x).walkers = s.walkers := rfl
@[simp] theorem State.setSwitch_ops : (s.setSwitch k x).ops = s.ops := rfl
@[simp] theorem State.setSwitch_mem : (s.setSwitch k x).mem = s.mem := rfl
@[simp] theorem State.setSwitch_poison : (s.setSwitch k x).poison = s.poison := rfl
@[simp] theorem State.setSwitch_empty : (s.setSwitch k x).empty = s.empty := rfl
@[simp] theorem State.setSwitch_narrow : (s.setSwitch k x).narrow = s.narrow := rfl
@[simp] theorem State.setSwitch_past : (s.setSwitch k x).past = s.past := rfl
@[simp] theorem State.setSwitch_net : (s.setSwitch k x).net = s.net := rfl
@[simp] theorem State.setSwitch_mail : (s.setSwitch k x).mail = s.mail := rfl
@[simp] theorem State.setSwitch_ports : (s.setSwitch k x).ports = s.ports := rfl
@[simp] theorem State.setSwitch_reports : (s.setSwitch k x).reports = s.reports := rfl
@[simp] theorem State.setSwitch_rails : (s.setSwitch k x).rails = s.rails := rfl
@[simp] theorem State.setSwitch_isles : (s.setSwitch k x).isles = s.isles := rfl
@[simp] theorem State.setSwitch_lastServed : (s.setSwitch k x).lastServed = s.lastServed := rfl
@[simp] theorem State.setSwitch_msix : (s.setSwitch k x).msix = s.msix := rfl
@[simp] theorem State.setSwitch_dev : (s.setSwitch k x).dev = s.dev := rfl
end

/-! ## State.setReport -/

section
variable (s : State) (k : Nat) (x : Report)
@[simp] theorem State.setReport_reports : (s.setReport k x).reports = s.reports.put k x := rfl
@[simp] theorem State.setReport_cycle : (s.setReport k x).cycle = s.cycle := rfl
@[simp] theorem State.setReport_cur : (s.setReport k x).cur = s.cur := rfl
@[simp] theorem State.setReport_about : (s.setReport k x).about = s.about := rfl
@[simp] theorem State.setReport_view : (s.setReport k x).view = s.view := rfl
@[simp] theorem State.setReport_schedule : (s.setReport k x).schedule = s.schedule := rfl
@[simp] theorem State.setReport_progress : (s.setReport k x).progress = s.progress := rfl
@[simp] theorem State.setReport_nextOp : (s.setReport k x).nextOp = s.nextOp := rfl
@[simp] theorem State.setReport_nextGroup : (s.setReport k x).nextGroup = s.nextGroup := rfl
@[simp] theorem State.setReport_nextSerial : (s.setReport k x).nextSerial = s.nextSerial := rfl
@[simp] theorem State.setReport_groups : (s.setReport k x).groups = s.groups := rfl
@[simp] theorem State.setReport_saved : (s.setReport k x).saved = s.saved := rfl
@[simp] theorem State.setReport_cores : (s.setReport k x).cores = s.cores := rfl
@[simp] theorem State.setReport_contexts : (s.setReport k x).contexts = s.contexts := rfl
@[simp] theorem State.setReport_dies : (s.setReport k x).dies = s.dies := rfl
@[simp] theorem State.setReport_hbm : (s.setReport k x).hbm = s.hbm := rfl
@[simp] theorem State.setReport_engines : (s.setReport k x).engines = s.engines := rfl
@[simp] theorem State.setReport_commands : (s.setReport k x).commands = s.commands := rfl
@[simp] theorem State.setReport_walkers : (s.setReport k x).walkers = s.walkers := rfl
@[simp] theorem State.setReport_ops : (s.setReport k x).ops = s.ops := rfl
@[simp] theorem State.setReport_mem : (s.setReport k x).mem = s.mem := rfl
@[simp] theorem State.setReport_poison : (s.setReport k x).poison = s.poison := rfl
@[simp] theorem State.setReport_empty : (s.setReport k x).empty = s.empty := rfl
@[simp] theorem State.setReport_narrow : (s.setReport k x).narrow = s.narrow := rfl
@[simp] theorem State.setReport_past : (s.setReport k x).past = s.past := rfl
@[simp] theorem State.setReport_net : (s.setReport k x).net = s.net := rfl
@[simp] theorem State.setReport_mail : (s.setReport k x).mail = s.mail := rfl
@[simp] theorem State.setReport_ports : (s.setReport k x).ports = s.ports := rfl
@[simp] theorem State.setReport_switches : (s.setReport k x).switches = s.switches := rfl
@[simp] theorem State.setReport_rails : (s.setReport k x).rails = s.rails := rfl
@[simp] theorem State.setReport_isles : (s.setReport k x).isles = s.isles := rfl
@[simp] theorem State.setReport_lastServed : (s.setReport k x).lastServed = s.lastServed := rfl
@[simp] theorem State.setReport_msix : (s.setReport k x).msix = s.msix := rfl
@[simp] theorem State.setReport_dev : (s.setReport k x).dev = s.dev := rfl
end

/-! ## State.setGroup -/

section
variable (s : State) (g : Nat) (x : Group)
@[simp] theorem State.setGroup_groups : (s.setGroup g x).groups = s.groups.put g x := rfl
@[simp] theorem State.setGroup_cycle : (s.setGroup g x).cycle = s.cycle := rfl
@[simp] theorem State.setGroup_cur : (s.setGroup g x).cur = s.cur := rfl
@[simp] theorem State.setGroup_about : (s.setGroup g x).about = s.about := rfl
@[simp] theorem State.setGroup_view : (s.setGroup g x).view = s.view := rfl
@[simp] theorem State.setGroup_schedule : (s.setGroup g x).schedule = s.schedule := rfl
@[simp] theorem State.setGroup_progress : (s.setGroup g x).progress = s.progress := rfl
@[simp] theorem State.setGroup_nextOp : (s.setGroup g x).nextOp = s.nextOp := rfl
@[simp] theorem State.setGroup_nextGroup : (s.setGroup g x).nextGroup = s.nextGroup := rfl
@[simp] theorem State.setGroup_nextSerial : (s.setGroup g x).nextSerial = s.nextSerial := rfl
@[simp] theorem State.setGroup_saved : (s.setGroup g x).saved = s.saved := rfl
@[simp] theorem State.setGroup_cores : (s.setGroup g x).cores = s.cores := rfl
@[simp] theorem State.setGroup_contexts : (s.setGroup g x).contexts = s.contexts := rfl
@[simp] theorem State.setGroup_dies : (s.setGroup g x).dies = s.dies := rfl
@[simp] theorem State.setGroup_hbm : (s.setGroup g x).hbm = s.hbm := rfl
@[simp] theorem State.setGroup_engines : (s.setGroup g x).engines = s.engines := rfl
@[simp] theorem State.setGroup_commands : (s.setGroup g x).commands = s.commands := rfl
@[simp] theorem State.setGroup_walkers : (s.setGroup g x).walkers = s.walkers := rfl
@[simp] theorem State.setGroup_ops : (s.setGroup g x).ops = s.ops := rfl
@[simp] theorem State.setGroup_mem : (s.setGroup g x).mem = s.mem := rfl
@[simp] theorem State.setGroup_poison : (s.setGroup g x).poison = s.poison := rfl
@[simp] theorem State.setGroup_empty : (s.setGroup g x).empty = s.empty := rfl
@[simp] theorem State.setGroup_narrow : (s.setGroup g x).narrow = s.narrow := rfl
@[simp] theorem State.setGroup_past : (s.setGroup g x).past = s.past := rfl
@[simp] theorem State.setGroup_net : (s.setGroup g x).net = s.net := rfl
@[simp] theorem State.setGroup_mail : (s.setGroup g x).mail = s.mail := rfl
@[simp] theorem State.setGroup_ports : (s.setGroup g x).ports = s.ports := rfl
@[simp] theorem State.setGroup_switches : (s.setGroup g x).switches = s.switches := rfl
@[simp] theorem State.setGroup_reports : (s.setGroup g x).reports = s.reports := rfl
@[simp] theorem State.setGroup_rails : (s.setGroup g x).rails = s.rails := rfl
@[simp] theorem State.setGroup_isles : (s.setGroup g x).isles = s.isles := rfl
@[simp] theorem State.setGroup_lastServed : (s.setGroup g x).lastServed = s.lastServed := rfl
@[simp] theorem State.setGroup_msix : (s.setGroup g x).msix = s.msix := rfl
@[simp] theorem State.setGroup_dev : (s.setGroup g x).dev = s.dev := rfl
end

/-! ## State.setWave -/

section
variable (s : State) (g w : Nat) (x : Wave)
@[simp] theorem State.setWave_groups : (s.setWave g w x).groups = s.groups.change g fun y => y.setWave w x := rfl
@[simp] theorem State.setWave_cycle : (s.setWave g w x).cycle = s.cycle := rfl
@[simp] theorem State.setWave_cur : (s.setWave g w x).cur = s.cur := rfl
@[simp] theorem State.setWave_about : (s.setWave g w x).about = s.about := rfl
@[simp] theorem State.setWave_view : (s.setWave g w x).view = s.view := rfl
@[simp] theorem State.setWave_schedule : (s.setWave g w x).schedule = s.schedule := rfl
@[simp] theorem State.setWave_progress : (s.setWave g w x).progress = s.progress := rfl
@[simp] theorem State.setWave_nextOp : (s.setWave g w x).nextOp = s.nextOp := rfl
@[simp] theorem State.setWave_nextGroup : (s.setWave g w x).nextGroup = s.nextGroup := rfl
@[simp] theorem State.setWave_nextSerial : (s.setWave g w x).nextSerial = s.nextSerial := rfl
@[simp] theorem State.setWave_saved : (s.setWave g w x).saved = s.saved := rfl
@[simp] theorem State.setWave_cores : (s.setWave g w x).cores = s.cores := rfl
@[simp] theorem State.setWave_contexts : (s.setWave g w x).contexts = s.contexts := rfl
@[simp] theorem State.setWave_dies : (s.setWave g w x).dies = s.dies := rfl
@[simp] theorem State.setWave_hbm : (s.setWave g w x).hbm = s.hbm := rfl
@[simp] theorem State.setWave_engines : (s.setWave g w x).engines = s.engines := rfl
@[simp] theorem State.setWave_commands : (s.setWave g w x).commands = s.commands := rfl
@[simp] theorem State.setWave_walkers : (s.setWave g w x).walkers = s.walkers := rfl
@[simp] theorem State.setWave_ops : (s.setWave g w x).ops = s.ops := rfl
@[simp] theorem State.setWave_mem : (s.setWave g w x).mem = s.mem := rfl
@[simp] theorem State.setWave_poison : (s.setWave g w x).poison = s.poison := rfl
@[simp] theorem State.setWave_empty : (s.setWave g w x).empty = s.empty := rfl
@[simp] theorem State.setWave_narrow : (s.setWave g w x).narrow = s.narrow := rfl
@[simp] theorem State.setWave_past : (s.setWave g w x).past = s.past := rfl
@[simp] theorem State.setWave_net : (s.setWave g w x).net = s.net := rfl
@[simp] theorem State.setWave_mail : (s.setWave g w x).mail = s.mail := rfl
@[simp] theorem State.setWave_ports : (s.setWave g w x).ports = s.ports := rfl
@[simp] theorem State.setWave_switches : (s.setWave g w x).switches = s.switches := rfl
@[simp] theorem State.setWave_reports : (s.setWave g w x).reports = s.reports := rfl
@[simp] theorem State.setWave_rails : (s.setWave g w x).rails = s.rails := rfl
@[simp] theorem State.setWave_isles : (s.setWave g w x).isles = s.isles := rfl
@[simp] theorem State.setWave_lastServed : (s.setWave g w x).lastServed = s.lastServed := rfl
@[simp] theorem State.setWave_msix : (s.setWave g w x).msix = s.msix := rfl
@[simp] theorem State.setWave_dev : (s.setWave g w x).dev = s.dev := rfl
end

/-! ## State.onWave -/

section
variable (s : State) (g w : Nat) (f : Wave → Wave)
@[simp] theorem State.onWave_cycle : (s.onWave g w f).cycle = s.cycle := rfl
@[simp] theorem State.onWave_cur : (s.onWave g w f).cur = s.cur := rfl
@[simp] theorem State.onWave_about : (s.onWave g w f).about = s.about := rfl
@[simp] theorem State.onWave_view : (s.onWave g w f).view = s.view := rfl
@[simp] theorem State.onWave_schedule : (s.onWave g w f).schedule = s.schedule := rfl
@[simp] theorem State.onWave_progress : (s.onWave g w f).progress = s.progress := rfl
@[simp] theorem State.onWave_nextOp : (s.onWave g w f).nextOp = s.nextOp := rfl
@[simp] theorem State.onWave_nextGroup : (s.onWave g w f).nextGroup = s.nextGroup := rfl
@[simp] theorem State.onWave_nextSerial : (s.onWave g w f).nextSerial = s.nextSerial := rfl
@[simp] theorem State.onWave_cores : (s.onWave g w f).cores = s.cores := rfl
@[simp] theorem State.onWave_contexts : (s.onWave g w f).contexts = s.contexts := rfl
@[simp] theorem State.onWave_dies : (s.onWave g w f).dies = s.dies := rfl
@[simp] theorem State.onWave_hbm : (s.onWave g w f).hbm = s.hbm := rfl
@[simp] theorem State.onWave_engines : (s.onWave g w f).engines = s.engines := rfl
@[simp] theorem State.onWave_commands : (s.onWave g w f).commands = s.commands := rfl
@[simp] theorem State.onWave_walkers : (s.onWave g w f).walkers = s.walkers := rfl
@[simp] theorem State.onWave_ops : (s.onWave g w f).ops = s.ops := rfl
@[simp] theorem State.onWave_mem : (s.onWave g w f).mem = s.mem := rfl
@[simp] theorem State.onWave_poison : (s.onWave g w f).poison = s.poison := rfl
@[simp] theorem State.onWave_empty : (s.onWave g w f).empty = s.empty := rfl
@[simp] theorem State.onWave_narrow : (s.onWave g w f).narrow = s.narrow := rfl
@[simp] theorem State.onWave_past : (s.onWave g w f).past = s.past := rfl
@[simp] theorem State.onWave_net : (s.onWave g w f).net = s.net := rfl
@[simp] theorem State.onWave_mail : (s.onWave g w f).mail = s.mail := rfl
@[simp] theorem State.onWave_ports : (s.onWave g w f).ports = s.ports := rfl
@[simp] theorem State.onWave_switches : (s.onWave g w f).switches = s.switches := rfl
@[simp] theorem State.onWave_reports : (s.onWave g w f).reports = s.reports := rfl
@[simp] theorem State.onWave_rails : (s.onWave g w f).rails = s.rails := rfl
@[simp] theorem State.onWave_isles : (s.onWave g w f).isles = s.isles := rfl
@[simp] theorem State.onWave_lastServed : (s.onWave g w f).lastServed = s.lastServed := rfl
@[simp] theorem State.onWave_msix : (s.onWave g w f).msix = s.msix := rfl
@[simp] theorem State.onWave_dev : (s.onWave g w f).dev = s.dev := rfl
end

/-! ## State.setCommand -/

section
variable (s : State) (o : Nat) (c : Command)
@[simp] theorem State.setCommand_commands : (s.setCommand o c).commands = s.commands.put o c := rfl
@[simp] theorem State.setCommand_cycle : (s.setCommand o c).cycle = s.cycle := rfl
@[simp] theorem State.setCommand_cur : (s.setCommand o c).cur = s.cur := rfl
@[simp] theorem State.setCommand_about : (s.setCommand o c).about = s.about := rfl
@[simp] theorem State.setCommand_view : (s.setCommand o c).view = s.view := rfl
@[simp] theorem State.setCommand_schedule : (s.setCommand o c).schedule = s.schedule := rfl
@[simp] theorem State.setCommand_progress : (s.setCommand o c).progress = s.progress := rfl
@[simp] theorem State.setCommand_nextOp : (s.setCommand o c).nextOp = s.nextOp := rfl
@[simp] theorem State.setCommand_nextGroup : (s.setCommand o c).nextGroup = s.nextGroup := rfl
@[simp] theorem State.setCommand_nextSerial : (s.setCommand o c).nextSerial = s.nextSerial := rfl
@[simp] theorem State.setCommand_groups : (s.setCommand o c).groups = s.groups := rfl
@[simp] theorem State.setCommand_saved : (s.setCommand o c).saved = s.saved := rfl
@[simp] theorem State.setCommand_cores : (s.setCommand o c).cores = s.cores := rfl
@[simp] theorem State.setCommand_contexts : (s.setCommand o c).contexts = s.contexts := rfl
@[simp] theorem State.setCommand_dies : (s.setCommand o c).dies = s.dies := rfl
@[simp] theorem State.setCommand_hbm : (s.setCommand o c).hbm = s.hbm := rfl
@[simp] theorem State.setCommand_engines : (s.setCommand o c).engines = s.engines := rfl
@[simp] theorem State.setCommand_walkers : (s.setCommand o c).walkers = s.walkers := rfl
@[simp] theorem State.setCommand_ops : (s.setCommand o c).ops = s.ops := rfl
@[simp] theorem State.setCommand_mem : (s.setCommand o c).mem = s.mem := rfl
@[simp] theorem State.setCommand_poison : (s.setCommand o c).poison = s.poison := rfl
@[simp] theorem State.setCommand_empty : (s.setCommand o c).empty = s.empty := rfl
@[simp] theorem State.setCommand_narrow : (s.setCommand o c).narrow = s.narrow := rfl
@[simp] theorem State.setCommand_past : (s.setCommand o c).past = s.past := rfl
@[simp] theorem State.setCommand_net : (s.setCommand o c).net = s.net := rfl
@[simp] theorem State.setCommand_mail : (s.setCommand o c).mail = s.mail := rfl
@[simp] theorem State.setCommand_ports : (s.setCommand o c).ports = s.ports := rfl
@[simp] theorem State.setCommand_switches : (s.setCommand o c).switches = s.switches := rfl
@[simp] theorem State.setCommand_reports : (s.setCommand o c).reports = s.reports := rfl
@[simp] theorem State.setCommand_rails : (s.setCommand o c).rails = s.rails := rfl
@[simp] theorem State.setCommand_isles : (s.setCommand o c).isles = s.isles := rfl
@[simp] theorem State.setCommand_lastServed : (s.setCommand o c).lastServed = s.lastServed := rfl
@[simp] theorem State.setCommand_msix : (s.setCommand o c).msix = s.msix := rfl
@[simp] theorem State.setCommand_dev : (s.setCommand o c).dev = s.dev := rfl
end

/-! ## State.setWalker -/

section
variable (s : State) (k : Nat) (w : Walker)
@[simp] theorem State.setWalker_walkers : (s.setWalker k w).walkers = s.walkers.put k w := rfl
@[simp] theorem State.setWalker_cycle : (s.setWalker k w).cycle = s.cycle := rfl
@[simp] theorem State.setWalker_cur : (s.setWalker k w).cur = s.cur := rfl
@[simp] theorem State.setWalker_about : (s.setWalker k w).about = s.about := rfl
@[simp] theorem State.setWalker_view : (s.setWalker k w).view = s.view := rfl
@[simp] theorem State.setWalker_schedule : (s.setWalker k w).schedule = s.schedule := rfl
@[simp] theorem State.setWalker_progress : (s.setWalker k w).progress = s.progress := rfl
@[simp] theorem State.setWalker_nextOp : (s.setWalker k w).nextOp = s.nextOp := rfl
@[simp] theorem State.setWalker_nextGroup : (s.setWalker k w).nextGroup = s.nextGroup := rfl
@[simp] theorem State.setWalker_nextSerial : (s.setWalker k w).nextSerial = s.nextSerial := rfl
@[simp] theorem State.setWalker_groups : (s.setWalker k w).groups = s.groups := rfl
@[simp] theorem State.setWalker_saved : (s.setWalker k w).saved = s.saved := rfl
@[simp] theorem State.setWalker_cores : (s.setWalker k w).cores = s.cores := rfl
@[simp] theorem State.setWalker_contexts : (s.setWalker k w).contexts = s.contexts := rfl
@[simp] theorem State.setWalker_dies : (s.setWalker k w).dies = s.dies := rfl
@[simp] theorem State.setWalker_hbm : (s.setWalker k w).hbm = s.hbm := rfl
@[simp] theorem State.setWalker_engines : (s.setWalker k w).engines = s.engines := rfl
@[simp] theorem State.setWalker_commands : (s.setWalker k w).commands = s.commands := rfl
@[simp] theorem State.setWalker_ops : (s.setWalker k w).ops = s.ops := rfl
@[simp] theorem State.setWalker_mem : (s.setWalker k w).mem = s.mem := rfl
@[simp] theorem State.setWalker_poison : (s.setWalker k w).poison = s.poison := rfl
@[simp] theorem State.setWalker_empty : (s.setWalker k w).empty = s.empty := rfl
@[simp] theorem State.setWalker_narrow : (s.setWalker k w).narrow = s.narrow := rfl
@[simp] theorem State.setWalker_past : (s.setWalker k w).past = s.past := rfl
@[simp] theorem State.setWalker_net : (s.setWalker k w).net = s.net := rfl
@[simp] theorem State.setWalker_mail : (s.setWalker k w).mail = s.mail := rfl
@[simp] theorem State.setWalker_ports : (s.setWalker k w).ports = s.ports := rfl
@[simp] theorem State.setWalker_switches : (s.setWalker k w).switches = s.switches := rfl
@[simp] theorem State.setWalker_reports : (s.setWalker k w).reports = s.reports := rfl
@[simp] theorem State.setWalker_rails : (s.setWalker k w).rails = s.rails := rfl
@[simp] theorem State.setWalker_isles : (s.setWalker k w).isles = s.isles := rfl
@[simp] theorem State.setWalker_lastServed : (s.setWalker k w).lastServed = s.lastServed := rfl
@[simp] theorem State.setWalker_msix : (s.setWalker k w).msix = s.msix := rfl
@[simp] theorem State.setWalker_dev : (s.setWalker k w).dev = s.dev := rfl
end

/-! ## State.setOp -/

section
variable (s : State) (k : Nat) (o : Op)
@[simp] theorem State.setOp_ops : (s.setOp k o).ops = s.ops.put k o := rfl
@[simp] theorem State.setOp_cycle : (s.setOp k o).cycle = s.cycle := rfl
@[simp] theorem State.setOp_cur : (s.setOp k o).cur = s.cur := rfl
@[simp] theorem State.setOp_about : (s.setOp k o).about = s.about := rfl
@[simp] theorem State.setOp_view : (s.setOp k o).view = s.view := rfl
@[simp] theorem State.setOp_schedule : (s.setOp k o).schedule = s.schedule := rfl
@[simp] theorem State.setOp_progress : (s.setOp k o).progress = s.progress := rfl
@[simp] theorem State.setOp_nextOp : (s.setOp k o).nextOp = s.nextOp := rfl
@[simp] theorem State.setOp_nextGroup : (s.setOp k o).nextGroup = s.nextGroup := rfl
@[simp] theorem State.setOp_nextSerial : (s.setOp k o).nextSerial = s.nextSerial := rfl
@[simp] theorem State.setOp_groups : (s.setOp k o).groups = s.groups := rfl
@[simp] theorem State.setOp_saved : (s.setOp k o).saved = s.saved := rfl
@[simp] theorem State.setOp_cores : (s.setOp k o).cores = s.cores := rfl
@[simp] theorem State.setOp_contexts : (s.setOp k o).contexts = s.contexts := rfl
@[simp] theorem State.setOp_dies : (s.setOp k o).dies = s.dies := rfl
@[simp] theorem State.setOp_hbm : (s.setOp k o).hbm = s.hbm := rfl
@[simp] theorem State.setOp_engines : (s.setOp k o).engines = s.engines := rfl
@[simp] theorem State.setOp_commands : (s.setOp k o).commands = s.commands := rfl
@[simp] theorem State.setOp_walkers : (s.setOp k o).walkers = s.walkers := rfl
@[simp] theorem State.setOp_mem : (s.setOp k o).mem = s.mem := rfl
@[simp] theorem State.setOp_poison : (s.setOp k o).poison = s.poison := rfl
@[simp] theorem State.setOp_empty : (s.setOp k o).empty = s.empty := rfl
@[simp] theorem State.setOp_narrow : (s.setOp k o).narrow = s.narrow := rfl
@[simp] theorem State.setOp_past : (s.setOp k o).past = s.past := rfl
@[simp] theorem State.setOp_net : (s.setOp k o).net = s.net := rfl
@[simp] theorem State.setOp_mail : (s.setOp k o).mail = s.mail := rfl
@[simp] theorem State.setOp_ports : (s.setOp k o).ports = s.ports := rfl
@[simp] theorem State.setOp_switches : (s.setOp k o).switches = s.switches := rfl
@[simp] theorem State.setOp_reports : (s.setOp k o).reports = s.reports := rfl
@[simp] theorem State.setOp_rails : (s.setOp k o).rails = s.rails := rfl
@[simp] theorem State.setOp_isles : (s.setOp k o).isles = s.isles := rfl
@[simp] theorem State.setOp_lastServed : (s.setOp k o).lastServed = s.lastServed := rfl
@[simp] theorem State.setOp_msix : (s.setOp k o).msix = s.msix := rfl
@[simp] theorem State.setOp_dev : (s.setOp k o).dev = s.dev := rfl
end

/-! ## State.setByte -/

section
variable (s : State) (k : Nat) (x : Byte)
@[simp] theorem State.setByte_mem : (s.setByte k x).mem = s.mem.write 0 k x := rfl
@[simp] theorem State.setByte_cycle : (s.setByte k x).cycle = s.cycle := rfl
@[simp] theorem State.setByte_cur : (s.setByte k x).cur = s.cur := rfl
@[simp] theorem State.setByte_about : (s.setByte k x).about = s.about := rfl
@[simp] theorem State.setByte_view : (s.setByte k x).view = s.view := rfl
@[simp] theorem State.setByte_schedule : (s.setByte k x).schedule = s.schedule := rfl
@[simp] theorem State.setByte_progress : (s.setByte k x).progress = s.progress := rfl
@[simp] theorem State.setByte_nextOp : (s.setByte k x).nextOp = s.nextOp := rfl
@[simp] theorem State.setByte_nextGroup : (s.setByte k x).nextGroup = s.nextGroup := rfl
@[simp] theorem State.setByte_nextSerial : (s.setByte k x).nextSerial = s.nextSerial := rfl
@[simp] theorem State.setByte_groups : (s.setByte k x).groups = s.groups := rfl
@[simp] theorem State.setByte_saved : (s.setByte k x).saved = s.saved := rfl
@[simp] theorem State.setByte_cores : (s.setByte k x).cores = s.cores := rfl
@[simp] theorem State.setByte_contexts : (s.setByte k x).contexts = s.contexts := rfl
@[simp] theorem State.setByte_dies : (s.setByte k x).dies = s.dies := rfl
@[simp] theorem State.setByte_hbm : (s.setByte k x).hbm = s.hbm := rfl
@[simp] theorem State.setByte_engines : (s.setByte k x).engines = s.engines := rfl
@[simp] theorem State.setByte_commands : (s.setByte k x).commands = s.commands := rfl
@[simp] theorem State.setByte_walkers : (s.setByte k x).walkers = s.walkers := rfl
@[simp] theorem State.setByte_ops : (s.setByte k x).ops = s.ops := rfl
@[simp] theorem State.setByte_poison : (s.setByte k x).poison = s.poison := rfl
@[simp] theorem State.setByte_empty : (s.setByte k x).empty = s.empty := rfl
@[simp] theorem State.setByte_narrow : (s.setByte k x).narrow = s.narrow := rfl
@[simp] theorem State.setByte_past : (s.setByte k x).past = s.past := rfl
@[simp] theorem State.setByte_net : (s.setByte k x).net = s.net := rfl
@[simp] theorem State.setByte_mail : (s.setByte k x).mail = s.mail := rfl
@[simp] theorem State.setByte_ports : (s.setByte k x).ports = s.ports := rfl
@[simp] theorem State.setByte_switches : (s.setByte k x).switches = s.switches := rfl
@[simp] theorem State.setByte_reports : (s.setByte k x).reports = s.reports := rfl
@[simp] theorem State.setByte_rails : (s.setByte k x).rails = s.rails := rfl
@[simp] theorem State.setByte_isles : (s.setByte k x).isles = s.isles := rfl
@[simp] theorem State.setByte_lastServed : (s.setByte k x).lastServed = s.lastServed := rfl
@[simp] theorem State.setByte_msix : (s.setByte k x).msix = s.msix := rfl
@[simp] theorem State.setByte_dev : (s.setByte k x).dev = s.dev := rfl
end

/-! ## State.setPoison -/

section
variable (s : State) (k : Nat)
@[simp] theorem State.setPoison_poison : (s.setPoison k).poison = s.poison.put (k / 16) () := rfl
@[simp] theorem State.setPoison_cycle : (s.setPoison k).cycle = s.cycle := rfl
@[simp] theorem State.setPoison_cur : (s.setPoison k).cur = s.cur := rfl
@[simp] theorem State.setPoison_about : (s.setPoison k).about = s.about := rfl
@[simp] theorem State.setPoison_view : (s.setPoison k).view = s.view := rfl
@[simp] theorem State.setPoison_schedule : (s.setPoison k).schedule = s.schedule := rfl
@[simp] theorem State.setPoison_progress : (s.setPoison k).progress = s.progress := rfl
@[simp] theorem State.setPoison_nextOp : (s.setPoison k).nextOp = s.nextOp := rfl
@[simp] theorem State.setPoison_nextGroup : (s.setPoison k).nextGroup = s.nextGroup := rfl
@[simp] theorem State.setPoison_nextSerial : (s.setPoison k).nextSerial = s.nextSerial := rfl
@[simp] theorem State.setPoison_groups : (s.setPoison k).groups = s.groups := rfl
@[simp] theorem State.setPoison_saved : (s.setPoison k).saved = s.saved := rfl
@[simp] theorem State.setPoison_cores : (s.setPoison k).cores = s.cores := rfl
@[simp] theorem State.setPoison_contexts : (s.setPoison k).contexts = s.contexts := rfl
@[simp] theorem State.setPoison_dies : (s.setPoison k).dies = s.dies := rfl
@[simp] theorem State.setPoison_hbm : (s.setPoison k).hbm = s.hbm := rfl
@[simp] theorem State.setPoison_engines : (s.setPoison k).engines = s.engines := rfl
@[simp] theorem State.setPoison_commands : (s.setPoison k).commands = s.commands := rfl
@[simp] theorem State.setPoison_walkers : (s.setPoison k).walkers = s.walkers := rfl
@[simp] theorem State.setPoison_ops : (s.setPoison k).ops = s.ops := rfl
@[simp] theorem State.setPoison_mem : (s.setPoison k).mem = s.mem := rfl
@[simp] theorem State.setPoison_empty : (s.setPoison k).empty = s.empty := rfl
@[simp] theorem State.setPoison_narrow : (s.setPoison k).narrow = s.narrow := rfl
@[simp] theorem State.setPoison_past : (s.setPoison k).past = s.past := rfl
@[simp] theorem State.setPoison_net : (s.setPoison k).net = s.net := rfl
@[simp] theorem State.setPoison_mail : (s.setPoison k).mail = s.mail := rfl
@[simp] theorem State.setPoison_ports : (s.setPoison k).ports = s.ports := rfl
@[simp] theorem State.setPoison_switches : (s.setPoison k).switches = s.switches := rfl
@[simp] theorem State.setPoison_reports : (s.setPoison k).reports = s.reports := rfl
@[simp] theorem State.setPoison_rails : (s.setPoison k).rails = s.rails := rfl
@[simp] theorem State.setPoison_isles : (s.setPoison k).isles = s.isles := rfl
@[simp] theorem State.setPoison_lastServed : (s.setPoison k).lastServed = s.lastServed := rfl
@[simp] theorem State.setPoison_msix : (s.setPoison k).msix = s.msix := rfl
@[simp] theorem State.setPoison_dev : (s.setPoison k).dev = s.dev := rfl
end

/-! ## State.moved -/

section
variable (s : State)
@[simp] theorem State.moved_progress : s.moved.progress = s.progress + 1 := rfl
@[simp] theorem State.moved_cycle : s.moved.cycle = s.cycle := rfl
@[simp] theorem State.moved_cur : s.moved.cur = s.cur := rfl
@[simp] theorem State.moved_about : s.moved.about = s.about := rfl
@[simp] theorem State.moved_view : s.moved.view = s.view := rfl
@[simp] theorem State.moved_schedule : s.moved.schedule = s.schedule := rfl
@[simp] theorem State.moved_nextOp : s.moved.nextOp = s.nextOp := rfl
@[simp] theorem State.moved_nextGroup : s.moved.nextGroup = s.nextGroup := rfl
@[simp] theorem State.moved_nextSerial : s.moved.nextSerial = s.nextSerial := rfl
@[simp] theorem State.moved_groups : s.moved.groups = s.groups := rfl
@[simp] theorem State.moved_saved : s.moved.saved = s.saved := rfl
@[simp] theorem State.moved_cores : s.moved.cores = s.cores := rfl
@[simp] theorem State.moved_contexts : s.moved.contexts = s.contexts := rfl
@[simp] theorem State.moved_dies : s.moved.dies = s.dies := rfl
@[simp] theorem State.moved_hbm : s.moved.hbm = s.hbm := rfl
@[simp] theorem State.moved_engines : s.moved.engines = s.engines := rfl
@[simp] theorem State.moved_commands : s.moved.commands = s.commands := rfl
@[simp] theorem State.moved_walkers : s.moved.walkers = s.walkers := rfl
@[simp] theorem State.moved_ops : s.moved.ops = s.ops := rfl
@[simp] theorem State.moved_mem : s.moved.mem = s.mem := rfl
@[simp] theorem State.moved_poison : s.moved.poison = s.poison := rfl
@[simp] theorem State.moved_empty : s.moved.empty = s.empty := rfl
@[simp] theorem State.moved_narrow : s.moved.narrow = s.narrow := rfl
@[simp] theorem State.moved_past : s.moved.past = s.past := rfl
@[simp] theorem State.moved_net : s.moved.net = s.net := rfl
@[simp] theorem State.moved_mail : s.moved.mail = s.mail := rfl
@[simp] theorem State.moved_ports : s.moved.ports = s.ports := rfl
@[simp] theorem State.moved_switches : s.moved.switches = s.switches := rfl
@[simp] theorem State.moved_reports : s.moved.reports = s.reports := rfl
@[simp] theorem State.moved_rails : s.moved.rails = s.rails := rfl
@[simp] theorem State.moved_isles : s.moved.isles = s.isles := rfl
@[simp] theorem State.moved_lastServed : s.moved.lastServed = s.lastServed := rfl
@[simp] theorem State.moved_msix : s.moved.msix = s.msix := rfl
@[simp] theorem State.moved_dev : s.moved.dev = s.dev := rfl
end

/-! ## A part read after it is replaced -/

theorem State.core_setCore (s : State) (c q : Nat) (x : Core) : (s.setCore c x).core q = if q = c then x else s.core q :=
  Tab.lookD_put ..
theorem State.context_setContext (s : State) (c q : Nat) (x : Context) : (s.setContext c x).context q = if q = c then x else s.context q :=
  Tab.lookD_put ..
theorem State.die_setDie (s : State) (d q : Nat) (x : Die) : (s.setDie d x).die q = if q = d then x else s.die q :=
  Tab.lookD_put ..
theorem State.stack_setStack (s : State) (k q : Nat) (x : Stack) : (s.setStack k x).stack q = if q = k then x else s.stack q :=
  Tab.lookD_put ..
theorem State.engine_setEngine (s : State) (e q : Nat) (x : Engine) : (s.setEngine e x).engine q = if q = e then x else s.engine q :=
  Tab.lookD_put ..
theorem State.port_setPort (s : State) (p q : Nat) (x : Port) : (s.setPort p x).port q = if q = p then x else s.port q :=
  Tab.lookD_put ..
theorem State.switch_setSwitch (s : State) (k q : Nat) (x : Switch) : (s.setSwitch k x).switch q = if q = k then x else s.switch q :=
  Tab.lookD_put ..
theorem State.report_setReport (s : State) (k q : Nat) (x : Report) : (s.setReport k x).report q = if q = k then x else s.report q :=
  Tab.lookD_put ..

/-! ## Wave.setFrag -/

section
variable (w : Wave) (e : Nat) (f : Fragment)
@[simp] theorem Wave.setFrag_slot : (w.setFrag e f).slot = w.slot := rfl
@[simp] theorem Wave.setFrag_workId : (w.setFrag e f).workId = w.workId := rfl
@[simp] theorem Wave.setFrag_live : (w.setFrag e f).live = w.live := rfl
@[simp] theorem Wave.setFrag_exited : (w.setFrag e f).exited = w.exited := rfl
@[simp] theorem Wave.setFrag_regs : (w.setFrag e f).regs = w.regs := rfl
@[simp] theorem Wave.setFrag_tags : (w.setFrag e f).tags = w.tags := rfl
@[simp] theorem Wave.setFrag_mode : (w.setFrag e f).mode = w.mode := rfl
@[simp] theorem Wave.setFrag_stat : (w.setFrag e f).stat = w.stat := rfl
@[simp] theorem Wave.setFrag_ctr : (w.setFrag e f).ctr = w.ctr := rfl
@[simp] theorem Wave.setFrag_loops : (w.setFrag e f).loops = w.loops := rfl
@[simp] theorem Wave.setFrag_nextLoop : (w.setFrag e f).nextLoop = w.nextLoop := rfl
@[simp] theorem Wave.setFrag_priv : (w.setFrag e f).priv = w.priv := rfl
@[simp] theorem Wave.setFrag_tpc : (w.setFrag e f).tpc = w.tpc := rfl
@[simp] theorem Wave.setFrag_tmask : (w.setFrag e f).tmask = w.tmask := rfl
@[simp] theorem Wave.setFrag_tcause : (w.setFrag e f).tcause = w.tcause := rfl
@[simp] theorem Wave.setFrag_taddr : (w.setFrag e f).taddr = w.taddr := rfl
@[simp] theorem Wave.setFrag_tstat : (w.setFrag e f).tstat = w.tstat := rfl
@[simp] theorem Wave.setFrag_efr : (w.setFrag e f).efr = w.efr := rfl
@[simp] theorem Wave.setFrag_dfr : (w.setFrag e f).dfr = w.dfr := rfl
@[simp] theorem Wave.setFrag_heldSince : (w.setFrag e f).heldSince = w.heldSince := rfl
@[simp] theorem Wave.setFrag_lastEntry : (w.setFrag e f).lastEntry = w.lastEntry := rfl
@[simp] theorem Wave.setFrag_fresh : (w.setFrag e f).fresh = w.fresh := rfl
@[simp] theorem Wave.setFrag_heard : (w.setFrag e f).heard = w.heard := rfl
@[simp] theorem Wave.setFrag_adopted : (w.setFrag e f).adopted = w.adopted := rfl
end

/-! ## Wave.setJoin -/

section
variable (w : Wave) (e : Nat) (j : JoinRec)
@[simp] theorem Wave.setJoin_slot : (w.setJoin e j).slot = w.slot := rfl
@[simp] theorem Wave.setJoin_workId : (w.setJoin e j).workId = w.workId := rfl
@[simp] theorem Wave.setJoin_live : (w.setJoin e j).live = w.live := rfl
@[simp] theorem Wave.setJoin_exited : (w.setJoin e j).exited = w.exited := rfl
@[simp] theorem Wave.setJoin_regs : (w.setJoin e j).regs = w.regs := rfl
@[simp] theorem Wave.setJoin_tags : (w.setJoin e j).tags = w.tags := rfl
@[simp] theorem Wave.setJoin_mode : (w.setJoin e j).mode = w.mode := rfl
@[simp] theorem Wave.setJoin_stat : (w.setJoin e j).stat = w.stat := rfl
@[simp] theorem Wave.setJoin_ctr : (w.setJoin e j).ctr = w.ctr := rfl
@[simp] theorem Wave.setJoin_loops : (w.setJoin e j).loops = w.loops := rfl
@[simp] theorem Wave.setJoin_nextLoop : (w.setJoin e j).nextLoop = w.nextLoop := rfl
@[simp] theorem Wave.setJoin_priv : (w.setJoin e j).priv = w.priv := rfl
@[simp] theorem Wave.setJoin_tpc : (w.setJoin e j).tpc = w.tpc := rfl
@[simp] theorem Wave.setJoin_tmask : (w.setJoin e j).tmask = w.tmask := rfl
@[simp] theorem Wave.setJoin_tcause : (w.setJoin e j).tcause = w.tcause := rfl
@[simp] theorem Wave.setJoin_taddr : (w.setJoin e j).taddr = w.taddr := rfl
@[simp] theorem Wave.setJoin_tstat : (w.setJoin e j).tstat = w.tstat := rfl
@[simp] theorem Wave.setJoin_efr : (w.setJoin e j).efr = w.efr := rfl
@[simp] theorem Wave.setJoin_dfr : (w.setJoin e j).dfr = w.dfr := rfl
@[simp] theorem Wave.setJoin_heldSince : (w.setJoin e j).heldSince = w.heldSince := rfl
@[simp] theorem Wave.setJoin_lastEntry : (w.setJoin e j).lastEntry = w.lastEntry := rfl
@[simp] theorem Wave.setJoin_fresh : (w.setJoin e j).fresh = w.fresh := rfl
@[simp] theorem Wave.setJoin_heard : (w.setJoin e j).heard = w.heard := rfl
@[simp] theorem Wave.setJoin_adopted : (w.setJoin e j).adopted = w.adopted := rfl
end

/-! ## Wave.freeEntry -/

section
variable (w : Wave) (e : Nat)
@[simp] theorem Wave.freeEntry_slot : (w.freeEntry e).slot = w.slot := rfl
@[simp] theorem Wave.freeEntry_workId : (w.freeEntry e).workId = w.workId := rfl
@[simp] theorem Wave.freeEntry_live : (w.freeEntry e).live = w.live := rfl
@[simp] theorem Wave.freeEntry_exited : (w.freeEntry e).exited = w.exited := rfl
@[simp] theorem Wave.freeEntry_regs : (w.freeEntry e).regs = w.regs := rfl
@[simp] theorem Wave.freeEntry_tags : (w.freeEntry e).tags = w.tags := rfl
@[simp] theorem Wave.freeEntry_mode : (w.freeEntry e).mode = w.mode := rfl
@[simp] theorem Wave.freeEntry_stat : (w.freeEntry e).stat = w.stat := rfl
@[simp] theorem Wave.freeEntry_ctr : (w.freeEntry e).ctr = w.ctr := rfl
@[simp] theorem Wave.freeEntry_loops : (w.freeEntry e).loops = w.loops := rfl
@[simp] theorem Wave.freeEntry_nextLoop : (w.freeEntry e).nextLoop = w.nextLoop := rfl
@[simp] theorem Wave.freeEntry_priv : (w.freeEntry e).priv = w.priv := rfl
@[simp] theorem Wave.freeEntry_tpc : (w.freeEntry e).tpc = w.tpc := rfl
@[simp] theorem Wave.freeEntry_tmask : (w.freeEntry e).tmask = w.tmask := rfl
@[simp] theorem Wave.freeEntry_tcause : (w.freeEntry e).tcause = w.tcause := rfl
@[simp] theorem Wave.freeEntry_taddr : (w.freeEntry e).taddr = w.taddr := rfl
@[simp] theorem Wave.freeEntry_tstat : (w.freeEntry e).tstat = w.tstat := rfl
@[simp] theorem Wave.freeEntry_efr : (w.freeEntry e).efr = w.efr := rfl
@[simp] theorem Wave.freeEntry_dfr : (w.freeEntry e).dfr = w.dfr := rfl
@[simp] theorem Wave.freeEntry_heldSince : (w.freeEntry e).heldSince = w.heldSince := rfl
@[simp] theorem Wave.freeEntry_lastEntry : (w.freeEntry e).lastEntry = w.lastEntry := rfl
@[simp] theorem Wave.freeEntry_fresh : (w.freeEntry e).fresh = w.fresh := rfl
@[simp] theorem Wave.freeEntry_heard : (w.freeEntry e).heard = w.heard := rfl
@[simp] theorem Wave.freeEntry_adopted : (w.freeEntry e).adopted = w.adopted := rfl
end

/-! ## Wave.count -/

section
variable (w : Wave) (k : CtrKind)
@[simp] theorem Wave.count_slot : (w.count k).slot = w.slot := rfl
@[simp] theorem Wave.count_workId : (w.count k).workId = w.workId := rfl
@[simp] theorem Wave.count_live : (w.count k).live = w.live := rfl
@[simp] theorem Wave.count_exited : (w.count k).exited = w.exited := rfl
@[simp] theorem Wave.count_regs : (w.count k).regs = w.regs := rfl
@[simp] theorem Wave.count_tags : (w.count k).tags = w.tags := rfl
@[simp] theorem Wave.count_mode : (w.count k).mode = w.mode := rfl
@[simp] theorem Wave.count_stat : (w.count k).stat = w.stat := rfl
@[simp] theorem Wave.count_split : (w.count k).split = w.split := rfl
@[simp] theorem Wave.count_loops : (w.count k).loops = w.loops := rfl
@[simp] theorem Wave.count_nextLoop : (w.count k).nextLoop = w.nextLoop := rfl
@[simp] theorem Wave.count_priv : (w.count k).priv = w.priv := rfl
@[simp] theorem Wave.count_tpc : (w.count k).tpc = w.tpc := rfl
@[simp] theorem Wave.count_tmask : (w.count k).tmask = w.tmask := rfl
@[simp] theorem Wave.count_tcause : (w.count k).tcause = w.tcause := rfl
@[simp] theorem Wave.count_taddr : (w.count k).taddr = w.taddr := rfl
@[simp] theorem Wave.count_tstat : (w.count k).tstat = w.tstat := rfl
@[simp] theorem Wave.count_efr : (w.count k).efr = w.efr := rfl
@[simp] theorem Wave.count_dfr : (w.count k).dfr = w.dfr := rfl
@[simp] theorem Wave.count_heldSince : (w.count k).heldSince = w.heldSince := rfl
@[simp] theorem Wave.count_lastEntry : (w.count k).lastEntry = w.lastEntry := rfl
@[simp] theorem Wave.count_fresh : (w.count k).fresh = w.fresh := rfl
@[simp] theorem Wave.count_heard : (w.count k).heard = w.heard := rfl
@[simp] theorem Wave.count_adopted : (w.count k).adopted = w.adopted := rfl
end

/-! ## Wave.uncount -/

section
variable (w : Wave) (k : CtrKind)
@[simp] theorem Wave.uncount_slot : (w.uncount k).slot = w.slot := rfl
@[simp] theorem Wave.uncount_workId : (w.uncount k).workId = w.workId := rfl
@[simp] theorem Wave.uncount_live : (w.uncount k).live = w.live := rfl
@[simp] theorem Wave.uncount_exited : (w.uncount k).exited = w.exited := rfl
@[simp] theorem Wave.uncount_regs : (w.uncount k).regs = w.regs := rfl
@[simp] theorem Wave.uncount_tags : (w.uncount k).tags = w.tags := rfl
@[simp] theorem Wave.uncount_mode : (w.uncount k).mode = w.mode := rfl
@[simp] theorem Wave.uncount_stat : (w.uncount k).stat = w.stat := rfl
@[simp] theorem Wave.uncount_split : (w.uncount k).split = w.split := rfl
@[simp] theorem Wave.uncount_loops : (w.uncount k).loops = w.loops := rfl
@[simp] theorem Wave.uncount_nextLoop : (w.uncount k).nextLoop = w.nextLoop := rfl
@[simp] theorem Wave.uncount_priv : (w.uncount k).priv = w.priv := rfl
@[simp] theorem Wave.uncount_tpc : (w.uncount k).tpc = w.tpc := rfl
@[simp] theorem Wave.uncount_tmask : (w.uncount k).tmask = w.tmask := rfl
@[simp] theorem Wave.uncount_tcause : (w.uncount k).tcause = w.tcause := rfl
@[simp] theorem Wave.uncount_taddr : (w.uncount k).taddr = w.taddr := rfl
@[simp] theorem Wave.uncount_tstat : (w.uncount k).tstat = w.tstat := rfl
@[simp] theorem Wave.uncount_efr : (w.uncount k).efr = w.efr := rfl
@[simp] theorem Wave.uncount_dfr : (w.uncount k).dfr = w.dfr := rfl
@[simp] theorem Wave.uncount_heldSince : (w.uncount k).heldSince = w.heldSince := rfl
@[simp] theorem Wave.uncount_lastEntry : (w.uncount k).lastEntry = w.lastEntry := rfl
@[simp] theorem Wave.uncount_fresh : (w.uncount k).fresh = w.fresh := rfl
@[simp] theorem Wave.uncount_heard : (w.uncount k).heard = w.heard := rfl
@[simp] theorem Wave.uncount_adopted : (w.uncount k).adopted = w.adopted := rfl
end

/-! ## Wave.onLoop -/

section
variable (w : Wave) (id : Nat) (f : LoopEnt → LoopEnt)
@[simp] theorem Wave.onLoop_slot : (w.onLoop id f).slot = w.slot := rfl
@[simp] theorem Wave.onLoop_workId : (w.onLoop id f).workId = w.workId := rfl
@[simp] theorem Wave.onLoop_live : (w.onLoop id f).live = w.live := rfl
@[simp] theorem Wave.onLoop_exited : (w.onLoop id f).exited = w.exited := rfl
@[simp] theorem Wave.onLoop_regs : (w.onLoop id f).regs = w.regs := rfl
@[simp] theorem Wave.onLoop_tags : (w.onLoop id f).tags = w.tags := rfl
@[simp] theorem Wave.onLoop_mode : (w.onLoop id f).mode = w.mode := rfl
@[simp] theorem Wave.onLoop_stat : (w.onLoop id f).stat = w.stat := rfl
@[simp] theorem Wave.onLoop_ctr : (w.onLoop id f).ctr = w.ctr := rfl
@[simp] theorem Wave.onLoop_split : (w.onLoop id f).split = w.split := rfl
@[simp] theorem Wave.onLoop_nextLoop : (w.onLoop id f).nextLoop = w.nextLoop := rfl
@[simp] theorem Wave.onLoop_priv : (w.onLoop id f).priv = w.priv := rfl
@[simp] theorem Wave.onLoop_tpc : (w.onLoop id f).tpc = w.tpc := rfl
@[simp] theorem Wave.onLoop_tmask : (w.onLoop id f).tmask = w.tmask := rfl
@[simp] theorem Wave.onLoop_tcause : (w.onLoop id f).tcause = w.tcause := rfl
@[simp] theorem Wave.onLoop_taddr : (w.onLoop id f).taddr = w.taddr := rfl
@[simp] theorem Wave.onLoop_tstat : (w.onLoop id f).tstat = w.tstat := rfl
@[simp] theorem Wave.onLoop_efr : (w.onLoop id f).efr = w.efr := rfl
@[simp] theorem Wave.onLoop_dfr : (w.onLoop id f).dfr = w.dfr := rfl
@[simp] theorem Wave.onLoop_heldSince : (w.onLoop id f).heldSince = w.heldSince := rfl
@[simp] theorem Wave.onLoop_lastEntry : (w.onLoop id f).lastEntry = w.lastEntry := rfl
@[simp] theorem Wave.onLoop_fresh : (w.onLoop id f).fresh = w.fresh := rfl
@[simp] theorem Wave.onLoop_heard : (w.onLoop id f).heard = w.heard := rfl
@[simp] theorem Wave.onLoop_adopted : (w.onLoop id f).adopted = w.adopted := rfl
end

/-! ## Wave.dropLoop -/

section
variable (w : Wave) (id : Nat)
@[simp] theorem Wave.dropLoop_slot : (w.dropLoop id).slot = w.slot := rfl
@[simp] theorem Wave.dropLoop_workId : (w.dropLoop id).workId = w.workId := rfl
@[simp] theorem Wave.dropLoop_live : (w.dropLoop id).live = w.live := rfl
@[simp] theorem Wave.dropLoop_exited : (w.dropLoop id).exited = w.exited := rfl
@[simp] theorem Wave.dropLoop_regs : (w.dropLoop id).regs = w.regs := rfl
@[simp] theorem Wave.dropLoop_tags : (w.dropLoop id).tags = w.tags := rfl
@[simp] theorem Wave.dropLoop_mode : (w.dropLoop id).mode = w.mode := rfl
@[simp] theorem Wave.dropLoop_stat : (w.dropLoop id).stat = w.stat := rfl
@[simp] theorem Wave.dropLoop_ctr : (w.dropLoop id).ctr = w.ctr := rfl
@[simp] theorem Wave.dropLoop_split : (w.dropLoop id).split = w.split := rfl
@[simp] theorem Wave.dropLoop_nextLoop : (w.dropLoop id).nextLoop = w.nextLoop := rfl
@[simp] theorem Wave.dropLoop_priv : (w.dropLoop id).priv = w.priv := rfl
@[simp] theorem Wave.dropLoop_tpc : (w.dropLoop id).tpc = w.tpc := rfl
@[simp] theorem Wave.dropLoop_tmask : (w.dropLoop id).tmask = w.tmask := rfl
@[simp] theorem Wave.dropLoop_tcause : (w.dropLoop id).tcause = w.tcause := rfl
@[simp] theorem Wave.dropLoop_taddr : (w.dropLoop id).taddr = w.taddr := rfl
@[simp] theorem Wave.dropLoop_tstat : (w.dropLoop id).tstat = w.tstat := rfl
@[simp] theorem Wave.dropLoop_efr : (w.dropLoop id).efr = w.efr := rfl
@[simp] theorem Wave.dropLoop_dfr : (w.dropLoop id).dfr = w.dfr := rfl
@[simp] theorem Wave.dropLoop_heldSince : (w.dropLoop id).heldSince = w.heldSince := rfl
@[simp] theorem Wave.dropLoop_lastEntry : (w.dropLoop id).lastEntry = w.lastEntry := rfl
@[simp] theorem Wave.dropLoop_fresh : (w.dropLoop id).fresh = w.fresh := rfl
@[simp] theorem Wave.dropLoop_heard : (w.dropLoop id).heard = w.heard := rfl
@[simp] theorem Wave.dropLoop_adopted : (w.dropLoop id).adopted = w.adopted := rfl
end

end Sys2Proof.Machine
end

