-- ==== Sys2Proof/Laws/Memory.lean ====
section
/-! SUPPORT. The laws of memory: a byte read after a write, and the canonical form, which every operation that replaces
memory keeps (assumption log 5). -/

namespace Sys2Proof.Machine

/-! ## Reads after writes -/

theorem State.byte_setByte (s : State) (k n : Nat) (x : Byte) : (s.setByte k x).byte n = if n = k then x else s.byte n :=
  Tab.lookD_write ..

/-- Writing bytes replaces memory and nothing else. -/
theorem State.setBytes_rest (l : List Byte) (s : State) (k : Nat) :
    s.setBytes k l = { s with mem := (s.setBytes k l).mem } := by
  induction l generalizing s k with
  | nil => rfl
  | cons x r ih => simp only [State.setBytes]; rw [ih]; rfl

theorem Tab.look_filter {α : Type} (t : Tab α) (p : Nat → Bool) (q : Nat) :
    Tab.look (t.filter fun e => p e.1) q = if p q = true then Tab.look t q else none := by
  induction t with
  | nil => simp
  | cons e r ih =>
    obtain ⟨j, v⟩ := e
    by_cases hj : p j = true <;> by_cases hq : q = j <;> simp_all [List.filter, Tab.look_cons]

/-- A byte of a range that is emptied reads zero; every other byte is as it was. -/
theorem Tab.lookD_delRange {α : Type} (t : Tab α) (lo n q : Nat) (d : α) :
    Tab.lookD (Tab.delRange t lo n) q d = if lo ≤ q ∧ q < lo + n then d else Tab.lookD t q d := by
  have h := Tab.look_filter t (fun k => !(decide (lo ≤ k) && decide (k < lo + n))) q
  unfold Tab.lookD Tab.delRange
  rw [h]
  by_cases a : lo ≤ q <;> by_cases b : q < lo + n <;> simp [a, b]

/-! ## The canonical form -/

/-- Memory at reset lists nothing. -/
theorem State.reset_mem : State.reset.mem = [] := rfl

theorem Memory.wf_delRange {m : Tab Byte} (h : Memory.wf m = true) (lo n : Nat) : Memory.wf (Tab.delRange m lo n) = true :=
  Tab.canon_filter h _

theorem State.wf_setByte {s : State} (h : Memory.wf s.mem = true) (k : Nat) (x : Byte) :
    Memory.wf (s.setByte k x).mem = true := Tab.canon_write h k x

theorem State.wf_setBytes {s : State} (h : Memory.wf s.mem = true) (k : Nat) (l : List Byte) :
    Memory.wf (s.setBytes k l).mem = true := by
  induction l generalizing s k with
  | nil => exact h
  | cons x r ih => exact ih (State.wf_setByte h k x) (k + 1)

theorem State.wf_putCells {s : State} (h : Memory.wf s.mem = true) (key : Nat) (cs : Tab Byte) :
    Memory.wf (s.putCells key cs).mem = true := by
  unfold State.putCells
  induction cs generalizing s with
  | nil => exact h
  | cons e r ih => exact ih (State.wf_setByte h _ _)

theorem State.dirtyLine_mem (s : State) (ctx key : Nat) : (s.dirtyLine ctx key).mem = s.mem := by
  unfold State.dirtyLine; split <;> rfl

theorem State.wf_storeCell {s : State} (h : Memory.wf s.mem = true) (key : Nat) (bs : List Byte) :
    Memory.wf (s.storeCell key bs).mem = true := by
  unfold State.storeCell
  split
  · exact h
  · exact State.wf_setBytes h key bs

theorem State.wf_store {s : State} (h : Memory.wf s.mem = true) (ctx key : Nat) (bs : List Byte) :
    Memory.wf (s.store ctx key bs).mem = true := by
  unfold State.store
  split
  · exact h
  · rw [State.dirtyLine_mem]; exact State.wf_storeCell h key bs

theorem State.wf_put {s : State} (h : Memory.wf s.mem = true) (ctx key : Nat) (bs : List Byte) :
    Memory.wf (s.put ctx key bs).mem = true := by
  unfold State.put
  split
  · exact State.wf_setBytes h key bs
  · exact State.wf_store h ctx key bs

theorem State.wf_zeroLine {s : State} (h : Memory.wf s.mem = true) (ctx key : Nat) :
    Memory.wf (s.zeroLine ctx key).mem = true := by
  unfold State.zeroLine
  rw [State.dirtyLine_mem]
  exact Memory.wf_delRange h key 128

theorem State.wf_setSplit {s : State} (h : Memory.wf s.mem = true) (core sreg sscr : Nat) :
    Memory.wf (s.setSplit core sreg sscr).mem = true := by
  unfold State.setSplit
  dsimp only
  split
  · exact h
  · exact Memory.wf_delRange h _ _

theorem State.wf_takeRegion {s : State} (h : Memory.wf s.mem = true) (core base n : Nat) :
    Memory.wf (s.takeRegion core base n).mem = true := Memory.wf_delRange h _ _

theorem State.wf_install {s : State} (h : Memory.wf s.mem = true) (ctx core slot : Nat) (va : DWord) (cs : Tab Byte) :
    Memory.wf (s.install ctx core slot va cs).mem = true :=
  State.wf_putCells (s := { s with mem := Tab.delRange s.mem (scratchKey core (4096 * slot)) 4096 })
    (Memory.wf_delRange h _ _) _ cs

theorem State.wf_deviceReset {s : State} (h : Memory.wf s.mem = true) : Memory.wf s.deviceReset.mem = true :=
  Tab.canon_filter h _

theorem State.wf_foldl {α : Type} {f : State → α → State} (hf : ∀ s x, Memory.wf s.mem = true → Memory.wf (f s x).mem = true)
    (l : List α) {s : State} (h : Memory.wf s.mem = true) : Memory.wf (l.foldl f s).mem = true := by
  induction l generalizing s with
  | nil => exact h
  | cons x r ih => exact ih (hf s x h)

theorem State.wf_zeroFrame {s : State} (h : Memory.wf s.mem = true) (ctx die f : Nat) :
    Memory.wf (s.zeroFrame ctx die f).mem = true :=
  State.wf_foldl (f := zeroFrameLine ctx die f) (fun _ _ h => State.wf_zeroLine h ctx _) (List.range 512) h

/-- Frames entered into the page tables. -/
theorem State.wf_enter {s : State} (h : Memory.wf s.mem = true) (ctx die off fl level table : Nat) (fs : List Nat) :
    Memory.wf (s.enter ctx die off fl level table fs).mem = true := by
  induction fs generalizing s level table with
  | nil => simpa only [State.enter] using h
  | cons f r ih => exact ih (State.wf_store (State.wf_zeroFrame h ctx die f) ..) ..

theorem State.pinSlot_mem (s : State) (core slot : Nat) : (s.pinSlot core slot).1.mem = s.mem := by
  unfold State.pinSlot
  split <;> rfl

/-- A noted tile placed for a group that comes back. -/
theorem State.wf_placeTile {s : State} {p : State × Option Nat} (h : Memory.wf s.mem = true) {ctx core : Nat} {t : SavedTile}
    (hp : s.placeTile ctx core t = some p) : Memory.wf p.1.mem = true := by
  have dirty : ∀ (u : State) (k : Nat), Memory.wf u.mem = true → Memory.wf
      (if t.dirty then
        (({ u with mem := Tab.delRange u.mem (scratchKey core (4096 * k)) 4096 } : State).putCells
            (scratchKey core (4096 * k)) t.cells).onCore core fun c =>
          { c with tags := c.tags.change k fun e => { e with dirty := true } }
      else u).mem = true := by
    intro u k hu
    split
    · exact State.wf_putCells (s := { u with mem := _ }) (Memory.wf_delRange hu _ _) _ _
    · exact hu
  unfold State.placeTile at hp
  dsimp only at hp
  split at hp
  · injection hp with hp
    rw [← hp, State.pinSlot_mem]
    exact dirty s _ h
  · split at hp
    · exact absurd hp (by simp)
    · split at hp
      · injection hp with hp; rw [← hp]; exact h
      · injection hp with hp
        rw [← hp, State.pinSlot_mem]
        exact dirty _ _ (State.wf_install h ..)

end Sys2Proof.Machine
end

