-- ==== Sys2Proof/Laws/PerInstr.lean ====
section
/-! SUPPORT. What is said of every instruction, one lemma for each constructor: the first of its words carries the opcode the
opcode map gives it and is marked long exactly when it has a literal; it has as many words as its size says (03 R72, R75,
R78, R82). An event has no words. -/

namespace Sys2Proof

theorem fOp_wordR (op : BitVec 9) (h : BitVec 2) (d a b : Reg) : fOp (wordR op h d a b) = op := by
  unfold fOp wordR
  apply BitVec.eq_of_getLsbD_eq
  intro i hi
  simp only [BitVec.getLsbD_extractLsb', BitVec.getLsbD_append]
  simp [show i < 9 from hi, show ¬23 + i < 7 by omega, show ¬23 + i - 7 < 7 by omega, show ¬23 + i - 7 - 7 < 7 by omega,
    show ¬23 + i - 7 - 7 - 7 < 2 by omega, show 23 + i - 7 - 7 - 7 - 2 = i by omega]

theorem fOp_wordK (op : BitVec 9) (k : Reg) (x : BitVec 16) : fOp (wordK op k x) = op := by
  unfold fOp wordK
  apply BitVec.eq_of_getLsbD_eq
  intro i hi
  simp only [BitVec.getLsbD_extractLsb', BitVec.getLsbD_append]
  simp [show i < 9 from hi, show ¬23 + i < 16 by omega, show ¬23 + i - 16 < 7 by omega, show 23 + i - 16 - 7 = i by omega]

/-- An opcode of the literal set (03 R78). -/
def literalOp (op : Nat) : Bool := (0x052 ≤ op && op ≤ 0x055) || op = 0x0C6

namespace Laws

/-- The words of an instruction agree with its opcode and its size. -/
def OpcodeAndLength.Statement (i : Instr) : Prop :=
  (encode i).head?.map (fun w => (fOp w).toNat) = opcode i ∧
    (encode i).head?.map wordIsLong = (opcode i).map (fun _ => isLong i) ∧
    4 * (encode i).length = if (opcode i).isSome then sizeOf4 i else 0

theorem OpcodeAndLength.of_words {i : Instr} {w : Word} {r : List Word} (op : BitVec 9) (hw : fOp w = op)
    (he : encode i = w :: r) (ho : opcode i = some op.toNat) (hl : literalOp op.toNat = isLong i)
    (hs : 4 * (r.length + 1) = sizeOf4 i) : OpcodeAndLength.Statement i := by
  unfold OpcodeAndLength.Statement
  rw [he, ho]
  refine ⟨?_, ?_, ?_⟩
  · simp [hw]
  · simp only [List.head?_cons, Option.map_some, ← hl]
    unfold wordIsLong literalOp
    rw [hw]
  · simpa using hs

theorem OpcodeAndLength.of_event {i : Instr} (he : encode i = []) (ho : opcode i = none) : OpcodeAndLength.Statement i := by
  unfold OpcodeAndLength.Statement
  rw [he, ho]
  exact ⟨rfl, rfl, rfl⟩

end Laws
end Sys2Proof

theorem Sys2Proof.Laws.OpcodeAndLength.add : ∀ x y z u, Sys2Proof.Laws.OpcodeAndLength.Statement (.add x y z u) :=
  fun _ _ _ _ => Sys2Proof.Laws.OpcodeAndLength.of_words _ (Sys2Proof.fOp_wordR ..) rfl rfl rfl rfl
theorem Sys2Proof.Laws.OpcodeAndLength.sub : ∀ x y z u, Sys2Proof.Laws.OpcodeAndLength.Statement (.sub x y z u) :=
  fun _ _ _ _ => Sys2Proof.Laws.OpcodeAndLength.of_words _ (Sys2Proof.fOp_wordR ..) rfl rfl rfl rfl
theorem Sys2Proof.Laws.OpcodeAndLength.mul : ∀ x y z u, Sys2Proof.Laws.OpcodeAndLength.Statement (.mul x y z u) :=
  fun _ _ _ _ => Sys2Proof.Laws.OpcodeAndLength.of_words _ (Sys2Proof.fOp_wordR ..) rfl rfl rfl rfl
theorem Sys2Proof.Laws.OpcodeAndLength.mulh : ∀ x y z u, Sys2Proof.Laws.OpcodeAndLength.Statement (.mulh x y z u) :=
  fun _ _ _ _ => Sys2Proof.Laws.OpcodeAndLength.of_words _ (Sys2Proof.fOp_wordR ..) rfl rfl rfl rfl
theorem Sys2Proof.Laws.OpcodeAndLength.mad : ∀ x y z u, Sys2Proof.Laws.OpcodeAndLength.Statement (.mad x y z u) :=
  fun _ _ _ _ => Sys2Proof.Laws.OpcodeAndLength.of_words _ (Sys2Proof.fOp_wordR ..) rfl rfl rfl rfl
theorem Sys2Proof.Laws.OpcodeAndLength.divu : ∀ x y z u, Sys2Proof.Laws.OpcodeAndLength.Statement (.divu x y z u) :=
  fun _ _ _ _ => Sys2Proof.Laws.OpcodeAndLength.of_words _ (Sys2Proof.fOp_wordR ..) rfl rfl rfl rfl
theorem Sys2Proof.Laws.OpcodeAndLength.divs : ∀ x y z u, Sys2Proof.Laws.OpcodeAndLength.Statement (.divs x y z u) :=
  fun _ _ _ _ => Sys2Proof.Laws.OpcodeAndLength.of_words _ (Sys2Proof.fOp_wordR ..) rfl rfl rfl rfl
theorem Sys2Proof.Laws.OpcodeAndLength.min : ∀ x y z u, Sys2Proof.Laws.OpcodeAndLength.Statement (.min x y z u) :=
  fun _ _ _ _ => Sys2Proof.Laws.OpcodeAndLength.of_words _ (Sys2Proof.fOp_wordR ..) rfl rfl rfl rfl
theorem Sys2Proof.Laws.OpcodeAndLength.max : ∀ x y z u, Sys2Proof.Laws.OpcodeAndLength.Statement (.max x y z u) :=
  fun _ _ _ _ => Sys2Proof.Laws.OpcodeAndLength.of_words _ (Sys2Proof.fOp_wordR ..) rfl rfl rfl rfl
theorem Sys2Proof.Laws.OpcodeAndLength.abs : ∀ x y z, Sys2Proof.Laws.OpcodeAndLength.Statement (.abs x y z) :=
  fun _ _ _ => Sys2Proof.Laws.OpcodeAndLength.of_words _ (Sys2Proof.fOp_wordR ..) rfl rfl rfl rfl
theorem Sys2Proof.Laws.OpcodeAndLength.neg : ∀ x y z, Sys2Proof.Laws.OpcodeAndLength.Statement (.neg x y z) :=
  fun _ _ _ => Sys2Proof.Laws.OpcodeAndLength.of_words _ (Sys2Proof.fOp_wordR ..) rfl rfl rfl rfl
theorem Sys2Proof.Laws.OpcodeAndLength.and : ∀ x y z u, Sys2Proof.Laws.OpcodeAndLength.Statement (.and x y z u) :=
  fun _ _ _ _ => Sys2Proof.Laws.OpcodeAndLength.of_words _ (Sys2Proof.fOp_wordR ..) rfl rfl rfl rfl
theorem Sys2Proof.Laws.OpcodeAndLength.or : ∀ x y z u, Sys2Proof.Laws.OpcodeAndLength.Statement (.or x y z u) :=
  fun _ _ _ _ => Sys2Proof.Laws.OpcodeAndLength.of_words _ (Sys2Proof.fOp_wordR ..) rfl rfl rfl rfl
theorem Sys2Proof.Laws.OpcodeAndLength.xor : ∀ x y z u, Sys2Proof.Laws.OpcodeAndLength.Statement (.xor x y z u) :=
  fun _ _ _ _ => Sys2Proof.Laws.OpcodeAndLength.of_words _ (Sys2Proof.fOp_wordR ..) rfl rfl rfl rfl
theorem Sys2Proof.Laws.OpcodeAndLength.not : ∀ x y z, Sys2Proof.Laws.OpcodeAndLength.Statement (.not x y z) :=
  fun _ _ _ => Sys2Proof.Laws.OpcodeAndLength.of_words _ (Sys2Proof.fOp_wordR ..) rfl rfl rfl rfl
theorem Sys2Proof.Laws.OpcodeAndLength.andn : ∀ x y z u, Sys2Proof.Laws.OpcodeAndLength.Statement (.andn x y z u) :=
  fun _ _ _ _ => Sys2Proof.Laws.OpcodeAndLength.of_words _ (Sys2Proof.fOp_wordR ..) rfl rfl rfl rfl
theorem Sys2Proof.Laws.OpcodeAndLength.shl : ∀ x y z u, Sys2Proof.Laws.OpcodeAndLength.Statement (.shl x y z u) :=
  fun _ _ _ _ => Sys2Proof.Laws.OpcodeAndLength.of_words _ (Sys2Proof.fOp_wordR ..) rfl rfl rfl rfl
theorem Sys2Proof.Laws.OpcodeAndLength.shr : ∀ x y z u, Sys2Proof.Laws.OpcodeAndLength.Statement (.shr x y z u) :=
  fun _ _ _ _ => Sys2Proof.Laws.OpcodeAndLength.of_words _ (Sys2Proof.fOp_wordR ..) rfl rfl rfl rfl
theorem Sys2Proof.Laws.OpcodeAndLength.rotl : ∀ x y z u, Sys2Proof.Laws.OpcodeAndLength.Statement (.rotl x y z u) :=
  fun _ _ _ _ => Sys2Proof.Laws.OpcodeAndLength.of_words _ (Sys2Proof.fOp_wordR ..) rfl rfl rfl rfl
theorem Sys2Proof.Laws.OpcodeAndLength.rotr : ∀ x y z u, Sys2Proof.Laws.OpcodeAndLength.Statement (.rotr x y z u) :=
  fun _ _ _ _ => Sys2Proof.Laws.OpcodeAndLength.of_words _ (Sys2Proof.fOp_wordR ..) rfl rfl rfl rfl
theorem Sys2Proof.Laws.OpcodeAndLength.popc : ∀ x y z, Sys2Proof.Laws.OpcodeAndLength.Statement (.popc x y z) :=
  fun _ _ _ => Sys2Proof.Laws.OpcodeAndLength.of_words _ (Sys2Proof.fOp_wordR ..) rfl rfl rfl rfl
theorem Sys2Proof.Laws.OpcodeAndLength.clz : ∀ x y z, Sys2Proof.Laws.OpcodeAndLength.Statement (.clz x y z) :=
  fun _ _ _ => Sys2Proof.Laws.OpcodeAndLength.of_words _ (Sys2Proof.fOp_wordR ..) rfl rfl rfl rfl
theorem Sys2Proof.Laws.OpcodeAndLength.brev : ∀ x y z, Sys2Proof.Laws.OpcodeAndLength.Statement (.brev x y z) :=
  fun _ _ _ => Sys2Proof.Laws.OpcodeAndLength.of_words _ (Sys2Proof.fOp_wordR ..) rfl rfl rfl rfl
theorem Sys2Proof.Laws.OpcodeAndLength.bfe : ∀ x y z u, Sys2Proof.Laws.OpcodeAndLength.Statement (.bfe x y z u) :=
  fun _ _ _ _ => Sys2Proof.Laws.OpcodeAndLength.of_words _ (Sys2Proof.fOp_wordR ..) rfl rfl rfl rfl
theorem Sys2Proof.Laws.OpcodeAndLength.bfi : ∀ x y z u, Sys2Proof.Laws.OpcodeAndLength.Statement (.bfi x y z u) :=
  fun _ _ _ _ => Sys2Proof.Laws.OpcodeAndLength.of_words _ (Sys2Proof.fOp_wordR ..) rfl rfl rfl rfl
theorem Sys2Proof.Laws.OpcodeAndLength.add64 : ∀ x y z u, Sys2Proof.Laws.OpcodeAndLength.Statement (.add64 x y z u) :=
  fun _ _ _ _ => Sys2Proof.Laws.OpcodeAndLength.of_words _ (Sys2Proof.fOp_wordR ..) rfl rfl rfl rfl
theorem Sys2Proof.Laws.OpcodeAndLength.sub64 : ∀ x y z u, Sys2Proof.Laws.OpcodeAndLength.Statement (.sub64 x y z u) :=
  fun _ _ _ _ => Sys2Proof.Laws.OpcodeAndLength.of_words _ (Sys2Proof.fOp_wordR ..) rfl rfl rfl rfl
theorem Sys2Proof.Laws.OpcodeAndLength.shl64 : ∀ x y z u, Sys2Proof.Laws.OpcodeAndLength.Statement (.shl64 x y z u) :=
  fun _ _ _ _ => Sys2Proof.Laws.OpcodeAndLength.of_words _ (Sys2Proof.fOp_wordR ..) rfl rfl rfl rfl
theorem Sys2Proof.Laws.OpcodeAndLength.shr64 : ∀ x y z u, Sys2Proof.Laws.OpcodeAndLength.Statement (.shr64 x y z u) :=
  fun _ _ _ _ => Sys2Proof.Laws.OpcodeAndLength.of_words _ (Sys2Proof.fOp_wordR ..) rfl rfl rfl rfl
theorem Sys2Proof.Laws.OpcodeAndLength.seq : ∀ x y z u, Sys2Proof.Laws.OpcodeAndLength.Statement (.seq x y z u) :=
  fun _ _ _ _ => Sys2Proof.Laws.OpcodeAndLength.of_words _ (Sys2Proof.fOp_wordR ..) rfl rfl rfl rfl
theorem Sys2Proof.Laws.OpcodeAndLength.sne : ∀ x y z u, Sys2Proof.Laws.OpcodeAndLength.Statement (.sne x y z u) :=
  fun _ _ _ _ => Sys2Proof.Laws.OpcodeAndLength.of_words _ (Sys2Proof.fOp_wordR ..) rfl rfl rfl rfl
theorem Sys2Proof.Laws.OpcodeAndLength.slt : ∀ x y z u, Sys2Proof.Laws.OpcodeAndLength.Statement (.slt x y z u) :=
  fun _ _ _ _ => Sys2Proof.Laws.OpcodeAndLength.of_words _ (Sys2Proof.fOp_wordR ..) rfl rfl rfl rfl
theorem Sys2Proof.Laws.OpcodeAndLength.sle : ∀ x y z u, Sys2Proof.Laws.OpcodeAndLength.Statement (.sle x y z u) :=
  fun _ _ _ _ => Sys2Proof.Laws.OpcodeAndLength.of_words _ (Sys2Proof.fOp_wordR ..) rfl rfl rfl rfl
theorem Sys2Proof.Laws.OpcodeAndLength.sel : ∀ x y z u, Sys2Proof.Laws.OpcodeAndLength.Statement (.sel x y z u) :=
  fun _ _ _ _ => Sys2Proof.Laws.OpcodeAndLength.of_words _ (Sys2Proof.fOp_wordR ..) rfl rfl rfl rfl
theorem Sys2Proof.Laws.OpcodeAndLength.mov : ∀ x y z, Sys2Proof.Laws.OpcodeAndLength.Statement (.mov x y z) :=
  fun _ _ _ => Sys2Proof.Laws.OpcodeAndLength.of_words _ (Sys2Proof.fOp_wordR ..) rfl rfl rfl rfl
theorem Sys2Proof.Laws.OpcodeAndLength.addx : ∀ x y z u, Sys2Proof.Laws.OpcodeAndLength.Statement (.addx x y z u) :=
  fun _ _ _ _ => Sys2Proof.Laws.OpcodeAndLength.of_words _ (Sys2Proof.fOp_wordR ..) rfl rfl rfl rfl
theorem Sys2Proof.Laws.OpcodeAndLength.addi : ∀ x y z u, Sys2Proof.Laws.OpcodeAndLength.Statement (.addi x y z u) :=
  fun _ _ _ _ => Sys2Proof.Laws.OpcodeAndLength.of_words _ (Sys2Proof.fOp_wordR ..) rfl rfl rfl rfl
theorem Sys2Proof.Laws.OpcodeAndLength.muli : ∀ x y z u, Sys2Proof.Laws.OpcodeAndLength.Statement (.muli x y z u) :=
  fun _ _ _ _ => Sys2Proof.Laws.OpcodeAndLength.of_words _ (Sys2Proof.fOp_wordR ..) rfl rfl rfl rfl
theorem Sys2Proof.Laws.OpcodeAndLength.andi : ∀ x y z u, Sys2Proof.Laws.OpcodeAndLength.Statement (.andi x y z u) :=
  fun _ _ _ _ => Sys2Proof.Laws.OpcodeAndLength.of_words _ (Sys2Proof.fOp_wordR ..) rfl rfl rfl rfl
theorem Sys2Proof.Laws.OpcodeAndLength.ori : ∀ x y z u, Sys2Proof.Laws.OpcodeAndLength.Statement (.ori x y z u) :=
  fun _ _ _ _ => Sys2Proof.Laws.OpcodeAndLength.of_words _ (Sys2Proof.fOp_wordR ..) rfl rfl rfl rfl
theorem Sys2Proof.Laws.OpcodeAndLength.xori : ∀ x y z u, Sys2Proof.Laws.OpcodeAndLength.Statement (.xori x y z u) :=
  fun _ _ _ _ => Sys2Proof.Laws.OpcodeAndLength.of_words _ (Sys2Proof.fOp_wordR ..) rfl rfl rfl rfl
theorem Sys2Proof.Laws.OpcodeAndLength.shli : ∀ x y z u, Sys2Proof.Laws.OpcodeAndLength.Statement (.shli x y z u) :=
  fun _ _ _ _ => Sys2Proof.Laws.OpcodeAndLength.of_words _ (Sys2Proof.fOp_wordR ..) rfl rfl rfl rfl
theorem Sys2Proof.Laws.OpcodeAndLength.shri : ∀ x y z u, Sys2Proof.Laws.OpcodeAndLength.Statement (.shri x y z u) :=
  fun _ _ _ _ => Sys2Proof.Laws.OpcodeAndLength.of_words _ (Sys2Proof.fOp_wordR ..) rfl rfl rfl rfl
theorem Sys2Proof.Laws.OpcodeAndLength.rotli : ∀ x y z u, Sys2Proof.Laws.OpcodeAndLength.Statement (.rotli x y z u) :=
  fun _ _ _ _ => Sys2Proof.Laws.OpcodeAndLength.of_words _ (Sys2Proof.fOp_wordR ..) rfl rfl rfl rfl
theorem Sys2Proof.Laws.OpcodeAndLength.seqi : ∀ x y z u, Sys2Proof.Laws.OpcodeAndLength.Statement (.seqi x y z u) :=
  fun _ _ _ _ => Sys2Proof.Laws.OpcodeAndLength.of_words _ (Sys2Proof.fOp_wordR ..) rfl rfl rfl rfl
theorem Sys2Proof.Laws.OpcodeAndLength.snei : ∀ x y z u, Sys2Proof.Laws.OpcodeAndLength.Statement (.snei x y z u) :=
  fun _ _ _ _ => Sys2Proof.Laws.OpcodeAndLength.of_words _ (Sys2Proof.fOp_wordR ..) rfl rfl rfl rfl
theorem Sys2Proof.Laws.OpcodeAndLength.slti : ∀ x y z u, Sys2Proof.Laws.OpcodeAndLength.Statement (.slti x y z u) :=
  fun _ _ _ _ => Sys2Proof.Laws.OpcodeAndLength.of_words _ (Sys2Proof.fOp_wordR ..) rfl rfl rfl rfl
theorem Sys2Proof.Laws.OpcodeAndLength.slei : ∀ x y z u, Sys2Proof.Laws.OpcodeAndLength.Statement (.slei x y z u) :=
  fun _ _ _ _ => Sys2Proof.Laws.OpcodeAndLength.of_words _ (Sys2Proof.fOp_wordR ..) rfl rfl rfl rfl
theorem Sys2Proof.Laws.OpcodeAndLength.mini : ∀ x y z u, Sys2Proof.Laws.OpcodeAndLength.Statement (.mini x y z u) :=
  fun _ _ _ _ => Sys2Proof.Laws.OpcodeAndLength.of_words _ (Sys2Proof.fOp_wordR ..) rfl rfl rfl rfl
theorem Sys2Proof.Laws.OpcodeAndLength.maxi : ∀ x y z u, Sys2Proof.Laws.OpcodeAndLength.Statement (.maxi x y z u) :=
  fun _ _ _ _ => Sys2Proof.Laws.OpcodeAndLength.of_words _ (Sys2Proof.fOp_wordR ..) rfl rfl rfl rfl
theorem Sys2Proof.Laws.OpcodeAndLength.addi64 : ∀ x y z u, Sys2Proof.Laws.OpcodeAndLength.Statement (.addi64 x y z u) :=
  fun _ _ _ _ => Sys2Proof.Laws.OpcodeAndLength.of_words _ (Sys2Proof.fOp_wordR ..) rfl rfl rfl rfl
theorem Sys2Proof.Laws.OpcodeAndLength.movk : ∀ x y, Sys2Proof.Laws.OpcodeAndLength.Statement (.movk x y) :=
  fun _ _ => Sys2Proof.Laws.OpcodeAndLength.of_words _ (Sys2Proof.fOp_wordK ..) rfl rfl rfl rfl
theorem Sys2Proof.Laws.OpcodeAndLength.movh : ∀ x y, Sys2Proof.Laws.OpcodeAndLength.Statement (.movh x y) :=
  fun _ _ => Sys2Proof.Laws.OpcodeAndLength.of_words _ (Sys2Proof.fOp_wordK ..) rfl rfl rfl rfl
theorem Sys2Proof.Laws.OpcodeAndLength.lit : ∀ x y, Sys2Proof.Laws.OpcodeAndLength.Statement (.lit x y) :=
  fun _ _ => Sys2Proof.Laws.OpcodeAndLength.of_words _ (Sys2Proof.fOp_wordK ..) rfl rfl rfl rfl
theorem Sys2Proof.Laws.OpcodeAndLength.addl : ∀ x y, Sys2Proof.Laws.OpcodeAndLength.Statement (.addl x y) :=
  fun _ _ => Sys2Proof.Laws.OpcodeAndLength.of_words _ (Sys2Proof.fOp_wordK ..) rfl rfl rfl rfl
theorem Sys2Proof.Laws.OpcodeAndLength.andl : ∀ x y, Sys2Proof.Laws.OpcodeAndLength.Statement (.andl x y) :=
  fun _ _ => Sys2Proof.Laws.OpcodeAndLength.of_words _ (Sys2Proof.fOp_wordK ..) rfl rfl rfl rfl
theorem Sys2Proof.Laws.OpcodeAndLength.orl : ∀ x y, Sys2Proof.Laws.OpcodeAndLength.Statement (.orl x y) :=
  fun _ _ => Sys2Proof.Laws.OpcodeAndLength.of_words _ (Sys2Proof.fOp_wordK ..) rfl rfl rfl rfl
theorem Sys2Proof.Laws.OpcodeAndLength.addU : ∀ x y z u, Sys2Proof.Laws.OpcodeAndLength.Statement (.addU x y z u) :=
  fun _ _ _ _ => Sys2Proof.Laws.OpcodeAndLength.of_words _ (Sys2Proof.fOp_wordR ..) rfl rfl rfl rfl
theorem Sys2Proof.Laws.OpcodeAndLength.subU : ∀ x y z u, Sys2Proof.Laws.OpcodeAndLength.Statement (.subU x y z u) :=
  fun _ _ _ _ => Sys2Proof.Laws.OpcodeAndLength.of_words _ (Sys2Proof.fOp_wordR ..) rfl rfl rfl rfl
theorem Sys2Proof.Laws.OpcodeAndLength.mulU : ∀ x y z u, Sys2Proof.Laws.OpcodeAndLength.Statement (.mulU x y z u) :=
  fun _ _ _ _ => Sys2Proof.Laws.OpcodeAndLength.of_words _ (Sys2Proof.fOp_wordR ..) rfl rfl rfl rfl
theorem Sys2Proof.Laws.OpcodeAndLength.andU : ∀ x y z u, Sys2Proof.Laws.OpcodeAndLength.Statement (.andU x y z u) :=
  fun _ _ _ _ => Sys2Proof.Laws.OpcodeAndLength.of_words _ (Sys2Proof.fOp_wordR ..) rfl rfl rfl rfl
theorem Sys2Proof.Laws.OpcodeAndLength.orU : ∀ x y z u, Sys2Proof.Laws.OpcodeAndLength.Statement (.orU x y z u) :=
  fun _ _ _ _ => Sys2Proof.Laws.OpcodeAndLength.of_words _ (Sys2Proof.fOp_wordR ..) rfl rfl rfl rfl
theorem Sys2Proof.Laws.OpcodeAndLength.xorU : ∀ x y z u, Sys2Proof.Laws.OpcodeAndLength.Statement (.xorU x y z u) :=
  fun _ _ _ _ => Sys2Proof.Laws.OpcodeAndLength.of_words _ (Sys2Proof.fOp_wordR ..) rfl rfl rfl rfl
theorem Sys2Proof.Laws.OpcodeAndLength.shlU : ∀ x y z u, Sys2Proof.Laws.OpcodeAndLength.Statement (.shlU x y z u) :=
  fun _ _ _ _ => Sys2Proof.Laws.OpcodeAndLength.of_words _ (Sys2Proof.fOp_wordR ..) rfl rfl rfl rfl
theorem Sys2Proof.Laws.OpcodeAndLength.shrU : ∀ x y z u, Sys2Proof.Laws.OpcodeAndLength.Statement (.shrU x y z u) :=
  fun _ _ _ _ => Sys2Proof.Laws.OpcodeAndLength.of_words _ (Sys2Proof.fOp_wordR ..) rfl rfl rfl rfl
theorem Sys2Proof.Laws.OpcodeAndLength.minU : ∀ x y z u, Sys2Proof.Laws.OpcodeAndLength.Statement (.minU x y z u) :=
  fun _ _ _ _ => Sys2Proof.Laws.OpcodeAndLength.of_words _ (Sys2Proof.fOp_wordR ..) rfl rfl rfl rfl
theorem Sys2Proof.Laws.OpcodeAndLength.maxU : ∀ x y z u, Sys2Proof.Laws.OpcodeAndLength.Statement (.maxU x y z u) :=
  fun _ _ _ _ => Sys2Proof.Laws.OpcodeAndLength.of_words _ (Sys2Proof.fOp_wordR ..) rfl rfl rfl rfl
theorem Sys2Proof.Laws.OpcodeAndLength.seqU : ∀ x y z u, Sys2Proof.Laws.OpcodeAndLength.Statement (.seqU x y z u) :=
  fun _ _ _ _ => Sys2Proof.Laws.OpcodeAndLength.of_words _ (Sys2Proof.fOp_wordR ..) rfl rfl rfl rfl
theorem Sys2Proof.Laws.OpcodeAndLength.sltU : ∀ x y z u, Sys2Proof.Laws.OpcodeAndLength.Statement (.sltU x y z u) :=
  fun _ _ _ _ => Sys2Proof.Laws.OpcodeAndLength.of_words _ (Sys2Proof.fOp_wordR ..) rfl rfl rfl rfl
theorem Sys2Proof.Laws.OpcodeAndLength.movU : ∀ x y z, Sys2Proof.Laws.OpcodeAndLength.Statement (.movU x y z) :=
  fun _ _ _ => Sys2Proof.Laws.OpcodeAndLength.of_words _ (Sys2Proof.fOp_wordR ..) rfl rfl rfl rfl
theorem Sys2Proof.Laws.OpcodeAndLength.add64U : ∀ x y z u, Sys2Proof.Laws.OpcodeAndLength.Statement (.add64U x y z u) :=
  fun _ _ _ _ => Sys2Proof.Laws.OpcodeAndLength.of_words _ (Sys2Proof.fOp_wordR ..) rfl rfl rfl rfl
theorem Sys2Proof.Laws.OpcodeAndLength.addiU : ∀ x y z u, Sys2Proof.Laws.OpcodeAndLength.Statement (.addiU x y z u) :=
  fun _ _ _ _ => Sys2Proof.Laws.OpcodeAndLength.of_words _ (Sys2Proof.fOp_wordR ..) rfl rfl rfl rfl
theorem Sys2Proof.Laws.OpcodeAndLength.shliU : ∀ x y z u, Sys2Proof.Laws.OpcodeAndLength.Statement (.shliU x y z u) :=
  fun _ _ _ _ => Sys2Proof.Laws.OpcodeAndLength.of_words _ (Sys2Proof.fOp_wordR ..) rfl rfl rfl rfl
theorem Sys2Proof.Laws.OpcodeAndLength.fadd : ∀ x y z u, Sys2Proof.Laws.OpcodeAndLength.Statement (.fadd x y z u) :=
  fun _ _ _ _ => Sys2Proof.Laws.OpcodeAndLength.of_words _ (Sys2Proof.fOp_wordR ..) rfl rfl rfl rfl
theorem Sys2Proof.Laws.OpcodeAndLength.fsub : ∀ x y z u, Sys2Proof.Laws.OpcodeAndLength.Statement (.fsub x y z u) :=
  fun _ _ _ _ => Sys2Proof.Laws.OpcodeAndLength.of_words _ (Sys2Proof.fOp_wordR ..) rfl rfl rfl rfl
theorem Sys2Proof.Laws.OpcodeAndLength.fmul : ∀ x y z u, Sys2Proof.Laws.OpcodeAndLength.Statement (.fmul x y z u) :=
  fun _ _ _ _ => Sys2Proof.Laws.OpcodeAndLength.of_words _ (Sys2Proof.fOp_wordR ..) rfl rfl rfl rfl
theorem Sys2Proof.Laws.OpcodeAndLength.fma : ∀ x y z u, Sys2Proof.Laws.OpcodeAndLength.Statement (.fma x y z u) :=
  fun _ _ _ _ => Sys2Proof.Laws.OpcodeAndLength.of_words _ (Sys2Proof.fOp_wordR ..) rfl rfl rfl rfl
theorem Sys2Proof.Laws.OpcodeAndLength.fmin : ∀ x y z u, Sys2Proof.Laws.OpcodeAndLength.Statement (.fmin x y z u) :=
  fun _ _ _ _ => Sys2Proof.Laws.OpcodeAndLength.of_words _ (Sys2Proof.fOp_wordR ..) rfl rfl rfl rfl
theorem Sys2Proof.Laws.OpcodeAndLength.fmax : ∀ x y z u, Sys2Proof.Laws.OpcodeAndLength.Statement (.fmax x y z u) :=
  fun _ _ _ _ => Sys2Proof.Laws.OpcodeAndLength.of_words _ (Sys2Proof.fOp_wordR ..) rfl rfl rfl rfl
theorem Sys2Proof.Laws.OpcodeAndLength.fabs : ∀ x y z, Sys2Proof.Laws.OpcodeAndLength.Statement (.fabs x y z) :=
  fun _ _ _ => Sys2Proof.Laws.OpcodeAndLength.of_words _ (Sys2Proof.fOp_wordR ..) rfl rfl rfl rfl
theorem Sys2Proof.Laws.OpcodeAndLength.fneg : ∀ x y z, Sys2Proof.Laws.OpcodeAndLength.Statement (.fneg x y z) :=
  fun _ _ _ => Sys2Proof.Laws.OpcodeAndLength.of_words _ (Sys2Proof.fOp_wordR ..) rfl rfl rfl rfl
theorem Sys2Proof.Laws.OpcodeAndLength.frcp : ∀ x y z, Sys2Proof.Laws.OpcodeAndLength.Statement (.frcp x y z) :=
  fun _ _ _ => Sys2Proof.Laws.OpcodeAndLength.of_words _ (Sys2Proof.fOp_wordR ..) rfl rfl rfl rfl
theorem Sys2Proof.Laws.OpcodeAndLength.frsq : ∀ x y z, Sys2Proof.Laws.OpcodeAndLength.Statement (.frsq x y z) :=
  fun _ _ _ => Sys2Proof.Laws.OpcodeAndLength.of_words _ (Sys2Proof.fOp_wordR ..) rfl rfl rfl rfl
theorem Sys2Proof.Laws.OpcodeAndLength.fsqrt : ∀ x y z, Sys2Proof.Laws.OpcodeAndLength.Statement (.fsqrt x y z) :=
  fun _ _ _ => Sys2Proof.Laws.OpcodeAndLength.of_words _ (Sys2Proof.fOp_wordR ..) rfl rfl rfl rfl
theorem Sys2Proof.Laws.OpcodeAndLength.fexp2 : ∀ x y z, Sys2Proof.Laws.OpcodeAndLength.Statement (.fexp2 x y z) :=
  fun _ _ _ => Sys2Proof.Laws.OpcodeAndLength.of_words _ (Sys2Proof.fOp_wordR ..) rfl rfl rfl rfl
theorem Sys2Proof.Laws.OpcodeAndLength.flog2 : ∀ x y z, Sys2Proof.Laws.OpcodeAndLength.Statement (.flog2 x y z) :=
  fun _ _ _ => Sys2Proof.Laws.OpcodeAndLength.of_words _ (Sys2Proof.fOp_wordR ..) rfl rfl rfl rfl
theorem Sys2Proof.Laws.OpcodeAndLength.fseq : ∀ x y z u, Sys2Proof.Laws.OpcodeAndLength.Statement (.fseq x y z u) :=
  fun _ _ _ _ => Sys2Proof.Laws.OpcodeAndLength.of_words _ (Sys2Proof.fOp_wordR ..) rfl rfl rfl rfl
theorem Sys2Proof.Laws.OpcodeAndLength.fsne : ∀ x y z u, Sys2Proof.Laws.OpcodeAndLength.Statement (.fsne x y z u) :=
  fun _ _ _ _ => Sys2Proof.Laws.OpcodeAndLength.of_words _ (Sys2Proof.fOp_wordR ..) rfl rfl rfl rfl
theorem Sys2Proof.Laws.OpcodeAndLength.fslt : ∀ x y z u, Sys2Proof.Laws.OpcodeAndLength.Statement (.fslt x y z u) :=
  fun _ _ _ _ => Sys2Proof.Laws.OpcodeAndLength.of_words _ (Sys2Proof.fOp_wordR ..) rfl rfl rfl rfl
theorem Sys2Proof.Laws.OpcodeAndLength.fsle : ∀ x y z u, Sys2Proof.Laws.OpcodeAndLength.Statement (.fsle x y z u) :=
  fun _ _ _ _ => Sys2Proof.Laws.OpcodeAndLength.of_words _ (Sys2Proof.fOp_wordR ..) rfl rfl rfl rfl
theorem Sys2Proof.Laws.OpcodeAndLength.dot2 : ∀ x y z u, Sys2Proof.Laws.OpcodeAndLength.Statement (.dot2 x y z u) :=
  fun _ _ _ _ => Sys2Proof.Laws.OpcodeAndLength.of_words _ (Sys2Proof.fOp_wordR ..) rfl rfl rfl rfl
theorem Sys2Proof.Laws.OpcodeAndLength.dot4 : ∀ x y z u, Sys2Proof.Laws.OpcodeAndLength.Statement (.dot4 x y z u) :=
  fun _ _ _ _ => Sys2Proof.Laws.OpcodeAndLength.of_words _ (Sys2Proof.fOp_wordR ..) rfl rfl rfl rfl
theorem Sys2Proof.Laws.OpcodeAndLength.dot8 : ∀ x y z u, Sys2Proof.Laws.OpcodeAndLength.Statement (.dot8 x y z u) :=
  fun _ _ _ _ => Sys2Proof.Laws.OpcodeAndLength.of_words _ (Sys2Proof.fOp_wordR ..) rfl rfl rfl rfl
theorem Sys2Proof.Laws.OpcodeAndLength.hadd : ∀ x y z u, Sys2Proof.Laws.OpcodeAndLength.Statement (.hadd x y z u) :=
  fun _ _ _ _ => Sys2Proof.Laws.OpcodeAndLength.of_words _ (Sys2Proof.fOp_wordR ..) rfl rfl rfl rfl
theorem Sys2Proof.Laws.OpcodeAndLength.hsub : ∀ x y z u, Sys2Proof.Laws.OpcodeAndLength.Statement (.hsub x y z u) :=
  fun _ _ _ _ => Sys2Proof.Laws.OpcodeAndLength.of_words _ (Sys2Proof.fOp_wordR ..) rfl rfl rfl rfl
theorem Sys2Proof.Laws.OpcodeAndLength.hmul : ∀ x y z u, Sys2Proof.Laws.OpcodeAndLength.Statement (.hmul x y z u) :=
  fun _ _ _ _ => Sys2Proof.Laws.OpcodeAndLength.of_words _ (Sys2Proof.fOp_wordR ..) rfl rfl rfl rfl
theorem Sys2Proof.Laws.OpcodeAndLength.hfma : ∀ x y z u, Sys2Proof.Laws.OpcodeAndLength.Statement (.hfma x y z u) :=
  fun _ _ _ _ => Sys2Proof.Laws.OpcodeAndLength.of_words _ (Sys2Proof.fOp_wordR ..) rfl rfl rfl rfl
theorem Sys2Proof.Laws.OpcodeAndLength.hmin : ∀ x y z u, Sys2Proof.Laws.OpcodeAndLength.Statement (.hmin x y z u) :=
  fun _ _ _ _ => Sys2Proof.Laws.OpcodeAndLength.of_words _ (Sys2Proof.fOp_wordR ..) rfl rfl rfl rfl
theorem Sys2Proof.Laws.OpcodeAndLength.hmax : ∀ x y z u, Sys2Proof.Laws.OpcodeAndLength.Statement (.hmax x y z u) :=
  fun _ _ _ _ => Sys2Proof.Laws.OpcodeAndLength.of_words _ (Sys2Proof.fOp_wordR ..) rfl rfl rfl rfl
theorem Sys2Proof.Laws.OpcodeAndLength.cvt : ∀ x y z, Sys2Proof.Laws.OpcodeAndLength.Statement (.cvt x y z) :=
  fun _ _ _ => Sys2Proof.Laws.OpcodeAndLength.of_words _ (Sys2Proof.fOp_wordR ..) rfl rfl rfl rfl
theorem Sys2Proof.Laws.OpcodeAndLength.pack : ∀ x y z u, Sys2Proof.Laws.OpcodeAndLength.Statement (.pack x y z u) :=
  fun _ _ _ _ => Sys2Proof.Laws.OpcodeAndLength.of_words _ (Sys2Proof.fOp_wordR ..) rfl rfl rfl rfl
theorem Sys2Proof.Laws.OpcodeAndLength.unpk : ∀ x y z u, Sys2Proof.Laws.OpcodeAndLength.Statement (.unpk x y z u) :=
  fun _ _ _ _ => Sys2Proof.Laws.OpcodeAndLength.of_words _ (Sys2Proof.fOp_wordR ..) rfl rfl rfl rfl
theorem Sys2Proof.Laws.OpcodeAndLength.tagw : ∀ x y, Sys2Proof.Laws.OpcodeAndLength.Statement (.tagw x y) :=
  fun _ _ => Sys2Proof.Laws.OpcodeAndLength.of_words _ (Sys2Proof.fOp_wordK ..) rfl rfl rfl rfl
theorem Sys2Proof.Laws.OpcodeAndLength.tagr : ∀ x y z, Sys2Proof.Laws.OpcodeAndLength.Statement (.tagr x y z) :=
  fun _ _ _ => Sys2Proof.Laws.OpcodeAndLength.of_words _ (Sys2Proof.fOp_wordR ..) rfl rfl rfl rfl
theorem Sys2Proof.Laws.OpcodeAndLength.setm : ∀ x y z, Sys2Proof.Laws.OpcodeAndLength.Statement (.setm x y z) :=
  fun _ _ _ => Sys2Proof.Laws.OpcodeAndLength.of_words _ (Sys2Proof.fOp_wordR ..) rfl rfl rfl rfl
theorem Sys2Proof.Laws.OpcodeAndLength.setmi : ∀ x, Sys2Proof.Laws.OpcodeAndLength.Statement (.setmi x) :=
  fun _ => Sys2Proof.Laws.OpcodeAndLength.of_words _ (Sys2Proof.fOp_wordK ..) rfl rfl rfl rfl
theorem Sys2Proof.Laws.OpcodeAndLength.getm : ∀ x y z, Sys2Proof.Laws.OpcodeAndLength.Statement (.getm x y z) :=
  fun _ _ _ => Sys2Proof.Laws.OpcodeAndLength.of_words _ (Sys2Proof.fOp_wordR ..) rfl rfl rfl rfl
theorem Sys2Proof.Laws.OpcodeAndLength.stat : ∀ x y z, Sys2Proof.Laws.OpcodeAndLength.Statement (.stat x y z) :=
  fun _ _ _ => Sys2Proof.Laws.OpcodeAndLength.of_words _ (Sys2Proof.fOp_wordR ..) rfl rfl rfl rfl
theorem Sys2Proof.Laws.OpcodeAndLength.voteAny : ∀ x y z, Sys2Proof.Laws.OpcodeAndLength.Statement (.voteAny x y z) :=
  fun _ _ _ => Sys2Proof.Laws.OpcodeAndLength.of_words _ (Sys2Proof.fOp_wordR ..) rfl rfl rfl rfl
theorem Sys2Proof.Laws.OpcodeAndLength.voteAll : ∀ x y z, Sys2Proof.Laws.OpcodeAndLength.Statement (.voteAll x y z) :=
  fun _ _ _ => Sys2Proof.Laws.OpcodeAndLength.of_words _ (Sys2Proof.fOp_wordR ..) rfl rfl rfl rfl
theorem Sys2Proof.Laws.OpcodeAndLength.voteBal : ∀ x y z, Sys2Proof.Laws.OpcodeAndLength.Statement (.voteBal x y z) :=
  fun _ _ _ => Sys2Proof.Laws.OpcodeAndLength.of_words _ (Sys2Proof.fOp_wordR ..) rfl rfl rfl rfl
theorem Sys2Proof.Laws.OpcodeAndLength.shflIdx : ∀ x y z u, Sys2Proof.Laws.OpcodeAndLength.Statement (.shflIdx x y z u) :=
  fun _ _ _ _ => Sys2Proof.Laws.OpcodeAndLength.of_words _ (Sys2Proof.fOp_wordR ..) rfl rfl rfl rfl
theorem Sys2Proof.Laws.OpcodeAndLength.shflUp : ∀ x y z u, Sys2Proof.Laws.OpcodeAndLength.Statement (.shflUp x y z u) :=
  fun _ _ _ _ => Sys2Proof.Laws.OpcodeAndLength.of_words _ (Sys2Proof.fOp_wordR ..) rfl rfl rfl rfl
theorem Sys2Proof.Laws.OpcodeAndLength.shflDn : ∀ x y z u, Sys2Proof.Laws.OpcodeAndLength.Statement (.shflDn x y z u) :=
  fun _ _ _ _ => Sys2Proof.Laws.OpcodeAndLength.of_words _ (Sys2Proof.fOp_wordR ..) rfl rfl rfl rfl
theorem Sys2Proof.Laws.OpcodeAndLength.shflXor : ∀ x y z u, Sys2Proof.Laws.OpcodeAndLength.Statement (.shflXor x y z u) :=
  fun _ _ _ _ => Sys2Proof.Laws.OpcodeAndLength.of_words _ (Sys2Proof.fOp_wordR ..) rfl rfl rfl rfl
theorem Sys2Proof.Laws.OpcodeAndLength.bcast : ∀ x y z u, Sys2Proof.Laws.OpcodeAndLength.Statement (.bcast x y z u) :=
  fun _ _ _ _ => Sys2Proof.Laws.OpcodeAndLength.of_words _ (Sys2Proof.fOp_wordR ..) rfl rfl rfl rfl
theorem Sys2Proof.Laws.OpcodeAndLength.reduAdd : ∀ x y z, Sys2Proof.Laws.OpcodeAndLength.Statement (.reduAdd x y z) :=
  fun _ _ _ => Sys2Proof.Laws.OpcodeAndLength.of_words _ (Sys2Proof.fOp_wordR ..) rfl rfl rfl rfl
theorem Sys2Proof.Laws.OpcodeAndLength.reduMin : ∀ x y z, Sys2Proof.Laws.OpcodeAndLength.Statement (.reduMin x y z) :=
  fun _ _ _ => Sys2Proof.Laws.OpcodeAndLength.of_words _ (Sys2Proof.fOp_wordR ..) rfl rfl rfl rfl
theorem Sys2Proof.Laws.OpcodeAndLength.reduMax : ∀ x y z, Sys2Proof.Laws.OpcodeAndLength.Statement (.reduMax x y z) :=
  fun _ _ _ => Sys2Proof.Laws.OpcodeAndLength.of_words _ (Sys2Proof.fOp_wordR ..) rfl rfl rfl rfl
theorem Sys2Proof.Laws.OpcodeAndLength.prefx : ∀ x y z, Sys2Proof.Laws.OpcodeAndLength.Statement (.prefx x y z) :=
  fun _ _ _ => Sys2Proof.Laws.OpcodeAndLength.of_words _ (Sys2Proof.fOp_wordR ..) rfl rfl rfl rfl
theorem Sys2Proof.Laws.OpcodeAndLength.wid : ∀ x y z, Sys2Proof.Laws.OpcodeAndLength.Statement (.wid x y z) :=
  fun _ _ _ => Sys2Proof.Laws.OpcodeAndLength.of_words _ (Sys2Proof.fOp_wordR ..) rfl rfl rfl rfl
theorem Sys2Proof.Laws.OpcodeAndLength.lane : ∀ x y, Sys2Proof.Laws.OpcodeAndLength.Statement (.lane x y) :=
  fun _ _ => Sys2Proof.Laws.OpcodeAndLength.of_words _ (Sys2Proof.fOp_wordR ..) rfl rfl rfl rfl
theorem Sys2Proof.Laws.OpcodeAndLength.maskr : ∀ x y, Sys2Proof.Laws.OpcodeAndLength.Statement (.maskr x y) :=
  fun _ _ => Sys2Proof.Laws.OpcodeAndLength.of_words _ (Sys2Proof.fOp_wordR ..) rfl rfl rfl rfl
theorem Sys2Proof.Laws.OpcodeAndLength.liver : ∀ x y, Sys2Proof.Laws.OpcodeAndLength.Statement (.liver x y) :=
  fun _ _ => Sys2Proof.Laws.OpcodeAndLength.of_words _ (Sys2Proof.fOp_wordR ..) rfl rfl rfl rfl
theorem Sys2Proof.Laws.OpcodeAndLength.nop : ∀ x, Sys2Proof.Laws.OpcodeAndLength.Statement (.nop x) :=
  fun _ => Sys2Proof.Laws.OpcodeAndLength.of_words _ (Sys2Proof.fOp_wordR ..) rfl rfl rfl rfl
theorem Sys2Proof.Laws.OpcodeAndLength.br : ∀ x y, Sys2Proof.Laws.OpcodeAndLength.Statement (.br x y) :=
  fun _ _ => Sys2Proof.Laws.OpcodeAndLength.of_words _ (Sys2Proof.fOp_wordK ..) rfl rfl rfl rfl
theorem Sys2Proof.Laws.OpcodeAndLength.bru : ∀ x y, Sys2Proof.Laws.OpcodeAndLength.Statement (.bru x y) :=
  fun _ _ => Sys2Proof.Laws.OpcodeAndLength.of_words _ (Sys2Proof.fOp_wordK ..) rfl rfl rfl rfl
theorem Sys2Proof.Laws.OpcodeAndLength.jmp : ∀ x, Sys2Proof.Laws.OpcodeAndLength.Statement (.jmp x) :=
  fun _ => Sys2Proof.Laws.OpcodeAndLength.of_words _ (Sys2Proof.fOp_wordK ..) rfl rfl rfl rfl
theorem Sys2Proof.Laws.OpcodeAndLength.jmpr : ∀ x y, Sys2Proof.Laws.OpcodeAndLength.Statement (.jmpr x y) :=
  fun _ _ => Sys2Proof.Laws.OpcodeAndLength.of_words _ (Sys2Proof.fOp_wordR ..) rfl rfl rfl rfl
theorem Sys2Proof.Laws.OpcodeAndLength.call : ∀ x y, Sys2Proof.Laws.OpcodeAndLength.Statement (.call x y) :=
  fun _ _ => Sys2Proof.Laws.OpcodeAndLength.of_words _ (Sys2Proof.fOp_wordK ..) rfl rfl rfl rfl
theorem Sys2Proof.Laws.OpcodeAndLength.ret : ∀ x y, Sys2Proof.Laws.OpcodeAndLength.Statement (.ret x y) :=
  fun _ _ => Sys2Proof.Laws.OpcodeAndLength.of_words _ (Sys2Proof.fOp_wordR ..) rfl rfl rfl rfl
theorem Sys2Proof.Laws.OpcodeAndLength.joinat : ∀ x, Sys2Proof.Laws.OpcodeAndLength.Statement (.joinat x) :=
  fun _ => Sys2Proof.Laws.OpcodeAndLength.of_words _ (Sys2Proof.fOp_wordK ..) rfl rfl rfl rfl
theorem Sys2Proof.Laws.OpcodeAndLength.join : ∀ x, Sys2Proof.Laws.OpcodeAndLength.Statement (.join x) :=
  fun _ => Sys2Proof.Laws.OpcodeAndLength.of_words _ (Sys2Proof.fOp_wordR ..) rfl rfl rfl rfl
theorem Sys2Proof.Laws.OpcodeAndLength.brk : ∀ x, Sys2Proof.Laws.OpcodeAndLength.Statement (.brk x) :=
  fun _ => Sys2Proof.Laws.OpcodeAndLength.of_words _ (Sys2Proof.fOp_wordK ..) rfl rfl rfl rfl
theorem Sys2Proof.Laws.OpcodeAndLength.loop : ∀ x y, Sys2Proof.Laws.OpcodeAndLength.Statement (.loop x y) :=
  fun _ _ => Sys2Proof.Laws.OpcodeAndLength.of_words _ (Sys2Proof.fOp_wordK ..) rfl rfl rfl rfl
theorem Sys2Proof.Laws.OpcodeAndLength.lexit : ∀ x y, Sys2Proof.Laws.OpcodeAndLength.Statement (.lexit x y) :=
  fun _ _ => Sys2Proof.Laws.OpcodeAndLength.of_words _ (Sys2Proof.fOp_wordK ..) rfl rfl rfl rfl
theorem Sys2Proof.Laws.OpcodeAndLength.exit : ∀ x, Sys2Proof.Laws.OpcodeAndLength.Statement (.exit x) :=
  fun _ => Sys2Proof.Laws.OpcodeAndLength.of_words _ (Sys2Proof.fOp_wordR ..) rfl rfl rfl rfl
theorem Sys2Proof.Laws.OpcodeAndLength.trap : ∀ x y, Sys2Proof.Laws.OpcodeAndLength.Statement (.trap x y) :=
  fun _ _ => Sys2Proof.Laws.OpcodeAndLength.of_words _ (Sys2Proof.fOp_wordK ..) rfl rfl rfl rfl
theorem Sys2Proof.Laws.OpcodeAndLength.tret : ∀ x, Sys2Proof.Laws.OpcodeAndLength.Statement (.tret x) :=
  fun _ => Sys2Proof.Laws.OpcodeAndLength.of_words _ (Sys2Proof.fOp_wordR ..) rfl rfl rfl rfl
theorem Sys2Proof.Laws.OpcodeAndLength.waitv : ∀ x y z u, Sys2Proof.Laws.OpcodeAndLength.Statement (.waitv x y z u) :=
  fun _ _ _ _ => Sys2Proof.Laws.OpcodeAndLength.of_words _ (Sys2Proof.fOp_wordR ..) rfl rfl rfl rfl
theorem Sys2Proof.Laws.OpcodeAndLength.yield : ∀ x, Sys2Proof.Laws.OpcodeAndLength.Statement (.yield x) :=
  fun _ => Sys2Proof.Laws.OpcodeAndLength.of_words _ (Sys2Proof.fOp_wordR ..) rfl rfl rfl rfl
theorem Sys2Proof.Laws.OpcodeAndLength.sleep : ∀ x, Sys2Proof.Laws.OpcodeAndLength.Statement (.sleep x) :=
  fun _ => Sys2Proof.Laws.OpcodeAndLength.of_words _ (Sys2Proof.fOp_wordK ..) rfl rfl rfl rfl
theorem Sys2Proof.Laws.OpcodeAndLength.pgmap : ∀ x y z u, Sys2Proof.Laws.OpcodeAndLength.Statement (.pgmap x y z u) :=
  fun _ _ _ _ => Sys2Proof.Laws.OpcodeAndLength.of_words _ (Sys2Proof.fOp_wordR ..) rfl rfl rfl rfl
theorem Sys2Proof.Laws.OpcodeAndLength.pginv : ∀ x y z u, Sys2Proof.Laws.OpcodeAndLength.Statement (.pginv x y z u) :=
  fun _ _ _ _ => Sys2Proof.Laws.OpcodeAndLength.of_words _ (Sys2Proof.fOp_wordR ..) rfl rfl rfl rfl
theorem Sys2Proof.Laws.OpcodeAndLength.ldb : ∀ x y z u, Sys2Proof.Laws.OpcodeAndLength.Statement (.ldb x y z u) :=
  fun _ _ _ _ => Sys2Proof.Laws.OpcodeAndLength.of_words _ (Sys2Proof.fOp_wordR ..) rfl rfl rfl rfl
theorem Sys2Proof.Laws.OpcodeAndLength.ldbs : ∀ x y z u, Sys2Proof.Laws.OpcodeAndLength.Statement (.ldbs x y z u) :=
  fun _ _ _ _ => Sys2Proof.Laws.OpcodeAndLength.of_words _ (Sys2Proof.fOp_wordR ..) rfl rfl rfl rfl
theorem Sys2Proof.Laws.OpcodeAndLength.ldh : ∀ x y z u, Sys2Proof.Laws.OpcodeAndLength.Statement (.ldh x y z u) :=
  fun _ _ _ _ => Sys2Proof.Laws.OpcodeAndLength.of_words _ (Sys2Proof.fOp_wordR ..) rfl rfl rfl rfl
theorem Sys2Proof.Laws.OpcodeAndLength.ldhs : ∀ x y z u, Sys2Proof.Laws.OpcodeAndLength.Statement (.ldhs x y z u) :=
  fun _ _ _ _ => Sys2Proof.Laws.OpcodeAndLength.of_words _ (Sys2Proof.fOp_wordR ..) rfl rfl rfl rfl
theorem Sys2Proof.Laws.OpcodeAndLength.ld : ∀ x y z u, Sys2Proof.Laws.OpcodeAndLength.Statement (.ld x y z u) :=
  fun _ _ _ _ => Sys2Proof.Laws.OpcodeAndLength.of_words _ (Sys2Proof.fOp_wordR ..) rfl rfl rfl rfl
theorem Sys2Proof.Laws.OpcodeAndLength.ldd : ∀ x y z u, Sys2Proof.Laws.OpcodeAndLength.Statement (.ldd x y z u) :=
  fun _ _ _ _ => Sys2Proof.Laws.OpcodeAndLength.of_words _ (Sys2Proof.fOp_wordR ..) rfl rfl rfl rfl
theorem Sys2Proof.Laws.OpcodeAndLength.ldq : ∀ x y z u, Sys2Proof.Laws.OpcodeAndLength.Statement (.ldq x y z u) :=
  fun _ _ _ _ => Sys2Proof.Laws.OpcodeAndLength.of_words _ (Sys2Proof.fOp_wordR ..) rfl rfl rfl rfl
theorem Sys2Proof.Laws.OpcodeAndLength.stb : ∀ x y z u, Sys2Proof.Laws.OpcodeAndLength.Statement (.stb x y z u) :=
  fun _ _ _ _ => Sys2Proof.Laws.OpcodeAndLength.of_words _ (Sys2Proof.fOp_wordR ..) rfl rfl rfl rfl
theorem Sys2Proof.Laws.OpcodeAndLength.sth : ∀ x y z u, Sys2Proof.Laws.OpcodeAndLength.Statement (.sth x y z u) :=
  fun _ _ _ _ => Sys2Proof.Laws.OpcodeAndLength.of_words _ (Sys2Proof.fOp_wordR ..) rfl rfl rfl rfl
theorem Sys2Proof.Laws.OpcodeAndLength.st : ∀ x y z u, Sys2Proof.Laws.OpcodeAndLength.Statement (.st x y z u) :=
  fun _ _ _ _ => Sys2Proof.Laws.OpcodeAndLength.of_words _ (Sys2Proof.fOp_wordR ..) rfl rfl rfl rfl
theorem Sys2Proof.Laws.OpcodeAndLength.std : ∀ x y z u, Sys2Proof.Laws.OpcodeAndLength.Statement (.std x y z u) :=
  fun _ _ _ _ => Sys2Proof.Laws.OpcodeAndLength.of_words _ (Sys2Proof.fOp_wordR ..) rfl rfl rfl rfl
theorem Sys2Proof.Laws.OpcodeAndLength.stq : ∀ x y z u, Sys2Proof.Laws.OpcodeAndLength.Statement (.stq x y z u) :=
  fun _ _ _ _ => Sys2Proof.Laws.OpcodeAndLength.of_words _ (Sys2Proof.fOp_wordR ..) rfl rfl rfl rfl
theorem Sys2Proof.Laws.OpcodeAndLength.ldAcq : ∀ x y z u, Sys2Proof.Laws.OpcodeAndLength.Statement (.ldAcq x y z u) :=
  fun _ _ _ _ => Sys2Proof.Laws.OpcodeAndLength.of_words _ (Sys2Proof.fOp_wordR ..) rfl rfl rfl rfl
theorem Sys2Proof.Laws.OpcodeAndLength.lddAcq : ∀ x y z u, Sys2Proof.Laws.OpcodeAndLength.Statement (.lddAcq x y z u) :=
  fun _ _ _ _ => Sys2Proof.Laws.OpcodeAndLength.of_words _ (Sys2Proof.fOp_wordR ..) rfl rfl rfl rfl
theorem Sys2Proof.Laws.OpcodeAndLength.stRel : ∀ x y z u, Sys2Proof.Laws.OpcodeAndLength.Statement (.stRel x y z u) :=
  fun _ _ _ _ => Sys2Proof.Laws.OpcodeAndLength.of_words _ (Sys2Proof.fOp_wordR ..) rfl rfl rfl rfl
theorem Sys2Proof.Laws.OpcodeAndLength.stdRel : ∀ x y z u, Sys2Proof.Laws.OpcodeAndLength.Statement (.stdRel x y z u) :=
  fun _ _ _ _ => Sys2Proof.Laws.OpcodeAndLength.of_words _ (Sys2Proof.fOp_wordR ..) rfl rfl rfl rfl
theorem Sys2Proof.Laws.OpcodeAndLength.ldro : ∀ x y z u, Sys2Proof.Laws.OpcodeAndLength.Statement (.ldro x y z u) :=
  fun _ _ _ _ => Sys2Proof.Laws.OpcodeAndLength.of_words _ (Sys2Proof.fOp_wordR ..) rfl rfl rfl rfl
theorem Sys2Proof.Laws.OpcodeAndLength.ldroQ : ∀ x y z u, Sys2Proof.Laws.OpcodeAndLength.Statement (.ldroQ x y z u) :=
  fun _ _ _ _ => Sys2Proof.Laws.OpcodeAndLength.of_words _ (Sys2Proof.fOp_wordR ..) rfl rfl rfl rfl
theorem Sys2Proof.Laws.OpcodeAndLength.pref : ∀ x y z, Sys2Proof.Laws.OpcodeAndLength.Statement (.pref x y z) :=
  fun _ _ _ => Sys2Proof.Laws.OpcodeAndLength.of_words _ (Sys2Proof.fOp_wordR ..) rfl rfl rfl rfl
theorem Sys2Proof.Laws.OpcodeAndLength.lds : ∀ x y z u, Sys2Proof.Laws.OpcodeAndLength.Statement (.lds x y z u) :=
  fun _ _ _ _ => Sys2Proof.Laws.OpcodeAndLength.of_words _ (Sys2Proof.fOp_wordR ..) rfl rfl rfl rfl
theorem Sys2Proof.Laws.OpcodeAndLength.ldsQ : ∀ x y z u, Sys2Proof.Laws.OpcodeAndLength.Statement (.ldsQ x y z u) :=
  fun _ _ _ _ => Sys2Proof.Laws.OpcodeAndLength.of_words _ (Sys2Proof.fOp_wordR ..) rfl rfl rfl rfl
theorem Sys2Proof.Laws.OpcodeAndLength.sts : ∀ x y z u, Sys2Proof.Laws.OpcodeAndLength.Statement (.sts x y z u) :=
  fun _ _ _ _ => Sys2Proof.Laws.OpcodeAndLength.of_words _ (Sys2Proof.fOp_wordR ..) rfl rfl rfl rfl
theorem Sys2Proof.Laws.OpcodeAndLength.stsQ : ∀ x y z u, Sys2Proof.Laws.OpcodeAndLength.Statement (.stsQ x y z u) :=
  fun _ _ _ _ => Sys2Proof.Laws.OpcodeAndLength.of_words _ (Sys2Proof.fOp_wordR ..) rfl rfl rfl rfl
theorem Sys2Proof.Laws.OpcodeAndLength.tagl : ∀ x y z, Sys2Proof.Laws.OpcodeAndLength.Statement (.tagl x y z) :=
  fun _ _ _ => Sys2Proof.Laws.OpcodeAndLength.of_words _ (Sys2Proof.fOp_wordR ..) rfl rfl rfl rfl
theorem Sys2Proof.Laws.OpcodeAndLength.tagi : ∀ x y z u, Sys2Proof.Laws.OpcodeAndLength.Statement (.tagi x y z u) :=
  fun _ _ _ _ => Sys2Proof.Laws.OpcodeAndLength.of_words _ (Sys2Proof.fOp_wordR ..) rfl rfl rfl rfl
theorem Sys2Proof.Laws.OpcodeAndLength.tage : ∀ x y z, Sys2Proof.Laws.OpcodeAndLength.Statement (.tage x y z) :=
  fun _ _ _ => Sys2Proof.Laws.OpcodeAndLength.of_words _ (Sys2Proof.fOp_wordR ..) rfl rfl rfl rfl
theorem Sys2Proof.Laws.OpcodeAndLength.tagp : ∀ x y z u, Sys2Proof.Laws.OpcodeAndLength.Statement (.tagp x y z u) :=
  fun _ _ _ _ => Sys2Proof.Laws.OpcodeAndLength.of_words _ (Sys2Proof.fOp_wordR ..) rfl rfl rfl rfl
theorem Sys2Proof.Laws.OpcodeAndLength.tagt : ∀ x y z u, Sys2Proof.Laws.OpcodeAndLength.Statement (.tagt x y z u) :=
  fun _ _ _ _ => Sys2Proof.Laws.OpcodeAndLength.of_words _ (Sys2Proof.fOp_wordR ..) rfl rfl rfl rfl
theorem Sys2Proof.Laws.OpcodeAndLength.aadd : ∀ x y z u, Sys2Proof.Laws.OpcodeAndLength.Statement (.aadd x y z u) :=
  fun _ _ _ _ => Sys2Proof.Laws.OpcodeAndLength.of_words _ (Sys2Proof.fOp_wordR ..) rfl rfl rfl rfl
theorem Sys2Proof.Laws.OpcodeAndLength.amin : ∀ x y z u, Sys2Proof.Laws.OpcodeAndLength.Statement (.amin x y z u) :=
  fun _ _ _ _ => Sys2Proof.Laws.OpcodeAndLength.of_words _ (Sys2Proof.fOp_wordR ..) rfl rfl rfl rfl
theorem Sys2Proof.Laws.OpcodeAndLength.amax : ∀ x y z u, Sys2Proof.Laws.OpcodeAndLength.Statement (.amax x y z u) :=
  fun _ _ _ _ => Sys2Proof.Laws.OpcodeAndLength.of_words _ (Sys2Proof.fOp_wordR ..) rfl rfl rfl rfl
theorem Sys2Proof.Laws.OpcodeAndLength.aand : ∀ x y z u, Sys2Proof.Laws.OpcodeAndLength.Statement (.aand x y z u) :=
  fun _ _ _ _ => Sys2Proof.Laws.OpcodeAndLength.of_words _ (Sys2Proof.fOp_wordR ..) rfl rfl rfl rfl
theorem Sys2Proof.Laws.OpcodeAndLength.aor : ∀ x y z u, Sys2Proof.Laws.OpcodeAndLength.Statement (.aor x y z u) :=
  fun _ _ _ _ => Sys2Proof.Laws.OpcodeAndLength.of_words _ (Sys2Proof.fOp_wordR ..) rfl rfl rfl rfl
theorem Sys2Proof.Laws.OpcodeAndLength.axor : ∀ x y z u, Sys2Proof.Laws.OpcodeAndLength.Statement (.axor x y z u) :=
  fun _ _ _ _ => Sys2Proof.Laws.OpcodeAndLength.of_words _ (Sys2Proof.fOp_wordR ..) rfl rfl rfl rfl
theorem Sys2Proof.Laws.OpcodeAndLength.axch : ∀ x y z u, Sys2Proof.Laws.OpcodeAndLength.Statement (.axch x y z u) :=
  fun _ _ _ _ => Sys2Proof.Laws.OpcodeAndLength.of_words _ (Sys2Proof.fOp_wordR ..) rfl rfl rfl rfl
theorem Sys2Proof.Laws.OpcodeAndLength.acas : ∀ x y z u, Sys2Proof.Laws.OpcodeAndLength.Statement (.acas x y z u) :=
  fun _ _ _ _ => Sys2Proof.Laws.OpcodeAndLength.of_words _ (Sys2Proof.fOp_wordR ..) rfl rfl rfl rfl
theorem Sys2Proof.Laws.OpcodeAndLength.aadd64 : ∀ x y z u, Sys2Proof.Laws.OpcodeAndLength.Statement (.aadd64 x y z u) :=
  fun _ _ _ _ => Sys2Proof.Laws.OpcodeAndLength.of_words _ (Sys2Proof.fOp_wordR ..) rfl rfl rfl rfl
theorem Sys2Proof.Laws.OpcodeAndLength.acas64 : ∀ x y z u, Sys2Proof.Laws.OpcodeAndLength.Statement (.acas64 x y z u) :=
  fun _ _ _ _ => Sys2Proof.Laws.OpcodeAndLength.of_words _ (Sys2Proof.fOp_wordR ..) rfl rfl rfl rfl
theorem Sys2Proof.Laws.OpcodeAndLength.fence : ∀ x, Sys2Proof.Laws.OpcodeAndLength.Statement (.fence x) :=
  fun _ => Sys2Proof.Laws.OpcodeAndLength.of_words _ (Sys2Proof.fOp_wordR ..) rfl rfl rfl rfl
theorem Sys2Proof.Laws.OpcodeAndLength.fenceRo : ∀ x, Sys2Proof.Laws.OpcodeAndLength.Statement (.fenceRo x) :=
  fun _ => Sys2Proof.Laws.OpcodeAndLength.of_words _ (Sys2Proof.fOp_wordR ..) rfl rfl rfl rfl
theorem Sys2Proof.Laws.OpcodeAndLength.waitc : ∀ x y z u, Sys2Proof.Laws.OpcodeAndLength.Statement (.waitc x y z u) :=
  fun _ _ _ _ => Sys2Proof.Laws.OpcodeAndLength.of_words _ (Sys2Proof.fOp_wordK ..) rfl rfl rfl rfl
theorem Sys2Proof.Laws.OpcodeAndLength.waitr : ∀ x y z, Sys2Proof.Laws.OpcodeAndLength.Statement (.waitr x y z) :=
  fun _ _ _ => Sys2Proof.Laws.OpcodeAndLength.of_words _ (Sys2Proof.fOp_wordR ..) rfl rfl rfl rfl
theorem Sys2Proof.Laws.OpcodeAndLength.ctrr : ∀ x y z, Sys2Proof.Laws.OpcodeAndLength.Statement (.ctrr x y z) :=
  fun _ _ _ => Sys2Proof.Laws.OpcodeAndLength.of_words _ (Sys2Proof.fOp_wordR ..) rfl rfl rfl rfl
theorem Sys2Proof.Laws.OpcodeAndLength.bar : ∀ x, Sys2Proof.Laws.OpcodeAndLength.Statement (.bar x) :=
  fun _ => Sys2Proof.Laws.OpcodeAndLength.of_words _ (Sys2Proof.fOp_wordR ..) rfl rfl rfl rfl
theorem Sys2Proof.Laws.OpcodeAndLength.baroArr : ∀ x y, Sys2Proof.Laws.OpcodeAndLength.Statement (.baroArr x y) :=
  fun _ _ => Sys2Proof.Laws.OpcodeAndLength.of_words _ (Sys2Proof.fOp_wordR ..) rfl rfl rfl rfl
theorem Sys2Proof.Laws.OpcodeAndLength.baroWt : ∀ x y z u, Sys2Proof.Laws.OpcodeAndLength.Statement (.baroWt x y z u) :=
  fun _ _ _ _ => Sys2Proof.Laws.OpcodeAndLength.of_words _ (Sys2Proof.fOp_wordR ..) rfl rfl rfl rfl
theorem Sys2Proof.Laws.OpcodeAndLength.xld : ∀ x y z u, Sys2Proof.Laws.OpcodeAndLength.Statement (.xld x y z u) :=
  fun _ _ _ _ => Sys2Proof.Laws.OpcodeAndLength.of_words _ (Sys2Proof.fOp_wordR ..) rfl rfl rfl rfl
theorem Sys2Proof.Laws.OpcodeAndLength.xldQ : ∀ x y z u, Sys2Proof.Laws.OpcodeAndLength.Statement (.xldQ x y z u) :=
  fun _ _ _ _ => Sys2Proof.Laws.OpcodeAndLength.of_words _ (Sys2Proof.fOp_wordR ..) rfl rfl rfl rfl
theorem Sys2Proof.Laws.OpcodeAndLength.xst : ∀ x y z u, Sys2Proof.Laws.OpcodeAndLength.Statement (.xst x y z u) :=
  fun _ _ _ _ => Sys2Proof.Laws.OpcodeAndLength.of_words _ (Sys2Proof.fOp_wordR ..) rfl rfl rfl rfl
theorem Sys2Proof.Laws.OpcodeAndLength.xstQ : ∀ x y z u, Sys2Proof.Laws.OpcodeAndLength.Statement (.xstQ x y z u) :=
  fun _ _ _ _ => Sys2Proof.Laws.OpcodeAndLength.of_words _ (Sys2Proof.fOp_wordR ..) rfl rfl rfl rfl
theorem Sys2Proof.Laws.OpcodeAndLength.xat : ∀ x y z u, Sys2Proof.Laws.OpcodeAndLength.Statement (.xat x y z u) :=
  fun _ _ _ _ => Sys2Proof.Laws.OpcodeAndLength.of_words _ (Sys2Proof.fOp_wordR ..) rfl rfl rfl rfl
theorem Sys2Proof.Laws.OpcodeAndLength.xcas : ∀ x y z u, Sys2Proof.Laws.OpcodeAndLength.Statement (.xcas x y z u) :=
  fun _ _ _ _ => Sys2Proof.Laws.OpcodeAndLength.of_words _ (Sys2Proof.fOp_wordR ..) rfl rfl rfl rfl
theorem Sys2Proof.Laws.OpcodeAndLength.cwdet : ∀ x, Sys2Proof.Laws.OpcodeAndLength.Statement (.cwdet x) :=
  fun _ => Sys2Proof.Laws.OpcodeAndLength.of_words _ (Sys2Proof.fOp_wordR ..) rfl rfl rfl rfl
theorem Sys2Proof.Laws.OpcodeAndLength.cwleave : ∀ x, Sys2Proof.Laws.OpcodeAndLength.Statement (.cwleave x) :=
  fun _ => Sys2Proof.Laws.OpcodeAndLength.of_words _ (Sys2Proof.fOp_wordR ..) rfl rfl rfl rfl
theorem Sys2Proof.Laws.OpcodeAndLength.cwxch : ∀ x y z u, Sys2Proof.Laws.OpcodeAndLength.Statement (.cwxch x y z u) :=
  fun _ _ _ _ => Sys2Proof.Laws.OpcodeAndLength.of_words _ (Sys2Proof.fOp_wordR ..) rfl rfl rfl rfl
theorem Sys2Proof.Laws.OpcodeAndLength.wbld : ∀ x y z, Sys2Proof.Laws.OpcodeAndLength.Statement (.wbld x y z) :=
  fun _ _ _ => Sys2Proof.Laws.OpcodeAndLength.of_words _ (Sys2Proof.fOp_wordR ..) rfl rfl rfl rfl
theorem Sys2Proof.Laws.OpcodeAndLength.wbz : ∀ x y, Sys2Proof.Laws.OpcodeAndLength.Statement (.wbz x y) :=
  fun _ _ => Sys2Proof.Laws.OpcodeAndLength.of_words _ (Sys2Proof.fOp_wordR ..) rfl rfl rfl rfl
theorem Sys2Proof.Laws.OpcodeAndLength.mma : ∀ x y z u, Sys2Proof.Laws.OpcodeAndLength.Statement (.mma x y z u) :=
  fun _ _ _ _ => Sys2Proof.Laws.OpcodeAndLength.of_words _ (Sys2Proof.fOp_wordR ..) rfl rfl rfl rfl
theorem Sys2Proof.Laws.OpcodeAndLength.accz : ∀ x y, Sys2Proof.Laws.OpcodeAndLength.Statement (.accz x y) :=
  fun _ _ => Sys2Proof.Laws.OpcodeAndLength.of_words _ (Sys2Proof.fOp_wordR ..) rfl rfl rfl rfl
theorem Sys2Proof.Laws.OpcodeAndLength.accsv : ∀ x y z, Sys2Proof.Laws.OpcodeAndLength.Statement (.accsv x y z) :=
  fun _ _ _ => Sys2Proof.Laws.OpcodeAndLength.of_words _ (Sys2Proof.fOp_wordR ..) rfl rfl rfl rfl
theorem Sys2Proof.Laws.OpcodeAndLength.accrs : ∀ x y z, Sys2Proof.Laws.OpcodeAndLength.Statement (.accrs x y z) :=
  fun _ _ _ => Sys2Proof.Laws.OpcodeAndLength.of_words _ (Sys2Proof.fOp_wordR ..) rfl rfl rfl rfl
theorem Sys2Proof.Laws.OpcodeAndLength.tdrain : ∀ x y z, Sys2Proof.Laws.OpcodeAndLength.Statement (.tdrain x y z) :=
  fun _ _ _ => Sys2Proof.Laws.OpcodeAndLength.of_words _ (Sys2Proof.fOp_wordR ..) rfl rfl rfl rfl
theorem Sys2Proof.Laws.OpcodeAndLength.tscale : ∀ x y z u, Sys2Proof.Laws.OpcodeAndLength.Statement (.tscale x y z u) :=
  fun _ _ _ _ => Sys2Proof.Laws.OpcodeAndLength.of_words _ (Sys2Proof.fOp_wordR ..) rfl rfl rfl rfl
theorem Sys2Proof.Laws.OpcodeAndLength.histrd : ∀ x y z, Sys2Proof.Laws.OpcodeAndLength.Statement (.histrd x y z) :=
  fun _ _ _ => Sys2Proof.Laws.OpcodeAndLength.of_words _ (Sys2Proof.fOp_wordR ..) rfl rfl rfl rfl
theorem Sys2Proof.Laws.OpcodeAndLength.histz : ∀ x y, Sys2Proof.Laws.OpcodeAndLength.Statement (.histz x y) :=
  fun _ _ => Sys2Proof.Laws.OpcodeAndLength.of_words _ (Sys2Proof.fOp_wordR ..) rfl rfl rfl rfl
theorem Sys2Proof.Laws.OpcodeAndLength.cpy : ∀ x y z u, Sys2Proof.Laws.OpcodeAndLength.Statement (.cpy x y z u) :=
  fun _ _ _ _ => Sys2Proof.Laws.OpcodeAndLength.of_words _ (Sys2Proof.fOp_wordR ..) rfl rfl rfl rfl
theorem Sys2Proof.Laws.OpcodeAndLength.cpy2d : ∀ x y z u, Sys2Proof.Laws.OpcodeAndLength.Statement (.cpy2d x y z u) :=
  fun _ _ _ _ => Sys2Proof.Laws.OpcodeAndLength.of_words _ (Sys2Proof.fOp_wordR ..) rfl rfl rfl rfl
theorem Sys2Proof.Laws.OpcodeAndLength.cpfill : ∀ x y z u, Sys2Proof.Laws.OpcodeAndLength.Statement (.cpfill x y z u) :=
  fun _ _ _ _ => Sys2Proof.Laws.OpcodeAndLength.of_words _ (Sys2Proof.fOp_wordR ..) rfl rfl rfl rfl
theorem Sys2Proof.Laws.OpcodeAndLength.cprt : ∀ x y z, Sys2Proof.Laws.OpcodeAndLength.Statement (.cprt x y z) :=
  fun _ _ _ => Sys2Proof.Laws.OpcodeAndLength.of_words _ (Sys2Proof.fOp_wordR ..) rfl rfl rfl rfl
theorem Sys2Proof.Laws.OpcodeAndLength.nmld : ∀ x y z, Sys2Proof.Laws.OpcodeAndLength.Statement (.nmld x y z) :=
  fun _ _ _ => Sys2Proof.Laws.OpcodeAndLength.of_words _ (Sys2Proof.fOp_wordR ..) rfl rfl rfl rfl
theorem Sys2Proof.Laws.OpcodeAndLength.nmsw : ∀ x y z, Sys2Proof.Laws.OpcodeAndLength.Statement (.nmsw x y z) :=
  fun _ _ _ => Sys2Proof.Laws.OpcodeAndLength.of_words _ (Sys2Proof.fOp_wordR ..) rfl rfl rfl rfl
theorem Sys2Proof.Laws.OpcodeAndLength.nmx : ∀ x y, Sys2Proof.Laws.OpcodeAndLength.Statement (.nmx x y) :=
  fun _ _ => Sys2Proof.Laws.OpcodeAndLength.of_words _ (Sys2Proof.fOp_wordR ..) rfl rfl rfl rfl
theorem Sys2Proof.Laws.OpcodeAndLength.nmst : ∀ x y z u, Sys2Proof.Laws.OpcodeAndLength.Statement (.nmst x y z u) :=
  fun _ _ _ _ => Sys2Proof.Laws.OpcodeAndLength.of_words _ (Sys2Proof.fOp_wordR ..) rfl rfl rfl rfl
theorem Sys2Proof.Laws.OpcodeAndLength.idxreg : ∀ x y z u, Sys2Proof.Laws.OpcodeAndLength.Statement (.idxreg x y z u) :=
  fun _ _ _ _ => Sys2Proof.Laws.OpcodeAndLength.of_words _ (Sys2Proof.fOp_wordR ..) rfl rfl rfl rfl
theorem Sys2Proof.Laws.OpcodeAndLength.srch : ∀ x y z, Sys2Proof.Laws.OpcodeAndLength.Statement (.srch x y z) :=
  fun _ _ _ => Sys2Proof.Laws.OpcodeAndLength.of_words _ (Sys2Proof.fOp_wordR ..) rfl rfl rfl rfl
theorem Sys2Proof.Laws.OpcodeAndLength.scan : ∀ x y z, Sys2Proof.Laws.OpcodeAndLength.Statement (.scan x y z) :=
  fun _ _ _ => Sys2Proof.Laws.OpcodeAndLength.of_words _ (Sys2Proof.fOp_wordR ..) rfl rfl rfl rfl
theorem Sys2Proof.Laws.OpcodeAndLength.walk : ∀ x y z, Sys2Proof.Laws.OpcodeAndLength.Statement (.walk x y z) :=
  fun _ _ _ => Sys2Proof.Laws.OpcodeAndLength.of_words _ (Sys2Proof.fOp_wordR ..) rfl rfl rfl rfl
theorem Sys2Proof.Laws.OpcodeAndLength.xred : ∀ x y, Sys2Proof.Laws.OpcodeAndLength.Statement (.xred x y) :=
  fun _ _ => Sys2Proof.Laws.OpcodeAndLength.of_words _ (Sys2Proof.fOp_wordR ..) rfl rfl rfl rfl
theorem Sys2Proof.Laws.OpcodeAndLength.tkmerge : ∀ x y z u, Sys2Proof.Laws.OpcodeAndLength.Statement (.tkmerge x y z u) :=
  fun _ _ _ _ => Sys2Proof.Laws.OpcodeAndLength.of_words _ (Sys2Proof.fOp_wordR ..) rfl rfl rfl rfl
theorem Sys2Proof.Laws.OpcodeAndLength.ivcommit : ∀ x y z, Sys2Proof.Laws.OpcodeAndLength.Statement (.ivcommit x y z) :=
  fun _ _ _ => Sys2Proof.Laws.OpcodeAndLength.of_words _ (Sys2Proof.fOp_wordR ..) rfl rfl rfl rfl
theorem Sys2Proof.Laws.OpcodeAndLength.qpush : ∀ x y z u, Sys2Proof.Laws.OpcodeAndLength.Statement (.qpush x y z u) :=
  fun _ _ _ _ => Sys2Proof.Laws.OpcodeAndLength.of_words _ (Sys2Proof.fOp_wordR ..) rfl rfl rfl rfl
theorem Sys2Proof.Laws.OpcodeAndLength.qpop : ∀ x y z, Sys2Proof.Laws.OpcodeAndLength.Statement (.qpop x y z) :=
  fun _ _ _ => Sys2Proof.Laws.OpcodeAndLength.of_words _ (Sys2Proof.fOp_wordR ..) rfl rfl rfl rfl
theorem Sys2Proof.Laws.OpcodeAndLength.jcard : ∀ x y z, Sys2Proof.Laws.OpcodeAndLength.Statement (.jcard x y z) :=
  fun _ _ _ => Sys2Proof.Laws.OpcodeAndLength.of_words _ (Sys2Proof.fOp_wordR ..) rfl rfl rfl rfl
theorem Sys2Proof.Laws.OpcodeAndLength.launch : ∀ x y z, Sys2Proof.Laws.OpcodeAndLength.Statement (.launch x y z) :=
  fun _ _ _ => Sys2Proof.Laws.OpcodeAndLength.of_words _ (Sys2Proof.fOp_wordR ..) rfl rfl rfl rfl
theorem Sys2Proof.Laws.OpcodeAndLength.evset : ∀ x y z, Sys2Proof.Laws.OpcodeAndLength.Statement (.evset x y z) :=
  fun _ _ _ => Sys2Proof.Laws.OpcodeAndLength.of_words _ (Sys2Proof.fOp_wordR ..) rfl rfl rfl rfl
theorem Sys2Proof.Laws.OpcodeAndLength.evclr : ∀ x y z, Sys2Proof.Laws.OpcodeAndLength.Statement (.evclr x y z) :=
  fun _ _ _ => Sys2Proof.Laws.OpcodeAndLength.of_words _ (Sys2Proof.fOp_wordR ..) rfl rfl rfl rfl
theorem Sys2Proof.Laws.OpcodeAndLength.evrd : ∀ x y z, Sys2Proof.Laws.OpcodeAndLength.Statement (.evrd x y z) :=
  fun _ _ _ => Sys2Proof.Laws.OpcodeAndLength.of_words _ (Sys2Proof.fOp_wordR ..) rfl rfl rfl rfl
theorem Sys2Proof.Laws.OpcodeAndLength.ball : Sys2Proof.Laws.OpcodeAndLength.Statement .ball :=
  Sys2Proof.Laws.OpcodeAndLength.of_words _ (Sys2Proof.fOp_wordR ..) rfl rfl rfl rfl
theorem Sys2Proof.Laws.OpcodeAndLength.bsgl : ∀ x y, Sys2Proof.Laws.OpcodeAndLength.Statement (.bsgl x y) :=
  fun _ _ => Sys2Proof.Laws.OpcodeAndLength.of_words _ (Sys2Proof.fOp_wordR ..) rfl rfl rfl rfl
theorem Sys2Proof.Laws.OpcodeAndLength.brow : ∀ x y, Sys2Proof.Laws.OpcodeAndLength.Statement (.brow x y) :=
  fun _ _ => Sys2Proof.Laws.OpcodeAndLength.of_words _ (Sys2Proof.fOp_wordR ..) rfl rfl rfl rfl
theorem Sys2Proof.Laws.OpcodeAndLength.bcolr : ∀ x y z, Sys2Proof.Laws.OpcodeAndLength.Statement (.bcolr x y z) :=
  fun _ _ _ => Sys2Proof.Laws.OpcodeAndLength.of_words _ (Sys2Proof.fOp_wordR ..) rfl rfl rfl rfl
theorem Sys2Proof.Laws.OpcodeAndLength.bcolw : ∀ x y z, Sys2Proof.Laws.OpcodeAndLength.Statement (.bcolw x y z) :=
  fun _ _ _ => Sys2Proof.Laws.OpcodeAndLength.of_words _ (Sys2Proof.fOp_wordR ..) rfl rfl rfl rfl
theorem Sys2Proof.Laws.OpcodeAndLength.bres : ∀ x y z, Sys2Proof.Laws.OpcodeAndLength.Statement (.bres x y z) :=
  fun _ _ _ => Sys2Proof.Laws.OpcodeAndLength.of_words _ (Sys2Proof.fOp_wordR ..) rfl rfl rfl rfl
theorem Sys2Proof.Laws.OpcodeAndLength.ifm : ∀ x y, Sys2Proof.Laws.OpcodeAndLength.Statement (.ifm x y) :=
  fun _ _ => Sys2Proof.Laws.OpcodeAndLength.of_words _ (Sys2Proof.fOp_wordR ..) rfl rfl rfl rfl
theorem Sys2Proof.Laws.OpcodeAndLength.elm : Sys2Proof.Laws.OpcodeAndLength.Statement .elm :=
  Sys2Proof.Laws.OpcodeAndLength.of_words _ (Sys2Proof.fOp_wordR ..) rfl rfl rfl rfl
theorem Sys2Proof.Laws.OpcodeAndLength.enm : Sys2Proof.Laws.OpcodeAndLength.Statement .enm :=
  Sys2Proof.Laws.OpcodeAndLength.of_words _ (Sys2Proof.fOp_wordR ..) rfl rfl rfl rfl
theorem Sys2Proof.Laws.OpcodeAndLength.dist : ∀ x y z, Sys2Proof.Laws.OpcodeAndLength.Statement (.dist x y z) :=
  fun _ _ _ => Sys2Proof.Laws.OpcodeAndLength.of_words _ (Sys2Proof.fOp_wordR ..) rfl rfl rfl rfl
theorem Sys2Proof.Laws.OpcodeAndLength.heapi : ∀ x y z u, Sys2Proof.Laws.OpcodeAndLength.Statement (.heapi x y z u) :=
  fun _ _ _ _ => Sys2Proof.Laws.OpcodeAndLength.of_words _ (Sys2Proof.fOp_wordR ..) rfl rfl rfl rfl
theorem Sys2Proof.Laws.OpcodeAndLength.adj : ∀ x y z u, Sys2Proof.Laws.OpcodeAndLength.Statement (.adj x y z u) :=
  fun _ _ _ _ => Sys2Proof.Laws.OpcodeAndLength.of_words _ (Sys2Proof.fOp_wordR ..) rfl rfl rfl rfl
theorem Sys2Proof.Laws.OpcodeAndLength.ferry : ∀ x y, Sys2Proof.Laws.OpcodeAndLength.Statement (.ferry x y) :=
  fun _ _ => Sys2Proof.Laws.OpcodeAndLength.of_words _ (Sys2Proof.fOp_wordR ..) rfl rfl rfl rfl
theorem Sys2Proof.Laws.OpcodeAndLength.vchk : ∀ x y z, Sys2Proof.Laws.OpcodeAndLength.Statement (.vchk x y z) :=
  fun _ _ _ => Sys2Proof.Laws.OpcodeAndLength.of_words _ (Sys2Proof.fOp_wordR ..) rfl rfl rfl rfl
theorem Sys2Proof.Laws.OpcodeAndLength.loadReturn : Sys2Proof.Laws.OpcodeAndLength.Statement .loadReturn :=
  Sys2Proof.Laws.OpcodeAndLength.of_event rfl rfl
theorem Sys2Proof.Laws.OpcodeAndLength.storePerformed : Sys2Proof.Laws.OpcodeAndLength.Statement .storePerformed :=
  Sys2Proof.Laws.OpcodeAndLength.of_event rfl rfl
theorem Sys2Proof.Laws.OpcodeAndLength.emptyRowTimeout : Sys2Proof.Laws.OpcodeAndLength.Statement .emptyRowTimeout :=
  Sys2Proof.Laws.OpcodeAndLength.of_event rfl rfl
theorem Sys2Proof.Laws.OpcodeAndLength.heldEventTimeout : Sys2Proof.Laws.OpcodeAndLength.Statement .heldEventTimeout :=
  Sys2Proof.Laws.OpcodeAndLength.of_event rfl rfl
theorem Sys2Proof.Laws.OpcodeAndLength.waitvTimeout : Sys2Proof.Laws.OpcodeAndLength.Statement .waitvTimeout :=
  Sys2Proof.Laws.OpcodeAndLength.of_event rfl rfl
theorem Sys2Proof.Laws.OpcodeAndLength.sleepWake : Sys2Proof.Laws.OpcodeAndLength.Statement .sleepWake :=
  Sys2Proof.Laws.OpcodeAndLength.of_event rfl rfl
theorem Sys2Proof.Laws.OpcodeAndLength.yieldWake : Sys2Proof.Laws.OpcodeAndLength.Statement .yieldWake :=
  Sys2Proof.Laws.OpcodeAndLength.of_event rfl rfl
theorem Sys2Proof.Laws.OpcodeAndLength.baroWtTimeout : Sys2Proof.Laws.OpcodeAndLength.Statement .baroWtTimeout :=
  Sys2Proof.Laws.OpcodeAndLength.of_event rfl rfl
theorem Sys2Proof.Laws.OpcodeAndLength.pairTimeout : Sys2Proof.Laws.OpcodeAndLength.Statement .pairTimeout :=
  Sys2Proof.Laws.OpcodeAndLength.of_event rfl rfl
theorem Sys2Proof.Laws.OpcodeAndLength.loopStepComplete : Sys2Proof.Laws.OpcodeAndLength.Statement .loopStepComplete :=
  Sys2Proof.Laws.OpcodeAndLength.of_event rfl rfl
theorem Sys2Proof.Laws.OpcodeAndLength.trackedArrival : Sys2Proof.Laws.OpcodeAndLength.Statement .trackedArrival :=
  Sys2Proof.Laws.OpcodeAndLength.of_event rfl rfl
theorem Sys2Proof.Laws.OpcodeAndLength.xPacketSend : Sys2Proof.Laws.OpcodeAndLength.Statement .xPacketSend :=
  Sys2Proof.Laws.OpcodeAndLength.of_event rfl rfl
theorem Sys2Proof.Laws.OpcodeAndLength.xRequestArrival : Sys2Proof.Laws.OpcodeAndLength.Statement .xRequestArrival :=
  Sys2Proof.Laws.OpcodeAndLength.of_event rfl rfl
theorem Sys2Proof.Laws.OpcodeAndLength.xResponseAccept : Sys2Proof.Laws.OpcodeAndLength.Statement .xResponseAccept :=
  Sys2Proof.Laws.OpcodeAndLength.of_event rfl rfl
theorem Sys2Proof.Laws.OpcodeAndLength.lostNotice : Sys2Proof.Laws.OpcodeAndLength.Statement .lostNotice :=
  Sys2Proof.Laws.OpcodeAndLength.of_event rfl rfl
theorem Sys2Proof.Laws.OpcodeAndLength.cwxchRetry : Sys2Proof.Laws.OpcodeAndLength.Statement .cwxchRetry :=
  Sys2Proof.Laws.OpcodeAndLength.of_event rfl rfl
theorem Sys2Proof.Laws.OpcodeAndLength.cwWithdrawalNotice : Sys2Proof.Laws.OpcodeAndLength.Statement .cwWithdrawalNotice :=
  Sys2Proof.Laws.OpcodeAndLength.of_event rfl rfl
theorem Sys2Proof.Laws.OpcodeAndLength.wbldEntryDone : Sys2Proof.Laws.OpcodeAndLength.Statement .wbldEntryDone :=
  Sys2Proof.Laws.OpcodeAndLength.of_event rfl rfl
theorem Sys2Proof.Laws.OpcodeAndLength.wbzEntryDone : Sys2Proof.Laws.OpcodeAndLength.Statement .wbzEntryDone :=
  Sys2Proof.Laws.OpcodeAndLength.of_event rfl rfl
theorem Sys2Proof.Laws.OpcodeAndLength.mmaEntryDone : Sys2Proof.Laws.OpcodeAndLength.Statement .mmaEntryDone :=
  Sys2Proof.Laws.OpcodeAndLength.of_event rfl rfl
theorem Sys2Proof.Laws.OpcodeAndLength.acczEntryDone : Sys2Proof.Laws.OpcodeAndLength.Statement .acczEntryDone :=
  Sys2Proof.Laws.OpcodeAndLength.of_event rfl rfl
theorem Sys2Proof.Laws.OpcodeAndLength.accsvEntryDone : Sys2Proof.Laws.OpcodeAndLength.Statement .accsvEntryDone :=
  Sys2Proof.Laws.OpcodeAndLength.of_event rfl rfl
theorem Sys2Proof.Laws.OpcodeAndLength.accrsEntryDone : Sys2Proof.Laws.OpcodeAndLength.Statement .accrsEntryDone :=
  Sys2Proof.Laws.OpcodeAndLength.of_event rfl rfl
theorem Sys2Proof.Laws.OpcodeAndLength.tdrainEntryDone : Sys2Proof.Laws.OpcodeAndLength.Statement .tdrainEntryDone :=
  Sys2Proof.Laws.OpcodeAndLength.of_event rfl rfl
theorem Sys2Proof.Laws.OpcodeAndLength.tscaleEntryDone : Sys2Proof.Laws.OpcodeAndLength.Statement .tscaleEntryDone :=
  Sys2Proof.Laws.OpcodeAndLength.of_event rfl rfl
theorem Sys2Proof.Laws.OpcodeAndLength.copyComplete : Sys2Proof.Laws.OpcodeAndLength.Statement .copyComplete :=
  Sys2Proof.Laws.OpcodeAndLength.of_event rfl rfl
theorem Sys2Proof.Laws.OpcodeAndLength.cprtComplete : Sys2Proof.Laws.OpcodeAndLength.Statement .cprtComplete :=
  Sys2Proof.Laws.OpcodeAndLength.of_event rfl rfl
theorem Sys2Proof.Laws.OpcodeAndLength.nmldComplete : Sys2Proof.Laws.OpcodeAndLength.Statement .nmldComplete :=
  Sys2Proof.Laws.OpcodeAndLength.of_event rfl rfl
theorem Sys2Proof.Laws.OpcodeAndLength.bankLaunchStart : Sys2Proof.Laws.OpcodeAndLength.Statement .bankLaunchStart :=
  Sys2Proof.Laws.OpcodeAndLength.of_event rfl rfl
theorem Sys2Proof.Laws.OpcodeAndLength.bankBudgetExpiry : Sys2Proof.Laws.OpcodeAndLength.Statement .bankBudgetExpiry :=
  Sys2Proof.Laws.OpcodeAndLength.of_event rfl rfl
theorem Sys2Proof.Laws.OpcodeAndLength.searchAccept : Sys2Proof.Laws.OpcodeAndLength.Statement .searchAccept :=
  Sys2Proof.Laws.OpcodeAndLength.of_event rfl rfl
theorem Sys2Proof.Laws.OpcodeAndLength.searchComplete : Sys2Proof.Laws.OpcodeAndLength.Statement .searchComplete :=
  Sys2Proof.Laws.OpcodeAndLength.of_event rfl rfl
theorem Sys2Proof.Laws.OpcodeAndLength.walkComplete : Sys2Proof.Laws.OpcodeAndLength.Statement .walkComplete :=
  Sys2Proof.Laws.OpcodeAndLength.of_event rfl rfl
theorem Sys2Proof.Laws.OpcodeAndLength.walkBudgetExpiry : Sys2Proof.Laws.OpcodeAndLength.Statement .walkBudgetExpiry :=
  Sys2Proof.Laws.OpcodeAndLength.of_event rfl rfl
theorem Sys2Proof.Laws.OpcodeAndLength.ferryArrival : Sys2Proof.Laws.OpcodeAndLength.Statement .ferryArrival :=
  Sys2Proof.Laws.OpcodeAndLength.of_event rfl rfl
theorem Sys2Proof.Laws.OpcodeAndLength.tkmergeComplete : Sys2Proof.Laws.OpcodeAndLength.Statement .tkmergeComplete :=
  Sys2Proof.Laws.OpcodeAndLength.of_event rfl rfl
theorem Sys2Proof.Laws.OpcodeAndLength.controllerStop : Sys2Proof.Laws.OpcodeAndLength.Statement .controllerStop :=
  Sys2Proof.Laws.OpcodeAndLength.of_event rfl rfl
theorem Sys2Proof.Laws.OpcodeAndLength.crucibleListArrival : Sys2Proof.Laws.OpcodeAndLength.Statement .crucibleListArrival :=
  Sys2Proof.Laws.OpcodeAndLength.of_event rfl rfl
theorem Sys2Proof.Laws.OpcodeAndLength.crucibleMergeTimeout : Sys2Proof.Laws.OpcodeAndLength.Statement .crucibleMergeTimeout :=
  Sys2Proof.Laws.OpcodeAndLength.of_event rfl rfl
theorem Sys2Proof.Laws.OpcodeAndLength.crucibleRetry : Sys2Proof.Laws.OpcodeAndLength.Statement .crucibleRetry :=
  Sys2Proof.Laws.OpcodeAndLength.of_event rfl rfl
theorem Sys2Proof.Laws.OpcodeAndLength.dispatchStep : Sys2Proof.Laws.OpcodeAndLength.Statement .dispatchStep :=
  Sys2Proof.Laws.OpcodeAndLength.of_event rfl rfl
theorem Sys2Proof.Laws.OpcodeAndLength.ladleFill : Sys2Proof.Laws.OpcodeAndLength.Statement .ladleFill :=
  Sys2Proof.Laws.OpcodeAndLength.of_event rfl rfl
theorem Sys2Proof.Laws.OpcodeAndLength.launchComplete : Sys2Proof.Laws.OpcodeAndLength.Statement .launchComplete :=
  Sys2Proof.Laws.OpcodeAndLength.of_event rfl rfl
theorem Sys2Proof.Laws.OpcodeAndLength.launchTimeout : Sys2Proof.Laws.OpcodeAndLength.Statement .launchTimeout :=
  Sys2Proof.Laws.OpcodeAndLength.of_event rfl rfl
theorem Sys2Proof.Laws.OpcodeAndLength.preemptionCheck : Sys2Proof.Laws.OpcodeAndLength.Statement .preemptionCheck :=
  Sys2Proof.Laws.OpcodeAndLength.of_event rfl rfl
theorem Sys2Proof.Laws.OpcodeAndLength.groupSave : Sys2Proof.Laws.OpcodeAndLength.Statement .groupSave :=
  Sys2Proof.Laws.OpcodeAndLength.of_event rfl rfl
theorem Sys2Proof.Laws.OpcodeAndLength.gangSaveMessage : Sys2Proof.Laws.OpcodeAndLength.Statement .gangSaveMessage :=
  Sys2Proof.Laws.OpcodeAndLength.of_event rfl rfl
theorem Sys2Proof.Laws.OpcodeAndLength.gangReady : Sys2Proof.Laws.OpcodeAndLength.Statement .gangReady :=
  Sys2Proof.Laws.OpcodeAndLength.of_event rfl rfl
theorem Sys2Proof.Laws.OpcodeAndLength.gangGo : Sys2Proof.Laws.OpcodeAndLength.Statement .gangGo :=
  Sys2Proof.Laws.OpcodeAndLength.of_event rfl rfl
theorem Sys2Proof.Laws.OpcodeAndLength.assayDrainStart : Sys2Proof.Laws.OpcodeAndLength.Statement .assayDrainStart :=
  Sys2Proof.Laws.OpcodeAndLength.of_event rfl rfl
theorem Sys2Proof.Laws.OpcodeAndLength.assayComplete : Sys2Proof.Laws.OpcodeAndLength.Statement .assayComplete :=
  Sys2Proof.Laws.OpcodeAndLength.of_event rfl rfl
theorem Sys2Proof.Laws.OpcodeAndLength.l2ScrubVisit : Sys2Proof.Laws.OpcodeAndLength.Statement .l2ScrubVisit :=
  Sys2Proof.Laws.OpcodeAndLength.of_event rfl rfl
theorem Sys2Proof.Laws.OpcodeAndLength.hbmScrubVisit : Sys2Proof.Laws.OpcodeAndLength.Statement .hbmScrubVisit :=
  Sys2Proof.Laws.OpcodeAndLength.of_event rfl rfl
theorem Sys2Proof.Laws.OpcodeAndLength.quarantineWritebackDone : Sys2Proof.Laws.OpcodeAndLength.Statement .quarantineWritebackDone :=
  Sys2Proof.Laws.OpcodeAndLength.of_event rfl rfl
theorem Sys2Proof.Laws.OpcodeAndLength.repcmdGo : Sys2Proof.Laws.OpcodeAndLength.Statement .repcmdGo :=
  Sys2Proof.Laws.OpcodeAndLength.of_event rfl rfl
theorem Sys2Proof.Laws.OpcodeAndLength.repcmdDecline : Sys2Proof.Laws.OpcodeAndLength.Statement .repcmdDecline :=
  Sys2Proof.Laws.OpcodeAndLength.of_event rfl rfl
theorem Sys2Proof.Laws.OpcodeAndLength.repairComplete : Sys2Proof.Laws.OpcodeAndLength.Statement .repairComplete :=
  Sys2Proof.Laws.OpcodeAndLength.of_event rfl rfl
theorem Sys2Proof.Laws.OpcodeAndLength.telemetrySample : Sys2Proof.Laws.OpcodeAndLength.Statement .telemetrySample :=
  Sys2Proof.Laws.OpcodeAndLength.of_event rfl rfl
theorem Sys2Proof.Laws.OpcodeAndLength.pstateRun : Sys2Proof.Laws.OpcodeAndLength.Statement .pstateRun :=
  Sys2Proof.Laws.OpcodeAndLength.of_event rfl rfl
theorem Sys2Proof.Laws.OpcodeAndLength.pstateQuiesce : Sys2Proof.Laws.OpcodeAndLength.Statement .pstateQuiesce :=
  Sys2Proof.Laws.OpcodeAndLength.of_event rfl rfl
theorem Sys2Proof.Laws.OpcodeAndLength.pstateHalt : Sys2Proof.Laws.OpcodeAndLength.Statement .pstateHalt :=
  Sys2Proof.Laws.OpcodeAndLength.of_event rfl rfl
theorem Sys2Proof.Laws.OpcodeAndLength.mdutyWrite : Sys2Proof.Laws.OpcodeAndLength.Statement .mdutyWrite :=
  Sys2Proof.Laws.OpcodeAndLength.of_event rfl rfl
theorem Sys2Proof.Laws.OpcodeAndLength.bactWrite : Sys2Proof.Laws.OpcodeAndLength.Statement .bactWrite :=
  Sys2Proof.Laws.OpcodeAndLength.of_event rfl rfl
theorem Sys2Proof.Laws.OpcodeAndLength.deviceReset : Sys2Proof.Laws.OpcodeAndLength.Statement .deviceReset :=
  Sys2Proof.Laws.OpcodeAndLength.of_event rfl rfl
theorem Sys2Proof.Laws.OpcodeAndLength.fwctl : Sys2Proof.Laws.OpcodeAndLength.Statement .fwctl :=
  Sys2Proof.Laws.OpcodeAndLength.of_event rfl rfl
theorem Sys2Proof.Laws.OpcodeAndLength.trainComplete : Sys2Proof.Laws.OpcodeAndLength.Statement .trainComplete :=
  Sys2Proof.Laws.OpcodeAndLength.of_event rfl rfl
theorem Sys2Proof.Laws.OpcodeAndLength.idchal : Sys2Proof.Laws.OpcodeAndLength.Statement .idchal :=
  Sys2Proof.Laws.OpcodeAndLength.of_event rfl rfl
theorem Sys2Proof.Laws.OpcodeAndLength.idSignComplete : Sys2Proof.Laws.OpcodeAndLength.Statement .idSignComplete :=
  Sys2Proof.Laws.OpcodeAndLength.of_event rfl rfl
theorem Sys2Proof.Laws.OpcodeAndLength.devnumWrite : Sys2Proof.Laws.OpcodeAndLength.Statement .devnumWrite :=
  Sys2Proof.Laws.OpcodeAndLength.of_event rfl rfl
theorem Sys2Proof.Laws.OpcodeAndLength.devstatRead : Sys2Proof.Laws.OpcodeAndLength.Statement .devstatRead :=
  Sys2Proof.Laws.OpcodeAndLength.of_event rfl rfl
theorem Sys2Proof.Laws.OpcodeAndLength.ctxctlEn : Sys2Proof.Laws.OpcodeAndLength.Statement .ctxctlEn :=
  Sys2Proof.Laws.OpcodeAndLength.of_event rfl rfl
theorem Sys2Proof.Laws.OpcodeAndLength.ctxctlStop : Sys2Proof.Laws.OpcodeAndLength.Statement .ctxctlStop :=
  Sys2Proof.Laws.OpcodeAndLength.of_event rfl rfl
theorem Sys2Proof.Laws.OpcodeAndLength.ctxctlKill : Sys2Proof.Laws.OpcodeAndLength.Statement .ctxctlKill :=
  Sys2Proof.Laws.OpcodeAndLength.of_event rfl rfl
theorem Sys2Proof.Laws.OpcodeAndLength.lqdoorHeader : Sys2Proof.Laws.OpcodeAndLength.Statement .lqdoorHeader :=
  Sys2Proof.Laws.OpcodeAndLength.of_event rfl rfl
theorem Sys2Proof.Laws.OpcodeAndLength.lqdoorCard : Sys2Proof.Laws.OpcodeAndLength.Statement .lqdoorCard :=
  Sys2Proof.Laws.OpcodeAndLength.of_event rfl rfl
theorem Sys2Proof.Laws.OpcodeAndLength.harrp : Sys2Proof.Laws.OpcodeAndLength.Statement .harrp :=
  Sys2Proof.Laws.OpcodeAndLength.of_event rfl rfl
theorem Sys2Proof.Laws.OpcodeAndLength.ctlrst : Sys2Proof.Laws.OpcodeAndLength.Statement .ctlrst :=
  Sys2Proof.Laws.OpcodeAndLength.of_event rfl rfl
theorem Sys2Proof.Laws.OpcodeAndLength.qctlWrite : Sys2Proof.Laws.OpcodeAndLength.Statement .qctlWrite :=
  Sys2Proof.Laws.OpcodeAndLength.of_event rfl rfl
theorem Sys2Proof.Laws.OpcodeAndLength.translationRegWrite : Sys2Proof.Laws.OpcodeAndLength.Statement .translationRegWrite :=
  Sys2Proof.Laws.OpcodeAndLength.of_event rfl rfl
theorem Sys2Proof.Laws.OpcodeAndLength.qwayWrite : Sys2Proof.Laws.OpcodeAndLength.Statement .qwayWrite :=
  Sys2Proof.Laws.OpcodeAndLength.of_event rfl rfl
theorem Sys2Proof.Laws.OpcodeAndLength.asyfailWrite : Sys2Proof.Laws.OpcodeAndLength.Statement .asyfailWrite :=
  Sys2Proof.Laws.OpcodeAndLength.of_event rfl rfl
theorem Sys2Proof.Laws.OpcodeAndLength.routingTableWrite : Sys2Proof.Laws.OpcodeAndLength.Statement .routingTableWrite :=
  Sys2Proof.Laws.OpcodeAndLength.of_event rfl rfl
theorem Sys2Proof.Laws.OpcodeAndLength.fabgenWrite : Sys2Proof.Laws.OpcodeAndLength.Statement .fabgenWrite :=
  Sys2Proof.Laws.OpcodeAndLength.of_event rfl rfl
theorem Sys2Proof.Laws.OpcodeAndLength.registerWrite : Sys2Proof.Laws.OpcodeAndLength.Statement .registerWrite :=
  Sys2Proof.Laws.OpcodeAndLength.of_event rfl rfl
theorem Sys2Proof.Laws.OpcodeAndLength.flitReceive : Sys2Proof.Laws.OpcodeAndLength.Statement .flitReceive :=
  Sys2Proof.Laws.OpcodeAndLength.of_event rfl rfl
theorem Sys2Proof.Laws.OpcodeAndLength.linkDown : Sys2Proof.Laws.OpcodeAndLength.Statement .linkDown :=
  Sys2Proof.Laws.OpcodeAndLength.of_event rfl rfl
theorem Sys2Proof.Laws.OpcodeAndLength.drainMarkerArrival : Sys2Proof.Laws.OpcodeAndLength.Statement .drainMarkerArrival :=
  Sys2Proof.Laws.OpcodeAndLength.of_event rfl rfl
theorem Sys2Proof.Laws.OpcodeAndLength.eyeMeasurement : Sys2Proof.Laws.OpcodeAndLength.Statement .eyeMeasurement :=
  Sys2Proof.Laws.OpcodeAndLength.of_event rfl rfl
theorem Sys2Proof.Laws.OpcodeAndLength.cxlLinkFailure : Sys2Proof.Laws.OpcodeAndLength.Statement .cxlLinkFailure :=
  Sys2Proof.Laws.OpcodeAndLength.of_event rfl rfl
theorem Sys2Proof.Laws.OpcodeAndLength.hostCxlMemAccess : Sys2Proof.Laws.OpcodeAndLength.Statement .hostCxlMemAccess :=
  Sys2Proof.Laws.OpcodeAndLength.of_event rfl rfl
theorem Sys2Proof.Laws.OpcodeAndLength.linkRetrainComplete : Sys2Proof.Laws.OpcodeAndLength.Statement .linkRetrainComplete :=
  Sys2Proof.Laws.OpcodeAndLength.of_event rfl rfl
theorem Sys2Proof.Laws.OpcodeAndLength.linkBringUp : Sys2Proof.Laws.OpcodeAndLength.Statement .linkBringUp :=
  Sys2Proof.Laws.OpcodeAndLength.of_event rfl rfl
theorem Sys2Proof.Laws.OpcodeAndLength.cxlLinkRestore : Sys2Proof.Laws.OpcodeAndLength.Statement .cxlLinkRestore :=
  Sys2Proof.Laws.OpcodeAndLength.of_event rfl rfl
end

