-- ==== Sys2Proof/Laws/Release.lean ====
section
/-! SUPPORT. What releases, acquires and the record keeping of lane blocks may change: only the operations, the groups or the
cores, and nothing while nothing is outstanding. -/

namespace Sys2Proof.Machine

/-! ## Releases and acquires (09 R261, R265) -/

/-- Nothing outstanding, nothing pending. -/
theorem State.groupPending_nil {s : State} (h : s.ops = []) (gid : Nat) : s.groupPending gid = [] := by
  simp [State.groupPending, h]

/-- Nothing outstanding, nothing earlier. -/
theorem State.earlier_nil {s : State} (h : s.ops = []) (gid wid t before : Nat) : s.earlier gid wid t before = [] := by
  simp [State.earlier, h]

/-- The stores of a slot performed inside its group change no more than the operations. -/
theorem State.groupStores_rest (s : State) (gid wid slot before : Nat) :
    { s.groupStores gid wid slot before with ops := s.ops } = s := rfl

/-- The same for several slots. -/
theorem State.groupStores_foldl (ts : List Nat) (s : State) (gid wid before : Nat) :
    { ts.foldl (fun s t => s.groupStores gid wid t before) s with ops := s.ops } = s := by
  induction ts generalizing s with
  | nil => rfl
  | cons t r ih =>
    have h := ih (s.groupStores gid wid t before)
    have e := State.groupStores_rest s gid wid t before
    rw [List.foldl_cons]
    calc _ = { ({ r.foldl (fun s t => s.groupStores gid wid t before) (s.groupStores gid wid t before) with
              ops := (s.groupStores gid wid t before).ops } : State) with ops := s.ops } := rfl
      _ = { s.groupStores gid wid t before with ops := s.ops } := by rw [h]
      _ = s := e

/-- A release that has been made changes no more than the operations. -/
theorem State.releaseUpTo_rest {s t : State} {gid wid scope before : Nat} {slots : DWord}
    (h : s.releaseUpTo gid wid slots scope before = some t) : { t with ops := s.ops } = s := by
  unfold State.releaseUpTo at h
  dsimp only at h
  split at h
  · split at h
    · cases h
      exact State.groupStores_foldl ..
    · cases h
  · split at h
    · cases h; rfl
    · cases h

/-- The same for a release over all that the slots have issued. -/
theorem State.releaseAt_rest {s t : State} {gid wid scope : Nat} {slots : DWord} (h : s.releaseAt gid wid slots scope = some t) :
    { t with ops := s.ops } = s := State.releaseUpTo_rest h

/-- A wide release that has been made leaves the state as it is. -/
theorem State.releaseUpTo_wide {s t : State} {gid wid scope before : Nat} {slots : DWord} (hw : 1 < scope)
    (h : s.releaseUpTo gid wid slots scope before = some t) : t = s := by
  unfold State.releaseUpTo at h
  dsimp only at h
  rw [if_neg (by omega)] at h
  split at h
  · exact (Option.some.inj h).symm
  · cases h

/-- With nothing outstanding a release is made at once. -/
theorem State.releaseUpTo_nil {s : State} (h : s.ops = []) (gid wid scope before : Nat) (slots : DWord) :
    s.releaseUpTo gid wid slots scope before = some s := by
  have hg : ∀ t, s.groupStores gid wid t before = s := fun t => by
    obtain ⟨⟩ := s
    simp_all [State.groupStores]
  have hf : ∀ ts : List Nat, ts.foldl (fun s t => s.groupStores gid wid t before) s = s := by
    intro ts
    induction ts with
    | nil => rfl
    | cons t r ih => rw [List.foldl_cons, hg, ih]
  simp [State.releaseUpTo, State.earlier_nil h, State.groupPending_nil h, hf]

/-- An acquire without pending stores changes nothing. -/
theorem State.heed_nil {s : State} {gid : Nat} (h : s.groupPending gid = []) (wid after : Nat) (slots : DWord) :
    s.heed gid wid slots after = s := by simp [State.heed, h]

/-- An acquire changes no more than what waves have heard and operations heed. -/
theorem State.heed_rest (s : State) (gid wid after : Nat) (slots : DWord) :
    { s.heed gid wid slots after with groups := s.groups, saved := s.saved, ops := s.ops } = s := by
  unfold State.heed
  split
  · rfl
  · rfl

@[simp] theorem State.heed_mem (s : State) (gid wid after : Nat) (slots : DWord) : (s.heed gid wid slots after).mem = s.mem := by
  unfold State.heed; split <;> rfl

/-! ## Lane blocks and cores -/

/-- Dropping entries of a hold latch changes no more than the cores. -/
theorem State.unlatch_rest (s : State) (gid wid : Nat) (rs : List Nat) : { s.unlatch gid wid rs with cores := s.cores } = s := by
  unfold State.unlatch
  split <;> rfl

@[simp] theorem State.unlatch_mem (s : State) (gid wid : Nat) (rs : List Nat) : (s.unlatch gid wid rs).mem = s.mem := by
  unfold State.unlatch; split <;> rfl

/-- New floors of the read-only partitions change no more than the cores. -/
theorem State.roRefresh_rest (s : State) (ctx lo hi : Nat) : { s.roRefresh ctx lo hi with cores := s.cores } = s := rfl

/-- Looking at what yields wait for changes no more than the groups. -/
theorem State.watch_rest (s : State) : { s.watch with groups := s.groups } = s := rfl

/-- A message about a gang changes no more than the messages on their way. -/
theorem State.mailGang_rest (s : State) (ctx : Nat) (h : Header) (unit : Nat) (devs : List Nat) (what : GangWord) :
    { s.mailGang ctx h unit devs what with mail := s.mail } = s := rfl

/-- Marking the operations of a terminated group changes no more than the operations. -/
theorem State.voidOps_rest (s : State) (gid : Nat) : { s.voidOps gid with ops := s.ops } = s := rfl

/-- A line that becomes dirty changes no more than its die. -/
theorem State.dirtyLine_dies (s : State) (ctx key : Nat) : { s.dirtyLine ctx key with dies := s.dies } = s := by
  unfold State.dirtyLine
  split <;> rfl

end Sys2Proof.Machine
end

