-- ==== Sys2Proof/Laws/Values.lean ====
section
/-! SUPPORT. The numbers of the operations against those of the rules: integers of 32 and 64 bits, fitted results, fields
and tags. -/

namespace Sys2Proof.Machine

/-! ## Integers -/

theorem intOf_eq_num (g : Bool) (x : Word) : intOf 32 g x.toNat = num g x := by
  unfold intOf num
  have hx := x.isLt
  cases g with
  | false => simp only [Bool.false_and, Bool.false_eq_true, if_false]; congr 1; omega
  | true =>
    simp only [Bool.true_and, decide_eq_true_eq, if_true]
    rw [BitVec.toInt_eq_toNat_cond]
    split <;> split <;> omega

theorem ofNat_wrapTo (x : Int) : BitVec.ofNat 32 (wrapTo 32 x) = BitVec.ofInt 32 x := by
  apply BitVec.eq_of_toNat_eq
  simp only [wrapTo, BitVec.toNat_ofNat, BitVec.toNat_ofInt]
  omega

theorem ofNat_wrapTo64 (x : Int) : BitVec.ofNat 64 (wrapTo 64 x) = BitVec.ofInt 64 x := by
  apply BitVec.eq_of_toNat_eq
  simp only [wrapTo, BitVec.toNat_ofNat, BitVec.toNat_ofInt]
  omega

theorem fit_eq (v : View) (g : Bool) (z : Int) : v.fit g z = .of (fitted v g z) := by
  unfold View.fit fitInt fitted
  rw [ofNat_wrapTo]
  cases modeSat v.mode with
  | false => rfl
  | true => cases g <;> rfl

theorem fit64_eq (v : View) (z : Int) : fit64 v z = fittedPair v z := by
  unfold fit64 fitInt fittedPair
  rw [ofNat_wrapTo64]
  cases modeSat v.mode <;> rfl

theorem View.int_eq (v : View) (g : Bool) (r : Reg) (t : Nat) : v.int g r t = num g (v.reg r.toNat t) :=
  intOf_eq_num g _

theorem laneRes_of (x : Word) : LaneRes.of x = { bits := word x, flags := 0 } := rfl

theorem lesser_eq (x y : Int) : lesser x y = min x y := by unfold lesser; split <;> omega
theorem greater_eq (x y : Int) : greater x y = max x y := by unfold greater; split <;> omega

/-- The high word of a product, fitted, is the product's high word. -/
theorem mulHigh_eq (v : View) (g : Bool) (x y : Word) :
    fitted v g (mulHigh (num g x) (num g y)) =
      ((if g then x.signExtend 64 else x.setWidth 64) * (if g then y.signExtend 64 else y.setWidth 64)).extractLsb' 32 32 := by
  have hfit : ∀ z : Int, (g = true → -2147483648 ≤ z ∧ z ≤ 2147483647) → (g = false → 0 ≤ z ∧ z ≤ 4294967295) →
      fitted v g z = BitVec.ofInt 32 z := by
    intro z h1 h2
    unfold fitted
    cases g with
    | true => have := h1 rfl; split <;> simp only [if_true]; rw [if_neg (by omega), if_neg (by omega)]
    | false => have := h2 rfl; split <;> simp only [Bool.false_eq_true, if_false]; rw [if_neg (by omega), if_neg (by omega)]
  have hx := x.isLt
  have hy := y.isLt
  cases g with
  | false =>
    simp only [num, Bool.false_eq_true, if_false, mulHigh] at hfit ⊢
    have hp : x.toNat * y.toNat ≤ 4294967295 * 4294967295 := Nat.mul_le_mul (by omega) (by omega)
    rw [hfit _ (fun h => by cases h) (fun _ => ?_)]
    · apply BitVec.eq_of_toNat_eq
      simp only [BitVec.toNat_ofInt, BitVec.extractLsb'_toNat, BitVec.toNat_mul, BitVec.toNat_setWidth,
        Nat.shiftRight_eq_div_pow]
      rw [Nat.mod_eq_of_lt (by omega : x.toNat < 2 ^ 64), Nat.mod_eq_of_lt (by omega : y.toNat < 2 ^ 64)]
      generalize hq : x.toNat * y.toNat = q at hp
      have e : ((x.toNat : Int) * y.toNat) = (q : Int) := by rw [← hq]; simp
      rw [e]
      omega
    · generalize hq : x.toNat * y.toNat = q at hp
      have e : ((x.toNat : Int) * y.toNat) = (q : Int) := by rw [← hq]; simp
      rw [e]
      omega
  | true =>
    simp only [num, if_true, mulHigh] at hfit ⊢
    have hxi : -2147483648 ≤ x.toInt ∧ x.toInt ≤ 2147483647 := by rw [BitVec.toInt_eq_toNat_cond]; split <;> omega
    have hyi : -2147483648 ≤ y.toInt ∧ y.toInt ≤ 2147483647 := by rw [BitVec.toInt_eq_toNat_cond]; split <;> omega
    have hb : (x.toInt * y.toInt).natAbs ≤ 2147483648 * 2147483648 := by
      rw [Int.natAbs_mul]; exact Nat.mul_le_mul (by omega) (by omega)
    have hs : (x.signExtend 64 * y.signExtend 64).toInt = x.toInt * y.toInt := by
      rw [BitVec.toInt_mul, BitVec.toInt_signExtend_of_le (by omega), BitVec.toInt_signExtend_of_le (by omega)]
      exact Int.bmod_eq_of_le (by omega) (by omega)
    generalize x.toInt * y.toInt = q at hb hs
    generalize x.signExtend 64 * y.signExtend 64 = p at hs
    rw [hfit _ (fun _ => by omega) (fun h => by cases h)]
    apply BitVec.eq_of_toNat_eq
    have hp := p.isLt
    simp only [BitVec.toNat_ofInt, BitVec.extractLsb'_toNat, Nat.shiftRight_eq_div_pow]
    rw [BitVec.toInt_eq_toNat_cond] at hs
    split at hs <;> omega

/-! ## Bits and fields -/

theorem popCount_eq (x : Word) : popCount x = (List.range 32).countP x.getLsbD := by
  unfold popCount
  rw [List.countP_eq_length_filter]

theorem getLsbD_bitReverse (x : Word) (n : Nat) (hn : n ≤ 32) (i : Nat) :
    ((List.range n).foldl (fun y j => if x.getLsbD j then y ||| (1#32 <<< (31 - j)) else y) 0).getLsbD i =
      (decide (i < 32) && decide (31 - i < n) && x.getLsbD (31 - i)) := by
  induction n with
  | zero => simp
  | succ n ih =>
    rw [List.range_succ, List.foldl_append]
    have ih := ih (by omega)
    have hb : (1#32 <<< (31 - n)).getLsbD i = (decide (i < 32) && decide (31 - i = n)) := by
      rw [BitVec.getLsbD_shiftLeft, BitVec.getLsbD_one]
      by_cases h1 : i < 32
      · by_cases h2 : 31 - i = n
        · have : i - (31 - n) = 0 := by omega
          have h3 : ¬ i < 31 - n := by omega
          simp [h1, h2, this, h3]
        · by_cases h3 : i < 31 - n
          · simp [h1, h2, h3]
          · have : i - (31 - n) ≠ 0 := by omega
            simp [h1, h2, this]
      · simp [h1]
    simp only [List.foldl_cons, List.foldl_nil]
    by_cases hx : x.getLsbD n = true
    · rw [if_pos hx, BitVec.getLsbD_or, ih, hb]
      by_cases h1 : i < 32
      · by_cases h2 : 31 - i = n
        · simp [h1, h2, hx]
        · have : (31 - i < n + 1) = (31 - i < n) := by simp; omega
          simp [h1, h2, this]
      · simp [h1]
    · rw [if_neg hx, ih]
      by_cases h2 : 31 - i = n
      · simp [h2, Bool.eq_false_iff.2 hx]
      · have : (31 - i < n + 1) = (31 - i < n) := by simp; omega
        simp [this]

theorem bitReverse_eq (x : Word) : bitReverse x = x.reverse := by
  apply BitVec.eq_of_getLsbD_eq
  intro i hi
  unfold bitReverse
  rw [getLsbD_bitReverse x 32 (Nat.le_refl _), BitVec.getLsbD_reverse, BitVec.getMsbD]
  have : 31 - i < 32 := by omega
  simp [hi, this]

theorem shiftLeft_eq (g : Bool) (x : Word) (n : Nat) : shiftLeft g x n = x <<< n := by
  unfold shiftLeft
  split
  · apply BitVec.eq_of_getLsbD_eq; intro i hi
    rw [BitVec.getLsbD_shiftLeft]
    have : i < n := by omega
    simp [this]
  · rfl

theorem shiftRight_eq (g : Bool) (x : Word) (n : Nat) : shiftRight g x n = if g then x.sshiftRight n else x >>> n := by
  unfold shiftRight
  split
  · split
    · next h =>
      apply BitVec.eq_of_getLsbD_eq; intro i hi
      rw [BitVec.getLsbD_sshiftRight, BitVec.getLsbD_sshiftRight]
      have h1 : ¬ 32 ≤ i := by omega
      have h2 : ¬ 32 + i < 32 := by omega
      have h3 : ¬ n + i < 32 := by omega
      simp [h1, h2, h3]
    · rfl
  · split
    · next h =>
      apply BitVec.eq_of_getLsbD_eq; intro i hi
      rw [BitVec.getLsbD_ushiftRight]
      exact BitVec.getLsbD_zero.trans (BitVec.getLsbD_of_ge _ _ (by omega)).symm
    · rfl

theorem rotateLeft_eq (g : Bool) (x : Word) (n : Nat) : rotateLeft g x n = x.rotateLeft n :=
  BitVec.rotateLeft_mod_eq_rotateLeft
theorem rotateRight_eq (g : Bool) (x : Word) (n : Nat) : rotateRight g x n = x.rotateRight n :=
  BitVec.rotateRight_mod_eq_rotateRight

/-- Leading zeros of the low n bits, counted from the top, are those above the highest bit set. -/
theorem takeWhile_zeros (x : Word) (n : Nat) (hn : n ≤ 32) (h : ∀ j, j < n → x.getLsbD (31 - j) = false)
    (h1 : n < 32 → x.getLsbD (31 - n) = true) :
    ((List.range 32).takeWhile fun j => !x.getLsbD (31 - j)).length = n := by
  have e : List.range 32 = List.range n ++ (List.range' n (32 - n)) := by
    have := List.range'_append_1 (s := 0) (m := n) (n := 32 - n)
    rw [Nat.zero_add, show n + (32 - n) = 32 by omega] at this
    rw [List.range_eq_range', List.range_eq_range', this]
  rw [e, List.takeWhile_append_of_pos]
  · rw [List.length_append, List.length_range]
    by_cases hx : n < 32
    · have : 32 - n = (31 - n) + 1 := by omega
      rw [this, List.range'_succ, List.takeWhile_cons]
      simp [h1 hx]
    · have : 32 - n = 0 := by omega
      simp [this]
  · intro j hj
    simp [h j (List.mem_range.1 hj)]

theorem leadZeros_eq (x : Word) : leadZeros x = if x = 0 then 32 else 31 - x.toNat.log2 := by
  unfold leadZeros
  have hx := x.isLt
  split
  · next h => subst h; exact takeWhile_zeros 0 32 (by omega) (fun j _ => BitVec.getLsbD_zero) (fun h => by omega)
  · next h =>
    have h0 : x.toNat ≠ 0 := fun e => h (BitVec.eq_of_toNat_eq e)
    have hl := (Nat.log2_lt h0).2 hx
    apply takeWhile_zeros x (31 - x.toNat.log2) (by omega)
    · intro j hj
      have : x.toNat < 2 ^ (31 - j) := (Nat.log2_lt h0).1 (by omega)
      show x.toNat.testBit _ = false
      exact Nat.testBit_lt_two_pow this
    · intro _
      have e : 31 - (31 - x.toNat.log2) = x.toNat.log2 := by omega
      rw [e]
      show x.toNat.testBit _ = true
      exact Nat.testBit_log2 h0

/-- A bit field as an integer of its own width. -/
theorem extractField_eq (g : Bool) (x b : Word) :
    extractField g x b =
      (if g then (x.extractLsb' (fieldOf b).1 (fieldOf b).2).signExtend 32
        else (x.extractLsb' (fieldOf b).1 (fieldOf b).2).setWidth 32) := by
  unfold extractField
  generalize fieldOf b = f
  obtain ⟨pos, len⟩ := f
  dsimp only
  generalize hq : x.extractLsb' pos len = q
  have hqn : q.toNat = x.toNat / 2 ^ pos % 2 ^ len := by
    rw [← hq, BitVec.extractLsb'_toNat, Nat.shiftRight_eq_div_pow]
  rw [← hqn]
  split
  · next h =>
    have h0 : q.toNat = 0 := by have := q.isLt; simp [h] at this; omega
    have hq0 : q = 0#len := BitVec.eq_of_toNat_eq (by simpa using h0)
    rw [hq0]
    cases g with
    | true => simp only [if_true]; apply BitVec.eq_of_toInt_eq; simp [BitVec.signExtend]
    | false => simp only [Bool.false_eq_true, if_false]; apply BitVec.eq_of_toNat_eq; simp
  · next h =>
    have hlt := q.isLt
    unfold intOf
    cases g with
    | true =>
      simp only [Bool.true_and, decide_eq_true_eq, if_true, BitVec.signExtend]
      congr 1
      rw [BitVec.toInt_eq_toNat_cond, Nat.mod_eq_of_lt hlt]
      have hp : 2 ^ len = 2 * 2 ^ (len - 1) := by
        rw [← Nat.pow_succ']; congr 1; omega
      have hc : ((2 : Int) ^ len) = ((2 ^ len : Nat) : Int) := by simp
      rw [hc]
      by_cases h1 : 2 ^ (len - 1) ≤ q.toNat
      · rw [if_pos h1, if_neg (by omega)]
      · rw [if_neg h1, if_pos (by omega)]
    | false =>
      simp only [Bool.false_and, Bool.false_eq_true, if_false]
      rw [Nat.mod_eq_of_lt hlt]
      apply BitVec.eq_of_toNat_eq
      simp

/-- The mask of a field. -/
theorem fieldMask_eq (pos len : Nat) (h : pos + len ≤ 32) :
    BitVec.ofNat 32 ((2 ^ len - 1) * 2 ^ pos) = (BitVec.allOnes len).setWidth 32 <<< pos := by
  apply BitVec.eq_of_toNat_eq
  rw [BitVec.toNat_ofNat, BitVec.toNat_shiftLeft, BitVec.toNat_setWidth, BitVec.toNat_allOnes, Nat.shiftLeft_eq]
  have h1 : 2 ^ len ≤ 2 ^ 32 := Nat.pow_le_pow_right (by omega) (by omega)
  have h2 : 0 < 2 ^ len := Nat.two_pow_pos len
  rw [Nat.mod_eq_of_lt (by omega : 2 ^ len - 1 < 2 ^ 32)]

theorem fieldOf_fits (b : Word) : (fieldOf b).1 + (fieldOf b).2 ≤ 32 := by
  have : (b.extractLsb' 0 5).toNat < 2 ^ 5 := (b.extractLsb' 0 5).isLt
  unfold fieldOf
  dsimp only
  split <;> omega

theorem fieldOf_eq (b : Word) :
    fieldOf b = ((b.extractLsb' 0 5).toNat, min (b.extractLsb' 8 6).toNat (32 - (b.extractLsb' 0 5).toNat)) := by
  unfold fieldOf
  dsimp only
  congr 1
  split <;> omega

theorem insertField_eq (z x b : Word) :
    insertField z x b =
      ((z &&& ~~~((BitVec.allOnes (fieldOf b).2).setWidth 32 <<< (fieldOf b).1)) |||
        (x <<< (fieldOf b).1 &&& ((BitVec.allOnes (fieldOf b).2).setWidth 32 <<< (fieldOf b).1))) := by
  unfold insertField
  dsimp only
  rw [fieldMask_eq _ _ (fieldOf_fits b)]

end Sys2Proof.Machine
end

