-- ==== Sys2Proof/Laws/Rules.lean ====
section
/-! SUPPORT. The operations of opcode groups 0 to 3 agree with the rules of the same shape: one lemma for each shape, from
which an instruction's rule follows by Rule.holds_of_agrees, Rule.stopsOnTags_of_agrees or Rule.uniform_of_agrees. -/

namespace Sys2Proof.Machine

/-- A check of v0 beside another changes nothing. -/
theorem View.first_beside_zero (v : View) (c : Reg × (Byte → Bool)) (p : Byte → Bool) : v.first [c, ((0 : Reg), p)] = v.first [c] := View.first_more v [c] p

/-- Two-source arithmetic. -/
theorem arith_agrees (i : Instr) (d a b : Reg) (f : Int → Int → Int) :
    (arithRule i d a b f).Agrees (arith d a (.reg b) f) := by
  refine ⟨rfl, rfl, rfl, fun _ _ => rfl, fun _ _ => rfl, fun v t _ => ?_⟩
  show v.fit _ _ = _
  rw [fit_eq, View.int_eq, intOf_eq_num]; rfl

/-- Arithmetic with an immediate. -/
theorem arithImm_agrees (i : Instr) (d a : Reg) (k : BitVec 7) (f : Int → Int → Int) :
    (arithImmRule i d a k f).Agrees (arith d a (simm k) f) := by
  refine ⟨rfl, rfl, rfl, fun v _ => View.first_beside_zero v _ _, fun _ _ => rfl, fun v t _ => ?_⟩
  show v.fit _ _ = _
  rw [fit_eq, View.int_eq, intOf_eq_num]; rfl

theorem lesser_fun : lesser = min := funext fun x => funext fun y => lesser_eq x y

theorem greater_fun : greater = max := funext fun x => funext fun y => greater_eq x y

/-- Two-source bitwise instructions. -/
theorem logic_agrees (i : Instr) (d a b : Reg) (f : Word → Word → Word) :
    (logicRule i d a b f).Agrees (logic d a (.reg b) f) :=
  ⟨rfl, rfl, rfl, fun _ _ => rfl, fun _ _ => rfl, fun _ _ _ => rfl⟩

theorem chosen_zero (a : Reg) : chosen a 0 = a.toNat := by unfold chosen; split <;> simp_all

/-- The same with an immediate. -/
theorem logicImm_agrees (i : Instr) (d a : Reg) (k : BitVec 7) (f : Word → Word → Word) :
    (logicImmRule i d a (k.setWidth 32) f).Agrees (logic d a (uimm k) f) :=
  ⟨rfl, rfl, rfl, fun v _ => View.first_beside_zero v _ _, fun v _ => by
    show some (v.res (chosen a 0)) = _; rw [chosen_zero]; rfl, fun _ _ _ => rfl⟩

/-- The same with a literal. -/
theorem logicLit_agrees (i : Instr) (d : Reg) (k : Word) (f : Word → Word → Word) :
    (logicImmRule i d d k f).Agrees (logicLit d fun x => f x k) :=
  ⟨rfl, rfl, rfl, fun _ _ => rfl, fun _ _ => rfl, fun _ _ _ => rfl⟩

/-- One-source bitwise instructions. -/
theorem bits_agrees (i : Instr) (d a : Reg) (f : Word → Word) : (bitsRule i d a f).Agrees (bits1 d a f) :=
  ⟨rfl, rfl, rfl, fun _ _ => rfl, fun _ _ => rfl, fun _ _ _ => rfl⟩

/-- Bit counts. -/
theorem count_agrees (i : Instr) (d a : Reg) (f : Word → Nat) : (countRule i d a f).Agrees (countOp d a f) :=
  ⟨rfl, rfl, rfl, fun _ _ => rfl, fun _ _ => rfl, fun _ _ _ => rfl⟩

/-- Shifts and rotates by a register. -/
theorem shift_agrees (i : Instr) (d a b : Reg) {f g : Bool → Word → Nat → Word} (h : ∀ x y z, f x y z = g x y z) :
    (shiftRule i d a b f).Agrees (shift d a (.reg b) g) :=
  ⟨rfl, rfl, rfl, fun _ _ => rfl, fun _ _ => rfl, fun _ _ _ => by
    show LaneRes.of (g _ _ _) = _; rw [← h]; rfl⟩

theorem toNat_immediate (k : BitVec 7) : (k.setWidth 32).toNat = k.toNat := by
  simp only [BitVec.toNat_setWidth]; exact Nat.mod_eq_of_lt (by have := k.isLt; omega)

/-- The same by an immediate. -/
theorem shiftImm_agrees (i : Instr) (d a : Reg) (k : BitVec 7) {f g : Bool → Word → Nat → Word} (h : ∀ x y z, f x y z = g x y z) :
    (shiftImmRule i d a k f).Agrees (shift d a (uimm k) g) :=
  ⟨rfl, rfl, rfl, fun v _ => View.first_beside_zero v _ _, fun _ _ => rfl, fun _ _ _ => by
    show LaneRes.of (g _ _ (k.setWidth 32).toNat) = _; rw [← h, toNat_immediate]; rfl⟩

theorem leftBy_eq (g x n) : leftBy g x n = shiftLeft g x n := (shiftLeft_eq g x n).symm

theorem rightBy_eq (g x n) : rightBy g x n = shiftRight g x n := (shiftRight_eq g x n).symm

theorem roundLeft_eq (g x n) : roundLeft g x n = rotateLeft g x n := (rotateLeft_eq g x n).symm

theorem roundRight_eq (g x n) : roundRight g x n = rotateRight g x n := (rotateRight_eq g x n).symm

/-- Pair instructions. -/
theorem pair_agrees (i : Instr) (d : Reg) (cs cs' : List (Reg × (Byte → Bool))) (f g : View → Nat → DWord) (hc : cs = cs')
    (h : ∀ v t, f v t = g v t) : (pairRule i d cs f).Agrees (pairOp d cs' g) :=
  ⟨rfl, rfl, rfl, fun v _ => hc ▸ rfl, fun _ _ => rfl, fun v t _ => by
    show LaneRes.of64 (g v t) = _; rw [← h]; rfl⟩

theorem shifted_out (p : DWord) (n : Nat) (f : DWord → Nat → DWord) (h : 64 ≤ n → f p n = 0) :
    (if 64 ≤ n then 0 else f p n) = f p n := by split <;> simp_all

theorem bit01_eq (b : Bool) : bit01 b = { bits := bit b, flags := 0 } := by cases b <;> rfl

/-- Compares of bits. -/
theorem bitsCompare_agrees (i : Instr) (d a b : Reg) (f : Word → Word → Bool) :
    (bitsCompare i d a b f).Agrees (compareBits d a (.reg b) f) :=
  ⟨rfl, rfl, rfl, fun _ _ => rfl, fun _ _ => rfl, fun _ _ _ => bit01_eq _⟩

/-- Compares of integers. -/
theorem intCompare_agrees (i : Instr) (d a b : Reg) (f : Int → Int → Bool) :
    (intCompare i d a b f).Agrees (compareInt d a (.reg b) f) :=
  ⟨rfl, rfl, rfl, fun _ _ => rfl, fun _ _ => rfl, fun v t _ => by
    show bit01 (f (View.int v _ a t) (intOf 32 _ _)) = _; rw [View.int_eq, intOf_eq_num]; exact bit01_eq _⟩

theorem ofRes_eq (r : Res) : LaneRes.ofRes r = { bits := BitVec.ofNat 64 (r.bits % 2 ^ 32), flags := r.flags } := rfl

/-- FP32 instructions of two sources. -/
theorem float2_agrees (i : Instr) (d a b : Reg) (tag : Byte) (f : Round → Nat → Nat → Res) (g : View → Nat → Res)
    (h : ∀ v t, f v.round (pat v a t) (pat v b t) = g v t) :
    (floatRule i d [a, b] tag g).Agrees (float2 d a b tag f) :=
  ⟨rfl, rfl, rfl, fun _ _ => rfl, fun _ _ => rfl, fun v t _ => by
    show LaneRes.ofRes (f v.round (pat v a t) (pat v b t)) = _; rw [h]; rfl⟩

/-- FP32 instructions of one source. -/
theorem float1_agrees (i : Instr) (d a : Reg) (f : Round → Nat → Res) (g : View → Nat → Res)
    (h : ∀ v t, f v.round (pat v a t) = g v t) :
    (floatRule i d [a] 0x20 g).Agrees (float1 d a f) :=
  ⟨rfl, rfl, rfl, fun _ _ => rfl, fun _ _ => rfl, fun v t _ => by
    show LaneRes.ofRes (f v.round (pat v a t)) = _; rw [h]; rfl⟩

theorem clear_eq (x : Word) : clearSign x.toNat = (x &&& 0x7FFFFFFF).toNat := by
  rw [BitVec.toNat_and]
  exact (Nat.and_two_pow_sub_one_eq_mod x.toNat 31).symm

/-- The ballot. -/
theorem voteBal_agrees (i : Instr) (d a : Reg) :
    (maskRule i d fun v => maskOf (v.lanes.filter fun t => v.reg a.toNat t != 0)).Agrees (opBallot d a) :=
  ⟨rfl, rfl, rfl, fun _ _ => rfl, fun _ _ => rfl, fun _ _ _ => rfl⟩

theorem any_filter (l : List Nat) (p : Nat → Bool) : (!(l.filter p).isEmpty) = l.any p := by
  induction l with
  | nil => rfl
  | cons x r ih => simp only [List.filter, List.any_cons]; cases p x <;> simp [ih]

theorem bit01_word (b : Bool) : bit01 b = { bits := word (if b then 1 else 0), flags := 0 } := by cases b <;> rfl

/-- The shuffles. -/
theorem shuffle_agrees (i : Instr) (d a b : Reg) (f : Nat → Nat → Int) :
    (shuffleRule i d a b fun _ t n => f t n).Agrees (shuffle d a b f) :=
  ⟨rfl, rfl, rfl, fun _ _ => rfl, fun _ _ => rfl, fun _ _ _ => by
    show LaneRes.of (if (decide _ && _) = true then _ else _) = _
    simp only [Bool.and_eq_true, decide_eq_true_eq]; rfl⟩

theorem foldl_sum (xs : List Int) (z : Int) : xs.foldl (· + ·) z = z + xs.sum := by
  induction xs generalizing z with
  | nil => simp
  | cons x r ih => rw [List.foldl_cons, ih, List.sum_cons]; omega

theorem least_eq (xs : List Int) : reduInt .min xs = leastOf xs := by
  cases xs with
  | nil => rfl
  | cons x r => show r.foldl lesser x = _; rw [lesser_fun]; rfl

theorem greatest_eq (xs : List Int) : reduInt .max xs = greatestOf xs := by
  cases xs with
  | nil => rfl
  | cons x r => show r.foldl greater x = _; rw [greater_fun]; rfl

/-- The rule of another instruction of the same operands. -/
theorem Rule.Agrees.as {r : Rule} {o : VecOp} (h : r.Agrees o) (i : Instr) : (r.as i).Agrees o :=
  ⟨h.1, h.2, h.3, h.4, h.5, h.6⟩

/-- The reference operand of packed 16-bit arithmetic. -/
theorem firstSource_eq (d a b : Reg) (rd : Bool) : firstSource (if rd then [a, b, d] else [a, b]) = refOf d a b rd := by
  unfold refOf
  cases rd <;> by_cases ha : a = 0 <;> by_cases hb : b = 0 <;> by_cases hd : d = 0 <;> simp_all [firstSource]

/-- Packed 16-bit arithmetic. -/
theorem half_agrees (i : Instr) (d a b : Reg) (rd : Bool) (f : Fmt → Round → Nat → Nat → Nat → Res) :
    (packedRule i d a b rd f).Agrees (half d a b rd f) := by
  unfold half
  rw [firstSource_eq]
  exact ⟨rfl, rfl, rfl, fun _ _ => rfl, fun _ _ => rfl, fun _ _ _ => rfl⟩

/-- Reductions and prefixes. -/
theorem reduce_agrees (i : Instr) (d a : Reg) (k : Redu) (among : View → Nat → List Nat) (ints : List Int → Int)
    (fl : View → List Nat → Res) (hi : ∀ xs, reduInt k xs = ints xs) (hf : ∀ v xs, reduFloat k v.round xs = fl v xs) :
    (combineRule i d a among ints fl).Agrees
      (vecOp d (fun _ => [(a, fun t => isInt t || isFlt t)]) (fun v => v.res a.toNat) fun v t => combine k a v (among v t)) := by
  refine ⟨rfl, rfl, rfl, fun _ _ => rfl, fun _ _ => rfl, fun v t _ => ?_⟩
  show combine _ _ _ _ = _
  unfold combine combineRule
  have e : (a != 0 && isFlt (v.res a.toNat)) = (decide (a ≠ 0) && decide (v.res a.toNat = 0x20)) := by
    unfold isFlt
    by_cases h : a = 0
    · simp [h]
    · have : (a != 0) = true := by simpa using h
      rw [this, decide_eq_true h]
  simp only [e]
  split
  · simp only [hf, ofRes_eq]; rfl
  · simp only [hi, fit_eq, laneRes_of, numsOver]
    have : (fun t => v.int (v.signed a 0) a t) = fun t => num (signedBy v a 0) (v.reg a.toNat t) :=
      funext fun t => View.int_eq ..
    simp only [this]; rfl

end Sys2Proof.Machine
end

