-- ==== Sys2Proof/Tests/Slice0.lean ====
section
/-! SUPPORT. Tests of the model on small states, and for every statement with hypotheses states and operands that meet
them, clause by clause. A test's expected result is worked out from the rule it names. -/

namespace Sys2Proof.Tests

open Sys2Proof Sys2Proof.Machine

set_option Elab.async false

/-! ## Decoding: a word of every operation, written out from its row of the opcode map (03 R75, R82) with fields
hold 1, d 8, a 12, b 16 and the numbers shown -/

/-- Every word decodes to its instruction, the literal following it. -/
def readsAll (l : List (Word × Word × Instr)) : Bool := l.all fun x => decode x.1 x.2.1 == .instr x.2.2

theorem test_decode_integer : readsAll [
    (0x00A20610, 0x0, .add 1 8 12 16), (0x01220610, 0x0, .sub 1 8 12 16), (0x01A20610, 0x0, .mul 1 8 12 16),
    (0x02220610, 0x0, .mulh 1 8 12 16), (0x02A20610, 0x0, .mad 1 8 12 16), (0x03220610, 0x0, .divu 1 8 12 16),
    (0x03A20610, 0x0, .divs 1 8 12 16), (0x04220610, 0x0, .min 1 8 12 16), (0x04A20610, 0x0, .max 1 8 12 16),
    (0x05220600, 0x0, .abs 1 8 12), (0x05A20600, 0x0, .neg 1 8 12), (0x06220610, 0x0, .and 1 8 12 16),
    (0x06A20610, 0x0, .or 1 8 12 16), (0x07220610, 0x0, .xor 1 8 12 16), (0x07A20600, 0x0, .not 1 8 12),
    (0x08220610, 0x0, .andn 1 8 12 16), (0x08A20610, 0x0, .shl 1 8 12 16), (0x09220610, 0x0, .shr 1 8 12 16),
    (0x09A20610, 0x0, .rotl 1 8 12 16), (0x0A220610, 0x0, .rotr 1 8 12 16), (0x0AA20600, 0x0, .popc 1 8 12),
    (0x0B220600, 0x0, .clz 1 8 12), (0x0BA20600, 0x0, .brev 1 8 12), (0x0C220610, 0x0, .bfe 1 8 12 16),
    (0x0CA20610, 0x0, .bfi 1 8 12 16), (0x0D220610, 0x0, .add64 1 8 12 16), (0x0DA20610, 0x0, .sub64 1 8 12 16),
    (0x0E220610, 0x0, .shl64 1 8 12 16), (0x0EA20610, 0x0, .shr64 1 8 12 16), (0x0F220610, 0x0, .seq 1 8 12 16),
    (0x0FA20610, 0x0, .sne 1 8 12 16), (0x10220610, 0x0, .slt 1 8 12 16), (0x10A20610, 0x0, .sle 1 8 12 16),
    (0x11220610, 0x0, .sel 1 8 12 16), (0x11A20600, 0x0, .mov 1 8 12), (0x12220610, 0x0, .addx 1 8 12 16)] = true := by decide +kernel

theorem test_decode_immediate_and_uniform : readsAll [
    (0x20220655, 0x0, .addi 1 8 12 85), (0x20A20655, 0x0, .muli 1 8 12 85), (0x21220655, 0x0, .andi 1 8 12 85),
    (0x21A20655, 0x0, .ori 1 8 12 85), (0x22220655, 0x0, .xori 1 8 12 85), (0x22A20655, 0x0, .shli 1 8 12 85),
    (0x23220655, 0x0, .shri 1 8 12 85), (0x23A20655, 0x0, .rotli 1 8 12 85), (0x24220655, 0x0, .seqi 1 8 12 85),
    (0x24A20655, 0x0, .snei 1 8 12 85), (0x25220655, 0x0, .slti 1 8 12 85), (0x25A20655, 0x0, .slei 1 8 12 85),
    (0x26220655, 0x0, .mini 1 8 12 85), (0x26A20655, 0x0, .maxi 1 8 12 85), (0x27220655, 0x0, .addi64 1 8 12 85),
    (0x28089ABC, 0x0, .movk 8 39612), (0x28889ABC, 0x0, .movh 8 39612), (0x29080000, 0xDEADBEEF, .lit 8 3735928559),
    (0x29880000, 0xDEADBEEF, .addl 8 3735928559), (0x2A080000, 0xDEADBEEF, .andl 8 3735928559),
    (0x2A880000, 0xDEADBEEF, .orl 8 3735928559), (0x30220610, 0x0, .addU 1 8 12 16),
    (0x30A20610, 0x0, .subU 1 8 12 16), (0x31220610, 0x0, .mulU 1 8 12 16), (0x31A20610, 0x0, .andU 1 8 12 16),
    (0x32220610, 0x0, .orU 1 8 12 16), (0x32A20610, 0x0, .xorU 1 8 12 16), (0x33220610, 0x0, .shlU 1 8 12 16),
    (0x33A20610, 0x0, .shrU 1 8 12 16), (0x34220610, 0x0, .minU 1 8 12 16), (0x34A20610, 0x0, .maxU 1 8 12 16),
    (0x35220610, 0x0, .seqU 1 8 12 16), (0x35A20610, 0x0, .sltU 1 8 12 16), (0x36220600, 0x0, .movU 1 8 12),
    (0x36A20610, 0x0, .add64U 1 8 12 16), (0x37220655, 0x0, .addiU 1 8 12 85), (0x37A20655, 0x0, .shliU 1 8 12 85)] = true := by decide +kernel

theorem test_decode_float : readsAll [
    (0x40220610, 0x0, .fadd 1 8 12 16), (0x40A20610, 0x0, .fsub 1 8 12 16), (0x41220610, 0x0, .fmul 1 8 12 16),
    (0x41A20610, 0x0, .fma 1 8 12 16), (0x42220610, 0x0, .fmin 1 8 12 16), (0x42A20610, 0x0, .fmax 1 8 12 16),
    (0x43220600, 0x0, .fabs 1 8 12), (0x43A20600, 0x0, .fneg 1 8 12), (0x44220600, 0x0, .frcp 1 8 12),
    (0x44A20600, 0x0, .frsq 1 8 12), (0x45220600, 0x0, .fsqrt 1 8 12), (0x45A20600, 0x0, .fexp2 1 8 12),
    (0x46220600, 0x0, .flog2 1 8 12), (0x48220610, 0x0, .fseq 1 8 12 16), (0x48A20610, 0x0, .fsne 1 8 12 16),
    (0x49220610, 0x0, .fslt 1 8 12 16), (0x49A20610, 0x0, .fsle 1 8 12 16), (0x4C220610, 0x0, .dot2 1 8 12 16),
    (0x4CA20610, 0x0, .dot4 1 8 12 16), (0x4D220610, 0x0, .dot8 1 8 12 16), (0x50220610, 0x0, .hadd 1 8 12 16),
    (0x50A20610, 0x0, .hsub 1 8 12 16), (0x51220610, 0x0, .hmul 1 8 12 16), (0x51A20610, 0x0, .hfma 1 8 12 16),
    (0x52220610, 0x0, .hmin 1 8 12 16), (0x52A20610, 0x0, .hmax 1 8 12 16)] = true := by decide +kernel

theorem test_decode_convert_and_cross_lane : readsAll [
    (0x60220600, 0x0, .cvt 1 8 12), (0x60A20610, 0x0, .pack 1 8 12 16), (0x61220610, 0x0, .unpk 1 8 12 16),
    (0x61880030, 0x0, .tagw 8 48), (0x62220600, 0x0, .tagr 1 8 12), (0x62A00601, 0x0, .setm 1 12 1),
    (0x63000000, 0xDEADBEEF, .setmi 3735928559), (0x63A20001, 0x0, .getm 1 8 1), (0x64220600, 0x0, .stat 1 8 12),
    (0x68220600, 0x0, .voteAny 1 8 12), (0x68A20600, 0x0, .voteAll 1 8 12), (0x69220600, 0x0, .voteBal 1 8 12),
    (0x69A20610, 0x0, .shflIdx 1 8 12 16), (0x6A220610, 0x0, .shflUp 1 8 12 16),
    (0x6AA20610, 0x0, .shflDn 1 8 12 16), (0x6B220610, 0x0, .shflXor 1 8 12 16), (0x6BA20610, 0x0, .bcast 1 8 12 16),
    (0x6C220600, 0x0, .reduAdd 1 8 12), (0x6CA20600, 0x0, .reduMin 1 8 12), (0x6D220600, 0x0, .reduMax 1 8 12),
    (0x6DA20600, 0x0, .prefx 1 8 12), (0x6E220005, 0x0, .wid 1 8 5), (0x6EA20000, 0x0, .lane 1 8),
    (0x6F220000, 0x0, .maskr 1 8), (0x6FA20000, 0x0, .liver 1 8)] = true := by decide +kernel

theorem test_decode_control : readsAll [
    (0x80200000, 0x0, .nop 1), (0x808C9ABC, 0x0, .br 12 39612), (0x810C9ABC, 0x0, .bru 12 39612),
    (0x81809ABC, 0x0, .jmp 39612), (0x82200600, 0x0, .jmpr 1 12), (0x828C9ABC, 0x0, .call 12 39612),
    (0x83200600, 0x0, .ret 1 12), (0x83809ABC, 0x0, .joinat 39612), (0x84200000, 0x0, .join 1),
    (0x84800009, 0x0, .brk 9), (0x850C9ABC, 0x0, .loop 12 39612), (0x858C9ABC, 0x0, .lexit 12 39612),
    (0x86200000, 0x0, .exit 1), (0x86802107, 0x0, .trap 33 7), (0x87200000, 0x0, .tret 1),
    (0x87A20610, 0x0, .waitv 1 8 12 16), (0x88200000, 0x0, .yield 1), (0x88809ABC, 0x0, .sleep 39612),
    (0x90220610, 0x0, .pgmap 1 8 12 16), (0x90A20610, 0x0, .pginv 1 8 12 16)] = true := by decide +kernel

theorem test_decode_load_and_store : readsAll [
    (0xA0220655, 0x0, .ldb 1 8 12 85), (0xA0A20655, 0x0, .ldbs 1 8 12 85), (0xA1220655, 0x0, .ldh 1 8 12 85),
    (0xA1A20655, 0x0, .ldhs 1 8 12 85), (0xA2220655, 0x0, .ld 1 8 12 85), (0xA2A20655, 0x0, .ldd 1 8 12 85),
    (0xA3220655, 0x0, .ldq 1 8 12 85), (0xA4220655, 0x0, .stb 1 8 12 85), (0xA4A20655, 0x0, .sth 1 8 12 85),
    (0xA5220655, 0x0, .st 1 8 12 85), (0xA5A20655, 0x0, .std 1 8 12 85), (0xA6220655, 0x0, .stq 1 8 12 85),
    (0xA8220655, 0x0, .ldAcq 1 8 12 85), (0xA8A20655, 0x0, .lddAcq 1 8 12 85), (0xA9220655, 0x0, .stRel 1 8 12 85),
    (0xA9A20655, 0x0, .stdRel 1 8 12 85), (0xAA220655, 0x0, .ldro 1 8 12 85), (0xAAA20655, 0x0, .ldroQ 1 8 12 85),
    (0xAB200655, 0x0, .pref 1 12 85), (0xB0220655, 0x0, .lds 1 8 12 85), (0xB0A20655, 0x0, .ldsQ 1 8 12 85),
    (0xB1220655, 0x0, .sts 1 8 12 85), (0xB1A20655, 0x0, .stsQ 1 8 12 85), (0xB4220600, 0x0, .tagl 1 8 12),
    (0xB4A20610, 0x0, .tagi 1 8 12 16), (0xB5220600, 0x0, .tage 1 8 12), (0xB5A20610, 0x0, .tagp 1 8 12 16),
    (0xB6220610, 0x0, .tagt 1 8 12 16)] = true := by decide +kernel

theorem test_decode_atomic_wait_and_remote : readsAll [
    (0xC0220610, 0x0, .aadd 1 8 12 16), (0xC0A20610, 0x0, .amin 1 8 12 16), (0xC1220610, 0x0, .amax 1 8 12 16),
    (0xC1A20610, 0x0, .aand 1 8 12 16), (0xC2220610, 0x0, .aor 1 8 12 16), (0xC2A20610, 0x0, .axor 1 8 12 16),
    (0xC3220610, 0x0, .axch 1 8 12 16), (0xC3A20610, 0x0, .acas 1 8 12 16), (0xC4220610, 0x0, .aadd64 1 8 12 16),
    (0xC4A20610, 0x0, .acas64 1 8 12 16), (0xC6200000, 0x0, .fence 1), (0xC6A00000, 0x0, .fenceRo 1),
    (0xC8001234, 0x0, .waitc 1 2 3 4), (0xC8A00604, 0x0, .waitr 1 12 4), (0xC9220004, 0x0, .ctrr 1 8 4),
    (0xCC200000, 0x0, .bar 1), (0xCCA00600, 0x0, .baroArr 1 12), (0xCD220610, 0x0, .baroWt 1 8 12 16),
    (0xD0220610, 0x0, .xld 1 8 12 16), (0xD0A20610, 0x0, .xldQ 1 8 12 16), (0xD1220610, 0x0, .xst 1 8 12 16),
    (0xD1A20610, 0x0, .xstQ 1 8 12 16), (0xD2220610, 0x0, .xat 1 8 12 16), (0xD2A20610, 0x0, .xcas 1 8 12 16),
    (0xD4200000, 0x0, .cwdet 1), (0xD4A00000, 0x0, .cwleave 1), (0xD5220610, 0x0, .cwxch 1 8 12 16)] = true := by decide +kernel

theorem test_decode_matrix_copy_and_near_memory : readsAll [
    (0xE020C600, 0x0, .wbld 1 3 12), (0xE0A0C000, 0x0, .wbz 1 3), (0xE120C601, 0x0, .mma 1 3 12 1),
    (0xE1A0C000, 0x0, .accz 1 3), (0xE220C600, 0x0, .accsv 1 3 12), (0xE2A0C600, 0x0, .accrs 1 3 12),
    (0xE320C600, 0x0, .tdrain 1 3 12), (0xE3A0C601, 0x0, .tscale 1 3 12 1), (0xE4220180, 0x0, .histrd 1 8 3),
    (0xE4A0C000, 0x0, .histz 1 3), (0xE6220610, 0x0, .cpy 1 8 12 16), (0xE6A20610, 0x0, .cpy2d 1 8 12 16),
    (0xE7220610, 0x0, .cpfill 1 8 12 16), (0xE7A00610, 0x0, .cprt 1 12 16), (0xE8220600, 0x0, .nmld 1 8 12),
    (0xE8A20600, 0x0, .nmsw 1 8 12), (0xE9200600, 0x0, .nmx 1 12), (0xE9A20610, 0x0, .nmst 1 8 12 16),
    (0xEA220610, 0x0, .idxreg 1 8 12 16), (0xEAA20600, 0x0, .srch 1 8 12), (0xEB220600, 0x0, .scan 1 8 12),
    (0xEBA20600, 0x0, .walk 1 8 12), (0xEC200600, 0x0, .xred 1 12), (0xECA20610, 0x0, .tkmerge 1 8 12 16),
    (0xED220600, 0x0, .ivcommit 1 8 12), (0xEE220610, 0x0, .qpush 1 8 12 16), (0xEEA20600, 0x0, .qpop 1 8 12),
    (0xEF220600, 0x0, .jcard 1 8 12), (0xEFA20600, 0x0, .launch 1 8 12), (0xF0200610, 0x0, .evset 1 12 16),
    (0xF0A00610, 0x0, .evclr 1 12 16), (0xF1220600, 0x0, .evrd 1 8 12), (0xF4000000, 0x0, .ball),
    (0xF4A00600, 0x0, .bsgl 1 12), (0xF5200600, 0x0, .brow 1 12), (0xF5A20600, 0x0, .bcolr 1 8 12),
    (0xF6220600, 0x0, .bcolw 1 8 12), (0xF6A20600, 0x0, .bres 1 8 12), (0xF7200600, 0x0, .ifm 1 12),
    (0xF7800000, 0x0, .elm), (0xF8000000, 0x0, .enm), (0xFA220600, 0x0, .dist 1 8 12),
    (0xFAA20610, 0x0, .heapi 1 8 12 16), (0xFB220610, 0x0, .adj 1 8 12 16), (0xFBA00600, 0x0, .ferry 1 12),
    (0xFC220600, 0x0, .vchk 1 8 12)] = true := by decide +kernel

/-! ## Small states -/

/-- A page of device memory, writable and executable. -/
def page : Xlat := { frame := 0, tier := 0, bl := true, w := true, x := true, sup := false }
/-- A fragment at 0x1000. -/
def fragOf (mask : DWord) : Fragment :=
  { pc := 0x400, mask := mask, st := .ready, link := none, suspended := false, notBefore := 0 }
/-- A wave with slots 0 and 1 alive in one fragment at 0x1000, a word in some registers of both, and tags. -/
def waveWith (regs : List (Nat × Word)) (tags : List (Nat × Byte)) : Wave :=
  { newWave 0 0 0 0x1000 0 with
    live := 3, regs := regs.map fun r => (r.1, [(0, r.2), (1, r.2)]), tags := tags, split := [(0, .frag (fragOf 3))] }
/-- The same with slot 0 alone. -/
def lone (w : Wave) : Wave :=
  { w with live := 1, regs := w.regs.map fun r => (r.1, r.2.take 1), split := [(0, .frag (fragOf 1))] }
/-- Slot 1 in a fragment of its own, in entry 1. -/
def apart (w : Wave) : Wave :=
  { w with split := [(0, .frag (fragOf 1)), (1, .frag { fragOf 2 with pc := 0x480 })] }
/-- A group of one wave. -/
def groupWith (w : Wave) : Group :=
  { ctx := 0, serial := 1, unit := 0, member := 0, core := 0, base := 0, size := 1, regs := 128, waves := [(0, w)],
    notes := [], written := [], attached := true, present := true, held := false, gone := [], left := [],
    saving := false, image := none, bound := none }
/-- An entry of the tag table that the group owns. -/
def ownTag : TagEnt := { valid := true, pinned := false, dirty := false, owner := 0, va := 0 }
/-- A device in use whose turn is fragment 0 of that wave: context 0 has a supervisor entry, page 0 is in the TLB of
core 0, and entry 0 of its tag table is the group's. -/
def machine (w : Wave) : State :=
  { State.reset with
    cur := .wave 0 0 0, nextOp := 1, nextGroup := 1, nextSerial := 2, groups := [(0, groupWith w)],
    contexts := [(0, { Context.reset with en := true, sup := 0x2000 })],
    cores := [(0, { Core.reset with tlb := [(0, page)], sscr := 1, tags := [(0, ownTag)] })],
    dies := [(0, { Die.reset with tlb := [(0, page)], troot := [(0, 0x100001)] })], dev := { Device.reset with stage := 3 } }
/-- The wave of the machine changed. -/
def withWave (s : State) (f : Wave → Wave) : State := s.onWave 0 0 f
/-- Bytes of memory from a key on. -/
def bytesL (k : Nat) (l : List Byte) : Tab Byte := (l.zipIdx.filter (·.1 != 0)).map fun e => (k + e.2, e.1)
/-- A number in n bytes, lowest first. -/
def le (n x : Nat) : List Byte := (List.range n).map fun j => BitVec.ofNat 8 (x / 2 ^ (8 * j))
/-- Cells in rising order. -/
def sorted (m : Tab Byte) : Tab Byte := m.foldl (fun t e => t.put e.1 e.2) []
/-- The state an instruction or event leaves; a reset device where it leaves none. -/
def after (i : Instr) (s : State) : State :=
  match exec i s with
  | .next t => t
  | _ => State.reset
/-- The wave it leaves. -/
def waveAfter (i : Instr) (s : State) : Wave := ((after i s).wave? 0 0).getD (newWave 0 0 0 0 0)
/-- A register of a slot it leaves. -/
def regAfter (i : Instr) (s : State) (n t : Nat) : Word := (waveAfter i s).reg n t
/-- The issuing frame, or a frame of the empty wave where there is none. -/
def frameOf (s : State) : Frame :=
  s.frame?.getD { gid := 9, wid := 9, ent := 9, g := groupWith (waveWith [] []), w := waveWith [] [], v := waveWith [] [],
                  f := fragOf 0 }
/-- The instruction starts in a state, whose frame has a property. -/
def meets (s : State) (i : Instr) (p : Frame → Bool) : Bool :=
  match s.frame? with
  | some fr => decide (Starts s fr i) && p fr
  | none => false
/-- An instruction or event leaves exactly a state. -/
def leaves (i : Instr) (s u : State) : Bool :=
  match exec i s with
  | .next t => decide (t = u)
  | _ => false
/-- Every one of a list holds. -/
def every (l : List Bool) : Bool := l.all id

/-! ## Well-formed instructions: an ill-formed term for each check (01 R26; 03 R76, R83; 06 R157) -/

theorem test_wellFormed_accepts : [Instr.add 0 1 2 3, .add64 0 2 4 6, .ldq 0 4 6 0, .mma 0 3 4 3, .tagw 5 0x49,
    .getm 0 1 0xF, .wid 0 2 5, .waitr 0 4 5, .trap 0x12 7, .tscale 0 3 4 2, .loadReturn].all (·.wellFormed) = true := by
  decide +kernel
theorem test_pairs_are_even : [Instr.add64 0 3 4 6, .add64 0 2 5 6, .add64 0 2 4 7, .call 5 0, .jmpr 0 9, .ld 0 4 7 0,
    .voteBal 0 3 4, .waitv 0 3 4 6, .cpy 0 4 7 8, .nmld 0 4 5, .srch 0 4 7].any (·.wellFormed) = false := by decide +kernel
theorem test_quads_are_multiples_of_four : [Instr.ldq 0 2 8 0, .stq 0 6 8 0, .ldsQ 0 1 8 0, .xldQ 0 2 4 8,
    .cpy2d 0 4 6 10].any (·.wellFormed) = false := by decide +kernel
theorem test_tiles_are_below_four : [Instr.wbld 0 4 8, .wbz 0 4, .mma 0 4 8 0, .mma 0 0 8 4, .accz 0 5, .accsv 0 4 8,
    .accrs 0 4 8, .tdrain 0 4 8, .tscale 0 4 8 0, .histrd 0 8 4, .histz 0 4].any (·.wellFormed) = false := by decide +kernel
theorem test_numbers_are_assigned : [Instr.tagw 4 0x13, .setm 0 4 2, .getm 0 4 0x10, .wid 0 4 6, .waitr 0 4 6, .ctrr 0 4 6,
    .trap 0 0, .trap 0 0x10, .tscale 0 1 4 3].any (·.wellFormed) = false := by decide +kernel
theorem test_reserved_fields_refuse : [0x05000001, 0x61800130, 0x86004000, 0x63800080].all (fun w : Word =>
    decode w 0 == .reject .reserved) = true := by decide +kernel
theorem test_unassigned_opcodes_refuse : [0x00000000, 0x12800000, 0xFFFFFFFF].all (fun w : Word =>
    decode w 0 == .reject .unassigned) = true := by decide +kernel
theorem test_misformed_operand_named : decode 0x0D00C206 0 = .reject (.operand 3) := by decide +kernel

/-! ## Single steps: the spec's worked examples -/

/-- Registers v4 and v5 hold two words tagged alike. -/
def two (x y : Word) (tag : Byte) : State := machine (waveWith [(4, x), (5, y)] [(4, tag), (5, tag)])
/-- The same with MODE.sat. -/
def saturating (s : State) : State := withWave s fun w => { w with mode := w.mode ||| 0x80000 }

/-- 04 R95. -/
theorem test_mul_wraps_or_clamps : every [
    regAfter (.mul 0 6 4 5) (two 0x10000 0x10000 0x11) 6 1 == 0,
    regAfter (.mul 0 6 4 5) (saturating (two 0x10000 0x10000 0x11)) 6 1 == 0xFFFFFFFF,
    regAfter (.mul 0 6 4 5) (saturating (two 0x10000 0x10000 0x10)) 6 1 == 0x7FFFFFFF,
    regAfter (.mulh 0 6 4 5) (two 0x10000 0x10000 0x10) 6 0 == 1] = true := by decide +kernel
/-- 04 R97. -/
theorem test_divisions : [(7, 2, 3, 3), (0xFFFFFFF9, 2, 0xFFFFFFFD, 0x7FFFFFFC), (5, 0, 0x7FFFFFFF, 0xFFFFFFFF),
    (0xFFFFFFFB, 0, 0x80000000, 0xFFFFFFFF), (0x80000000, 0xFFFFFFFF, 0x80000000, 0)].all (fun r : Word × Word × Word × Word =>
      regAfter (.divs 0 6 4 5) (two r.1 r.2.1 0x10) 6 0 == r.2.2.1 &&
        regAfter (.divu 0 6 4 5) (two r.1 r.2.1 0x10) 6 0 == r.2.2.2) = true := by decide +kernel
/-- 04 R97. -/
theorem test_divs_overflow_clamps :
    regAfter (.divs 0 6 4 5) (saturating (two 0x80000000 0xFFFFFFFF 0x10)) 6 0 = 0x7FFFFFFF := by decide +kernel
/-- 04 R98: the tag of a decides. -/
theorem test_and_clears_a_sign :
    let w := waveAfter (.and 0 6 4 5) (machine (waveWith [(4, 0xBF800000), (5, 0x7FFFFFFF)] [(4, 0x20), (5, 0x11)]))
    w.reg 6 0 = 0x3F800000 ∧ w.tag 6 = 0x20 := by decide +kernel
/-- 04 R100. -/
theorem test_bfe_extends : every [regAfter (.bfe 0 6 4 5) (two 0xF0A0 0x804 0x10) 6 0 == 0x0A,
    regAfter (.bfe 0 6 4 5) (two 0xF0A0 0x808 0x10) 6 0 == 0xFFFFFFF0] = true := by decide +kernel
/-- 04 R105: the immediate is read under the signedness of a. -/
theorem test_slti_reads_by_tag : every [regAfter (.slti 0 6 4 0x7F) (two 5 0 0x11) 6 0 == 1,
    regAfter (.slti 0 6 4 0x7F) (two 5 0 0x10) 6 0 == 0] = true := by decide +kernel
/-- 04 R101, R93: the high half is in the higher register. -/
theorem test_add64_carries :
    let s := machine (waveWith [(4, 0xFFFFFFFF), (6, 1)] [(4, 0x12), (5, 0x12), (6, 0x12), (7, 0x12)])
    let w := waveAfter (.add64 0 8 4 6) s
    w.reg 8 0 = 0 ∧ w.reg 9 0 = 1 ∧ w.tag 8 = 0x12 ∧ w.tag 9 = 0x12 := by decide +kernel
/-- 01 R28: the first wrong tag in the order d, a, b. -/
theorem test_tag_fault_names_the_register :
    let w := waveAfter (.add 0 6 4 5) (machine (waveWith [] [(4, 0x11), (5, 0x20)]))
    w.tcause = 0x502 ∧ w.priv = true ∧ w.tpc = 0x1000 := by decide +kernel
/-- 04 R111: NX is set exactly when the result is not exact. -/
theorem test_flog2 : every [
    regAfter (.flog2 0 6 4) (two 0x41000000 0 0x20) 6 0 == 0x40400000,
    (waveAfter (.flog2 0 6 4) (two 0x41000000 0 0x20)).stat == 0,
    (waveAfter (.flog2 0 6 4) (two 0x40400000 0 0x20)).stat == 1] = true := by decide +kernel
/-- 02 R61: conversions to signed P4. -/
theorem test_pack_to_p4 : [(0x3F800000, 0x40, 0), (0x3E99999A, 0x32, 1), (0xBF800000, 0xC0, 0), (0x437A0000, 0x80, 5),
    (0x3A400000, 0x01, 3), (0x3A000000, 0x00, 3)].all (fun r : Word × Word × Word =>
      let w := waveAfter (.pack 0 6 4 0) (withWave (two r.1 0 0x20) fun w => { w with mode := 0x44004900 })
      w.reg 6 0 == r.2.1 && w.tag 6 == 0x49 && w.stat == r.2.2) = true := by decide +kernel
/-- 04 R124, R126: slot 1 is the last of its fragment and slot 2 is dead. -/
theorem test_shuffle_and_sum :
    let s := machine { waveWith [(9, 0xFFFF), (5, 1)] [(4, 0x11), (5, 0x11)] with
      regs := [(4, [(1, 10), (2, 20)]), (5, [(0, 1), (1, 1)]), (9, [(0, 0xFFFF), (1, 0xFFFF)])] }
    regAfter (.shflDn 0 9 4 5) s 9 0 = 10 ∧ regAfter (.shflDn 0 9 4 5) s 9 1 = 0xFFFF ∧
      regAfter (.reduAdd 0 12 4) s 12 0 = 10 ∧ regAfter (.reduAdd 0 12 4) s 12 2 = 0 := by decide +kernel
/-- A launch header of small groups. -/
def header : Header :=
  { entry := 0x1000, args := 0x40, regs := 128, sreg := 2, sscr := 1, scr := 1, tiles := false, prio := 0,
    w := [6, 0, 4, 0, 0, 0], gm := 0, gdev := 0, gstr := 1, count := 0, gid := 0, tmo := 0, isles := 0, cores := 0,
    wait := 0, set := 0, reserved := false }
/-- A launch of it, eligible. -/
def launchOf (h : Header) : Launch :=
  { hdr := h, va := 0x5000, card := none, eligible := true, next := 0, chunks := [], first := none, ended := false,
    ready := [], plan := none, blocked := none }
/-- Launch 1 of context 0 is in its queue. -/
def queued (l : Launch) (s : State) : State := s.onContext 0 fun c => { c with launches := [(1, l)] }
/-- 01 R12: the fields of the identifier 0x0036_C1A5, which is slot 37 of its wave. -/
theorem test_wid_fields : [(0, 0xA5), (1, 1), (2, 0xDB0), (3, 0)].all (fun r : BitVec 7 × Word =>
    regAfter (.wid 0 6 r.1) (queued (launchOf { header with w := [8, 2, 12, 0, 0, 0] }) (machine
      { waveWith [] [] with workId := 0x36C180, live := BitVec.allOnes 64, split := [(0, .frag (fragOf (BitVec.allOnes 64)))] }))
      6 37 == r.2) = true := by decide +kernel
/-- 05 R148. -/
theorem test_trap_enters :
    let w := waveAfter (.trap 0x12 7) (machine (waveWith [] []))
    w.tcause = 7 ∧ w.tpc = 0x1000 ∧ w.tmask = 3 ∧ w.priv = true ∧ w.tstat = 1 ∧
      (w.frag? 0).map (·.pc) = some 0x800 := by decide +kernel
/-- 05 R135, R131. -/
theorem test_br_takes_seven_cycles : (waveAfter (.br 4 0xFFFF) (two 1 0 0x11)).frag? 0 =
    some { fragOf 3 with pc := 0x3FF, notBefore := 7 } := by decide +kernel
/-- 05 R136: the slots that stay keep the entry. -/
theorem test_bru_divides :
    let w := waveAfter (.bru 4 0x10) (withWave (two 0 0 0x11) fun w => { w with regs := [(4, [(1, 1)])] })
    (w.frag? 0).map (fun f => (f.pc, f.mask)) = some (0x401, 1) ∧
      (w.frag? 1).map (fun f => (f.pc, f.mask)) = some (0x410, 2) := by decide +kernel
/-- 06 R176: an atomic minimum is signed or not. -/
theorem test_atomic_values : every [AtomOp.apply (.min true) 4 5 0xFFFFFFFF 0 == 0xFFFFFFFF,
    AtomOp.apply (.min false) 4 5 0xFFFFFFFF 0 == 5] = true := by decide +kernel
/-- 02 R62. -/
theorem test_acc80_one : (Fmt.acc80.read 0x3FFF8000000000000000).cmp (Fmt.f32.read 0x3F800000) = some .eq := by decide +kernel
/-- 08 R250: a merge of two lists. -/
theorem test_merge_lists :
    let a : List Item := [⟨0x3F000000, 12⟩, ⟨0x3F800000, 7⟩, ⟨0x3F800000, 9⟩, ⟨0x40000000, 3⟩]
    let b : List Item := [⟨0x3F400000, 40⟩, ⟨0x3F800000, 7⟩, ⟨0x3F800000, 8⟩, ⟨0x3FC00000, 2⟩]
    (a ++ b).foldl (heapInsert 4) [] = [⟨0x3F000000, 12⟩, ⟨0x3F400000, 40⟩, ⟨0x3F800000, 7⟩, ⟨0x3F800000, 8⟩] := by
  decide +kernel

/-! ## Witnesses: instructions of opcode groups 0 to 3 on the three units -/

/-- A launch of a bank program. -/
def bankLaunch : BankLaunch :=
  { ctx := 0, op := 1, recKey := 0x8000, start := 3, mode := 0x2000, regVa := 0x100000, rowBase := 0, sid := 0, args := 0, argKeys := [],
    rowKeys := (List.range 8).map fun j => 0x4000 + 128 * j, object := none, budget := 0 }
/-- A running bank program with two registers of words in every fourth lane, and tags. -/
def bankProg (regs : List (Nat × Word)) (tags : List (Nat × Byte)) (mode : Word) : BankProg :=
  { launch := { bankLaunch with mode := mode }, code := 0, regs := regs.map fun r => (r.1, [(0, r.2), (4, r.2)]), tags := tags,
    mask := 0xF0F3, masks := [], loops := [], allBank := false, bank := 1, row := none, flags := 0, pc := 7, count := 2 }
/-- An engine that runs it. -/
def engineOf (p : BankProg) : Engine :=
  { store := [], active := 0, queue := [], prog := some p, busywr := false, code := 0, endPc := 0 }
/-- The turn of engine 0. -/
def onBank (p : BankProg) : State := { (machine (waveWith [] [])).setEngine 0 (engineOf p) with cur := .bank 0 }
/-- A walk command. -/
def walkCommand (mode : Word) : Command :=
  { ctx := 0, priv := false, want := 2, answer := none, kind := 2, topk := false, pop := 0, k := 2, index := some 0x5000,
    region := none, die := 0, stack := 0, query := le 8 0x3839383938393839, queryBad := none, out := 0, outKeys := [],
    cmdKey := 0x6000, object := none, first := 0, limit := 0, recsz := 0, foff := 0, ftag := 0, opA := 0, opB := 0, cap := 0,
    budget := 10, image := [], imageVa := 0, imageBad := [], mode := mode, snapshot := 5, walkers := 1, accepted := true, heap := [], code := 0,
    ended := 0, ran := 0, poisonMet := false }
/-- A walker of it. -/
def walkerWith (regs : List (Nat × Word)) (tags : List (Nat × Byte)) : Walker :=
  { cmd := 7, place := .running 0, regs := regs, tags := tags, flags := 0, pc := 0x10 }
/-- The turn of walker 0. -/
def onWalk (regs : List (Nat × Word)) (tags : List (Nat × Byte)) (mode : Word) : State :=
  { machine (waveWith [] []) with
    cur := .walker 0, walkers := [(0, walkerWith regs tags)], commands := [(7, walkCommand mode)] }

/-- A wave, a bank program and a walker with the same registers, tags and element type. -/
structure Trio where
  regs : List (Nat × Word)
  tags : List (Nat × Byte)
  etype : Byte := 0x20
/-- The core's state. -/
def Trio.core (t : Trio) : State :=
  machine { waveWith t.regs t.tags with mode := 0x44000000 ||| (t.etype.setWidth 32 <<< 8) }
/-- The program. -/
def Trio.prog (t : Trio) : BankProg := bankProg t.regs t.tags (t.etype.setWidth 32 <<< 8)
/-- The walker's state. -/
def Trio.walk (t : Trio) : State := onWalk t.regs t.tags (t.etype.setWidth 32 <<< 8)

/-- The hypotheses of Rule.Holds hold of a rule in the three states, on each unit that runs it. -/
def holdsMet (t : Trio) (r : Rule) : Bool :=
  meets t.core r.instr (fun fr => !isUniform r.instr && r.passes fr.look && r.untrapped fr && fr.part != 0) &&
    (!runsOn .bank r.instr || (decide (BankStarts (onBank t.prog) 0 t.prog r.instr) && r.passes t.prog.look)) &&
    (!runsOn .walker r.instr || (decide (WalkerStarts t.walk 0 (walkerWith t.regs t.tags)
        (walkCommand (t.etype.setWidth 32 <<< 8)) r.instr) &&
      r.passes ((walkerWith t.regs t.tags).look (t.etype.setWidth 32 <<< 8))))
/-- Those of Rule.StopsOnTags. -/
def stopsMet (t : Trio) (r : Rule) : Bool :=
  meets t.core r.instr (fun fr => !isUniform r.instr && decide (fr.TrapsTo t.core) && r.needs fr.look &&
    (r.firstWrong fr.look).isSome) &&
    (!runsOn .bank r.instr || (decide (BankStarts (onBank t.prog) 0 t.prog r.instr) && r.needs t.prog.look &&
      (r.firstWrong t.prog.look).isSome)) &&
    (!runsOn .walker r.instr || (decide (WalkerStarts t.walk 0 (walkerWith t.regs t.tags)
        (walkCommand (t.etype.setWidth 32 <<< 8)) r.instr) &&
      r.needs ((walkerWith t.regs t.tags).look (t.etype.setWidth 32 <<< 8)) &&
      (r.firstWrong ((walkerWith t.regs t.tags).look (t.etype.setWidth 32 <<< 8))).isSome))
/-- Those of Rule.StopsOnMisfit. -/
def misfitMet (t : Trio) (r : Rule) : Bool :=
  meets t.core r.instr (fun fr => !isUniform r.instr && decide (fr.TrapsTo t.core) && !r.needs fr.look) &&
    (!runsOn .bank r.instr || (decide (BankStarts (onBank t.prog) 0 t.prog r.instr) && !r.needs t.prog.look)) &&
    (!runsOn .walker r.instr || (decide (WalkerStarts t.walk 0 (walkerWith t.regs t.tags)
        (walkCommand (t.etype.setWidth 32 <<< 8)) r.instr) &&
      !r.needs ((walkerWith t.regs t.tags).look (t.etype.setWidth 32 <<< 8))))

/-- Registers v4 to v9 with words, tagged alike. -/
def alike (tag : Byte) (etype : Byte := 0x20) : Trio :=
  { regs := [(4, 0x3F800000), (5, 0x40000000), (6, 3), (7, 0xFFFFFFFF), (8, 0x80000000), (9, 1)],
    tags := (List.range 6).map fun j => (4 + j, tag), etype := etype }

/-- The hypotheses of GoOn hold of instructions with the checks of their operands. -/
def goes (t : Trio) (l : List (Instr × List (Reg × (Byte → Bool)))) (needs : Frame → Bool := fun _ => true) : Bool :=
  l.all fun x => meets t.core x.1 fun fr => x.2.all fr.look.ok && needs fr
/-- MODE.inv_trap is 0. -/
def calm (fr : Frame) : Bool := !modeInvTrap fr.v.mode

theorem witness_IntegerArithmetic : every [
    goes (alike 0x10) [(.add 0 6 4 5, intTags [4, 5]), (.mad 3 6 4 5, intTags [6, 4, 5]), (.addl 6 5, intTags [6])],
    goes (alike 0x12) [(.add64 0 8 4 6, pairTags 4 ++ pairTags 6), (.addi64 0 8 4 1, pairTags 4)],
    (arithmeticRules 0 6 4 5 0x7F 0xFFFFFFFF).all (holdsMet (alike 0x10)),
    (arithmeticRules 3 0 0 0 0x40 0).all (holdsMet (alike 0x11)),
    (pairRules 0 8 4 6 0x7F).take 2 |>.all (holdsMet (alike 0x12)),
    (pairRules 0 8 4 6 0).drop 2 |>.all (holdsMet { alike 0x12 with tags := [(4, 0x12), (5, 0x12), (6, 0x11)] }),
    (pairRules 0 0 0 0 0).all (holdsMet (alike 0x11))] = true := by decide +kernel
theorem witness_DivisionFollowsTheMnemonic : every [
    (divRules 0 6 4 5).all (holdsMet (alike 0x11)), (divRules 0 0 4 0).all (holdsMet (alike 0x10)),
    (divRules 0 6 4 5).all (stopsMet (alike 0x20)),
    goes (alike 0x11) [(.divu 0 6 4 5, intTags [4, 5]), (.divs 0 6 4 5, intTags [4, 5])]] = true := by decide +kernel
theorem witness_LogicAndShifts : every [
    (logicRules 0 6 4 5 0x7F 0xFFFFFFFF).all (holdsMet (alike 0x11)),
    (logicRules 0 0 0 0 0 0).all (holdsMet (alike 0x10)),
    goes (alike 0x11) [(.and 0 6 4 5, anyTags [4, 5]), (.bfi 0 6 4 5, anyTags [6, 4] ++ intTags [5])]] = true := by decide +kernel
theorem witness_ComparesAndMoves : every [
    (moveRules 0 6 4 5 0x40 0x12345678).all (holdsMet (alike 0x10)),
    (moveRules 0 0 0 0 0 0).all (holdsMet (alike 0x10)),
    goes (alike 0x10) [(.slt 0 6 4 5, intTags [4, 5]), (.lit 6 0, [])],
    goes (alike 0x20) [(.sel 0 6 4 5, anyTags [4, 5])] fun fr => fr.look.res 4 == fr.look.res 5] = true := by decide +kernel
theorem witness_MovCopiesBitsAndTag : every [holdsMet (alike 0) (movRule 0 6 4), holdsMet (alike 0x70) (movRule 1 0 4),
    decide ((16 : Reg) ≠ 0), goes (alike 0x70) [(.mov 0 6 4, [])]] = true := by decide +kernel
theorem witness_ConstantsOfSixteenBits : every [(constantRules 6 0xFFFF).all (holdsMet (alike 0x70)),
    (constantRules 0 0).all (holdsMet (alike 0x70)), goes (alike 0x70) [(.movk 6 1, []), (.movh 6 1, [])]] = true := by decide +kernel
/-- With slot u, and with no slot that passes the guard. -/
theorem witness_UniformForms :
    let ok : Trio → Rule → Bool := fun t r => meets t.core r.instr fun fr => (lowest fr.part).isSome && r.passes fr.look
    let no : Rule → Bool := fun r => meets (withWave (alike 0x11).core fun w => { w with mode := 0x4400200A }) r.instr
      fun fr => (lowest fr.part).isNone
    every [(uniformRules 0 6 4 5 3).all fun r => ok (alike 0x11) r || r.wide, (uniformRules 0 8 4 6 3).all fun r => ok (alike 0x12) r || !r.wide,
      (uniformRules 0 6 4 8 3).all no, (uniformRules 0 0 0 0 0).all (ok (alike 0x11)),
      goes (alike 0x11) [(.addU 0 6 4 5, intTags [4, 5]), (.shlU 0 6 4 5, anyTags [4] ++ intTags [5])]] = true := by decide +kernel
theorem witness_FloatArithmetic : every [
    (floatRules 0 6 4 5 ++ floatCompareRules 0 6 4 5 ++ elementaryRules 0 6 4).all (holdsMet (alike 0x20)),
    (floatRules 0 8 7 7 ++ floatCompareRules 0 8 7 7 ++ elementaryRules 0 8 7).all (holdsMet (alike 0x20)),
    goes (alike 0x20) [(.fadd 0 6 4 5, floatTags [4, 5]), (.fma 0 6 4 5, floatTags [6, 4, 5]), (.flog2 0 6 7, floatTags [7])] calm,
    goes (alike 0x20) [(.fneg 0 6 7, floatTags [7])]] = true := by
  decide +kernel
theorem witness_PackedDotAndConversions : every [
    (packedRules 0 6 4 5).all (holdsMet (alike 0x21)), (packedRules 0 6 4 5).all (holdsMet (alike 0x22)),
    (dotRules 0 9 4 5).take 1 |>.all (holdsMet { alike 0x21 with tags := [(9, 0x20), (4, 0x21), (5, 0x22)] }),
    ((dotRules 0 9 4 5).drop 1 |>.take 1).all (holdsMet { alike 0x30 with tags := [(9, 0x10), (4, 0x30), (5, 0x31)] }),
    ((dotRules 0 9 4 5).drop 1 |>.take 1).all (holdsMet { alike 0x30 with tags := [(9, 0x20), (4, 0x49), (5, 0x5F)] }),
    (dotRules 0 9 4 5).drop 2 |>.all (holdsMet { alike 0x30 with tags := [(9, 0x11), (4, 0x32), (5, 0x33)] }),
    ((convertRules 0 6 4 5).take 1).all (holdsMet (alike 0x20 0x10)),
    ((convertRules 0 6 4 9).drop 1 |>.take 1).all (holdsMet { alike 0x20 0x49 with tags := [(4, 0x20), (9, 0x11)] }),
    ((convertRules 0 6 4 9).drop 2).all (holdsMet { alike 0x20 0x20 with tags := [(4, 0x49), (9, 0x11)] }),
    [(0x21 : Byte), 0x22].all fun x => goes (alike x) [(.hadd 0 6 4 5, [(4, (· = x)), (5, (· = x))]),
      (.hfma 0 6 4 5, [(6, (· = x)), (4, (· = x)), (5, (· = x))])] calm,
    goes { alike 0x21 with tags := [(9, 0x20), (4, 0x21), (5, 0x22)] }
      [(.dot2 0 9 4 5, [(9, (· = 0x20)), (4, dotAccepts 16 false), (5, dotAccepts 16 false)])] calm,
    goes { alike 0x30 with tags := [(9, 0x11), (4, 0x32), (5, 0x33)] }
      [(.dot8 0 9 4 5, [(9, fun t => t = 0x10 || t = 0x11), (4, dotAccepts 4 true), (5, dotAccepts 4 true)])],
    goes (alike 0x20 0x10) [(.cvt 0 6 4, anyTags [4])] fun fr => calm fr && widthOf (fr.look.res 4) == some 32 &&
      widthOf (modeEtype fr.v.mode) == some 32,
    goes { alike 0x20 0x49 with tags := [(4, 0x20), (9, 0x11)] } [(.pack 0 6 4 9, anyTags [4] ++ intTags [9])] fun fr =>
      calm fr && widthOf (fr.look.res 4) == some 32 && widthOf (modeEtype fr.v.mode) == some 8,
    goes { alike 0x20 0x20 with tags := [(4, 0x49), (9, 0x11)] } [(.unpk 0 6 4 9, anyTags [4] ++ intTags [9])] fun fr =>
      calm fr && widthOf (fr.look.res 4) == some 8 && widthOf (modeEtype fr.v.mode) == some 32] = true := by
  decide +kernel
theorem witness_CrossLane : every [
    (voteRules 0 6 4 ++ shuffleRules 0 6 4 5 ++ reductionRules 0 6 4 ++ identityRules 0 6 4).all (holdsMet (alike 0x10)),
    (reductionRules 0 6 4).all (holdsMet (alike 0x20)),
    goes (alike 0x10) [(.voteAny 0 6 4, []), (.bcast 0 6 4 5, intTags [5]), (.prefx 0 6 4, intTags [4])],
    goes (alike 0x20) [(.reduAdd 0 6 4, floatTags [4])] calm,
    [(0 : BitVec 7), 5].all fun k => meets (queued (launchOf header) (alike 0x11).core) (.wid 0 6 k) fun fr =>
      ((queued (launchOf header) (alike 0x11).core).launchOf fr.g).isSome] = true := by decide +kernel
theorem witness_TagFaults : every [
    (arithmeticRules 0 6 4 5 0 0 ++ pairRules 0 8 4 6 0 ++ logicRules 0 6 4 5 0 0 ++ floatRules 0 6 4 5 ++
      floatCompareRules 0 6 4 5 ++ elementaryRules 0 6 4 ++ packedRules 0 6 4 5 ++ shuffleRules 0 6 4 5 ++
      reductionRules 0 6 4).all (stopsMet (alike 0x70)),
    ((moveRules 0 6 4 5 0 0).filter fun r => r.instr != .lit 6 0 && r.instr != .sel 0 6 4 5).all (stopsMet (alike 0x70)),
    stopsMet { alike 0x11 with tags := [(4, 0x10), (5, 0x11)] } (selRule 0 6 4 5),
    (dotRules 0 9 4 5).take 1 |>.all (stopsMet { alike 0x21 with tags := [(9, 0x10), (4, 0x21), (5, 0x22)] }),
    (dotRules 0 9 4 5).drop 2 |>.all (stopsMet { alike 0x21 with tags := [(9, 0x10), (4, 0x32), (5, 0x22)] }),
    ((convertRules 0 6 4 9).drop 1 |>.take 1).all (stopsMet { alike 0x20 0x49 with tags := [(4, 0x20), (9, 0x20)] }),
    (convertRules 0 6 4 5).all (misfitMet (alike 0x12)), (convertRules 0 6 4 9).all (misfitMet (alike 0x32 0x30))] = true := by
  decide +kernel

/-! ## Witnesses: control registers, control flow and traps -/

/-- Registers for control flow: a count, a quarter, zero and an address in pair v8. -/
def flow (f : Wave → Wave := id) : State :=
  machine (f (waveWith [(4, 7), (5, 0x101), (6, 3), (7, 0), (8, 0x10), (9, 0x55)]
    [(4, 0x11), (5, 0x11), (6, 0x11), (7, 0x11), (8, 0x12), (9, 0x12)]))
/-- In supervisor mode. -/
def asSupervisor (w : Wave) : Wave := { w with priv := true }
/-- Two slots with different values in v4 and different addresses in pair v8. -/
def diverging (w : Wave) : Wave :=
  { w with regs := ((w.regs.put 4 [(1, 1)]).put 8 [(0, 0x100), (1, 0x40)]).put 9 [] }
/-- A join record that waits for slots. -/
def recordOf (wait : DWord) (parent loop : Option Nat) : JoinRec :=
  { pc := 0x500, wait := wait, arrived := 3 &&& ~~~wait, parent := parent, loop := loop, inTrap := false }
/-- Slot 0 in entry 0 with a link, slot 1 in entry 2 when it has not arrived, and records. -/
def linked (link : Option Nat) (js : List (Nat × Entry)) (alone : Bool) (w : Wave) : Wave :=
  { w with split := sorted' ([(0, .frag { fragOf (if alone then 3 else 1) with link := link })] ++
      (if alone then [] else [(2, .frag { fragOf 2 with link := link, pc := 0x480 })]) ++ js) }
where
  /-- Entries in rising order. -/
  sorted' (l : Tab Entry) : Tab Entry := l.foldl (fun t e => t.put e.1 e.2) []
/-- The wave is in one loop with its record in entry 1. -/
def looping (w : Wave) : Wave :=
  { linked (some 1) [(1, .join (recordOf 3 none (some 0)))] false w with
    loops := [{ id := 0, start := 0x400, stop := 0x410, count := 3, mask := 3 }], nextLoop := 1 }

theorem witness_ControlRegisters : every [
    meets flow (.tagw 0 0x49) fun _ => true, meets flow (.tagw 127 0) fun _ => true,
    meets flow (.setmi 0x44002100) fun fr => !waveModeBad fr.g.regs 0x44002100,
    meets (flow fun w => { w with regs := w.regs.put 4 [(0, 0x4400107F), (1, 0x4400107F)] }) (.setm 0 4 0) fun fr =>
      !waveModeBad fr.g.regs (fr.v.reg 4 fr.u),
    ([0x01, 0x08, 0x09, 0x0A, 0x0B, 0x0C, 0x0D, 0x0E, 0x0F] : List (BitVec 7)).all fun k =>
      meets (flow asSupervisor) (.setm 0 4 k) fun _ => true,
    ([0x00, 0x01, 0x08, 0x0F] : List (BitVec 7)).all fun k => meets (flow asSupervisor) (.getm 0 6 k) fun _ => true,
    meets flow (.stat 0 6 4) fun fr => lowest fr.part == some 0,
    meets (flow fun w => { w with mode := 0x44002007 }) (.stat 0 6 4) fun fr => (lowest fr.part).isNone] = true := by
  decide +kernel
theorem witness_InstructionsGoOnInSequence : let fr := frameOf flow
    flow.frame? = some fr ∧ fr.Quiet ∧ fr.w.split = fr.w.split ∧ fr.w.loops = [] := by decide +kernel
theorem witness_BranchesAndCalls :
    let x : State → Reg → DWord := fun s a => (frameOf s).act &&& maskWhere fun t => (frameOf s).v.reg a.toNat t != 0
    every [decide ((frameOf flow).Quiet), decide ((frameOf (flow diverging)).Quiet),
      [Instr.nop 0, .jmp 0x8000, .br 4 0x7FFF, .br 7 0, .br 0 1, .bru 4 0, .bru 7 1, .call 6 1, .call 0 0].all fun i =>
        meets flow i fun _ => true,
      decide (x flow 7 = 0 ∧ x flow 4 = (frameOf flow).act),
      meets (flow diverging) (.bru 4 1) fun fr => decide (x (flow diverging) 4 = 2 ∧ fr.w.emptyEntry = some 1),
      [Instr.jmpr 0 8, .ret 0 8].all fun i => meets flow i fun fr => (pairTags 8).all fr.look.ok &&
        (slotsOf fr.act).all fun t => pairOf fr.look 8 t == (0x1540000004 : Pc) ++ 0#2,
      [Instr.jmpr 0 8, .ret 0 8].all fun i => meets (flow diverging) i fun fr => (pairTags 8).all fr.look.ok &&
        decide (fr.act &&& 2 ≠ 0 ∧ fr.act &&& ~~~2 ≠ 0 ∧ (0x10 : Pc).toNat < (0x40 : Pc).toNat ∧
            fr.w.emptyEntry = some 1) &&
        (slotsOf fr.act).all fun t => pairOf fr.look 8 t == (if inMask 2 t then (0x10 : Pc) else 0x40) ++ 0#2] = true := by
  decide +kernel
theorem witness_JoinRecords :
    let waits := flow (linked (some 1) [(1, .join (recordOf 3 none none))] false)
    let last := flow (linked (some 1) [(1, .join (recordOf 3 none none))] true)
    let nested := flow (linked (some 1) [(1, .join (recordOf 3 (some 3) none)), (3, .join (recordOf 3 none none))] false)
    every [[flow, waits, last, nested].all fun s => decide ((frameOf s).Quiet),
      meets flow (.joinat 0x8000) fun fr => fr.w.emptyEntry == some 1,
      [Instr.join 0, .brk 0].all fun i => meets flow i fun fr => fr.f.link.isNone,
      [Instr.join 0, .brk 0].all fun i => meets waits i fun fr => fr.f.link == some 1 &&
        decide (fr.w.join? 1 = some (recordOf 3 none none) ∧ (recordOf 3 none none).wait &&& ~~~fr.act ≠ 0),
      [Instr.join 0, .brk 0].all fun i => meets last i fun fr => fr.f.link == some 1 &&
        decide (fr.w.join? 1 = some (recordOf 3 none none) ∧ (recordOf 3 none none).wait &&& ~~~fr.act = 0),
      [Instr.brk 1, .brk 15].all fun i => meets waits i fun fr => fr.f.link == some 1 &&
        decide (fr.w.join? 1 = some (recordOf 3 none none)),
      meets nested (.brk 1) fun fr => decide (fr.w.join? 1 = some (recordOf 3 (some 3) none) ∧
        fr.w.join? 3 = some (recordOf 3 none none) ∧ (recordOf 3 none none).wait &&& ~~~fr.act ≠ 0)] = true := by decide +kernel
theorem witness_HardwareLoops :
    let x : State → DWord := fun s => (frameOf s).act &&& maskWhere fun t => (frameOf s).v.reg 4 t != 0
    every [[flow, flow diverging].all fun s => decide ((frameOf s).Quiet),
      [Instr.loop 4 0, .loop 4 0x8000, .loop 7 1, .loop 7 0x7FFF].all fun i => meets flow i fun _ => true,
      meets flow (.loop 4 1) fun fr => decide (fr.v.reg 4 fr.u ≠ 0 ∧ tsNest fr.w.tstat = false ∧ fr.w.loops.length < 4 ∧
        fr.w.emptyEntry = some 1),
      meets (flow looping) (.loop 6 4) fun fr => decide (tsNest fr.w.tstat = false ∧ fr.w.loops.length < 4 ∧
        fr.w.emptyEntry = some 3),
      [Instr.lexit 0 5, .lexit 7 5, .lexit 4 5].all fun i => meets flow i fun _ => true,
      meets (flow diverging) (.lexit 4 5) fun fr => decide (x (flow diverging) = 2 ∧ fr.w.emptyEntry = some 1),
      meets (flow looping) (.jmp 5) fun fr => fr.w.loops.all fun l => l.mask != 0 && l.start.ule (fr.f.pc + 5) &&
          (fr.f.pc + 5).ule l.stop,
      meets (flow looping) (.jmp 0x20) fun fr => fr.w.loops.all fun l => !(fr.f.pc + 0x20).ule l.stop,
      meets (flow looping) (.lexit 0 5) fun fr => match fr.w.loops with
        | [l] => decide (({ fr with w := { fr.w with loops := [] } } : Frame).Quiet ∧ l.mask &&& fr.act = fr.act ∧
            l.mask &&& ~~~fr.act ≠ 0 ∧ fr.f.link = some 1 ∧ fr.w.loopRec l.id = some 1 ∧
            fr.w.join? 1 = some (recordOf 3 none (some 0)) ∧ (recordOf 3 none (some 0)).wait &&& ~~~fr.act ≠ 0)
        | _ => false] = true := by decide +kernel
theorem witness_ExitEndsSlots : every [
    meets (flow apart) (.exit 0) fun fr => decide (fr.Quiet ∧ tsNest fr.w.tstat = false ∧ fr.g.noneAtBar ∧
      fr.w.alive &&& ~~~fr.act ≠ 0) && fr.w.split.all fun x => match x.2 with
        | .frag _ => true
        | .join _ => false,
    meets flow (.exit 0) fun fr => decide (fr.Quiet ∧ tsNest fr.w.tstat = false ∧ fr.g.noneAtBar ∧
      fr.w.alive &&& ~~~fr.act = 0 ∧ fr.g.waves.length = 1 ∧ flow.gangSize fr.g = 1 ∧ fr.g.held = false ∧
          fr.w.dfr = none ∧
      fr.w.efr = none)] = true := by decide +kernel
/-- Event 68 is set. -/
def eventful (s : State) : State := s.onContext 0 fun c => { c with events := 1 <<< 68 }
theorem witness_WaitsOfGroupFour :
    let holds : State → Reg → Frame → Bool := fun s b fr =>
      let m := pairOf fr.look 8 fr.u
      let ctl := fr.v.reg b.toNat fr.u
      let pending := quarterOf (s.context fr.g.ctx).events (ctl.extractLsb' 0 2).toNat &&& m
      decide (if ctl.getLsbD 8 then pending = m else pending ≠ 0)
    let one := flow fun w => { w with regs := (w.regs.put 9 []).put 6 [(0, 1), (1, 1)] }
    every [meets (eventful one) (.waitv 0 10 8 5) (holds (eventful one) 5), meets (eventful flow) (.waitv 0 10 8 6) (fun fr =>
        !holds (eventful flow) 6 fr),
      meets (eventful one) (.waitv 0 0 8 6) (holds (eventful one) 6),
      [Instr.yield 0, .sleep 0, .sleep 1, .sleep 0xFFFF].all fun i => meets flow i fun _ => true,
      [Instr.yield 0, .sleep 0].all fun i => meets (flow apart) i fun fr =>
        (((flow apart).readyOn fr.g.core (fr.w.slot % 4)).filter fun x => x != (fr.gid, fr.wid, fr.ent)) == [(0, 0, 1)]] = true := by
  decide +kernel
theorem witness_TrapsEnterTheSupervisor : every [
    ([(0, 1), (0x12, 7), (0xFF, 0x11)] : List (Byte × Byte)).all fun c => meets (flow apart) (.trap c.1 c.2) fun fr =>
      decide (fr.TrapsTo (flow apart)),
    [Instr.tret 0, .pgmap 0 2 8 4, .pginv 0 2 8 4, .setm 0 4 8, .getm 0 4 0xF].all fun i =>
      let fr := frameOf flow
      decide (flow.frame? = some fr ∧ fr.TrapsTo flow ∧ runsOn .core i = true ∧ fr.loadFault i = none ∧
        badOperand fr.g.regs i = none ∧ numbersOk i = true ∧ needsPrivilege i = true ∧ fr.w.priv = false),
    ([(5, 8, 8), (4, 9, 8), (4, 8, 127), (127, 127, 127)] : List (Reg × Reg × Reg)).all fun r =>
      let fr := frameOf flow
      fr.loadFault (.add64 0 r.1 r.2.1 r.2.2) == none && ([r.1, r.2.1, r.2.2].find? fun x =>
        decide (x.toNat % 2 ≠ 0) || decide (fr.g.regs < x.toNat + 2)).isSome] = true := by decide +kernel
/-- In a handler for slot 0, slot 1 suspended. -/
def handling (w : Wave) : Wave :=
  { w with priv := true, tpc := 0x3000, tmask := 1, tstat := 0x43, tcause := 7,
           split := [(0, .frag { fragOf 1 with pc := 0x800 }), (1, .frag { fragOf 2 with pc := 0x480, suspended := true })] }
theorem witness_TrapReturn : [handling, fun w => { handling w with tstat := 1 }].all (fun f =>
    meets (flow f) (.tret 0) fun fr => decide (fr.Quiet ∧ fr.g.noneAtBar ∧ fr.w.notConverged fr.ent = false ∧
      fr.w.tpc.extractLsb' 0 2 = 0 ∧ fr.w.tmask &&& fr.act = fr.act)) = true := by decide +kernel

/-! ## Witnesses: memory -/

/-- Pair v8 is VA 0x40, v10 a scratch address of the group's region, v4 and v5 words, pairs v12 and v14 64-bit values. -/
def access (f : Wave → Wave := id) : State :=
  machine (f (waveWith [(4, 0x20), (5, 0x101), (6, 3), (7, 0), (8, 0x40), (9, 0), (10, 0xF8000040), (12, 0x2040)]
    [(4, 0x11), (5, 0x11), (6, 0x11), (7, 0x11), (8, 0x12), (9, 0x12), (10, 0x11), (12, 0x12), (13, 0x12), (14, 0x12),
      (15, 0x12)]))
/-- The hypotheses of MemRule.Issues. -/
def issuesMet (s : State) (r : MemRule) : Bool :=
  meets s r.instr fun fr => r.checks.all fr.look.ok && fr.part != 0 && fr.w.ctr.get r.ctr != 63 &&
    (slotsOf fr.part).all fun t => (r.leads s fr (r.addr fr t)).isOk
/-- Those of each clause of MemRule.Otherwise: no slot, a full counter, a cause in every slot. -/
def otherwiseMet (none full bad : State) (r : MemRule) : Bool :=
  (meets none r.instr fun fr => r.checks.all fr.look.ok && decide (fr.part = 0)) &&
  (meets full r.instr fun fr => r.checks.all fr.look.ok && fr.part != 0 && fr.w.ctr.get r.ctr == 63 &&
    (slotsOf fr.part).all fun t => (r.leads full fr (r.addr fr t)).isOk) &&
  meets bad r.instr fun fr => r.checks.all fr.look.ok && decide (fr.part = fr.act ∧ fr.TrapsTo bad) &&
    (slotsOf fr.act).all fun t => match r.leads bad fr (r.addr fr t), r.leads bad fr (r.addr fr fr.u) with
      | .error c, .error c' => c == c'
      | _, _ => false
/-- No slot passes the guard. -/
def guardedOut : State := access fun w => { w with mode := 0x44002007 }
/-- Every counter is at 63. -/
def fullCounters : State := access fun w => { w with ctr := { ld := 63, st := 63, cp := 63, tl := 63, xr := 63, nm := 63 } }
/-- Addresses that lead nowhere. -/
def badAddresses : State := access fun w =>
  { w with regs := (w.regs.put 8 [(0, 0x50000000), (1, 0x50000000)]).put 10 [(0, 0xFFFFFFF0), (1, 0xFFFFFFF0)] }

theorem witness_AccessesIssue_loads_and_stores :
    let rs := loadRules 0 4 8 1 ++ storeRules 0 4 8 1 ++ loadRules 0 0 8 0 ++ storeRules 0 0 8 0x3F
    rs.all (fun r => issuesMet access r && otherwiseMet guardedOut fullCounters badAddresses r) = true := by decide +kernel
theorem witness_AccessesIssue_scratch_and_atomics :
    let rs := scratchRules 0 4 10 0 ++ (atomicRules 0 4 8 5).take 8 ++ (atomicRules 0 12 8 14).drop 8 ++
      (atomicRules 0 0 8 5).take 8
    rs.all (fun r => issuesMet access r && otherwiseMet guardedOut fullCounters badAddresses r) = true := by decide +kernel

/-- Every counter below 63, every address aligned and translated: the completion clauses of AccessesIssue. -/
theorem witness_AccessesIssue_completions :
    let may : Frame → (Nat → DWord) → Nat → AccKind → Bool := fun fr addr n k => fr.part != 0 &&
        (slotsOf fr.part).all fun t =>
      (addr t).toNat % n == 0 && (access.locate (some fr.g.core) fr.g.ctx (addr t) k fr.priv).isOk
    every [
      meets access (.ldb 0 4 8 1) fun fr => (pairTags 8).all fr.look.ok && may fr (pairAddr 8 1 1 fr) 1 .load,
      meets access (.stdRel 0 4 8 1) fun fr => (pairTags 8).all fr.look.ok && may fr (pairAddr 8 1 8 fr) 8 .store,
      meets access (.ldsQ 0 4 10 0) fun fr => (intTags [10]).all fr.look.ok && (slotsOf fr.part).all fun t =>
        (access.scratch fr.g ((wordAddr 10 0 16 fr t).setWidth 32) 16 16 true).isOk,
      meets access (.acas 0 4 8 5) fun fr => (pairTags 8 ++ anyTags [4, 5]).all fr.look.ok &&
          may fr (fr.v.pair 8) 4 .atomic,
      [CtrKind.ld, .st, .cp, .tl, .xr, .nm].all fun c => (frameOf access).w.ctr.get c != 63] = true := by decide +kernel

/-- Where pair v8 leads. -/
def keyA : Nat := 0x40
/-- An operation of the wave. -/
def opOf (k : OpKind) (ctr : Option CtrKind) (accs : List SlotAcc) : Op :=
  { gid := 0, wave := 0, ctx := 0, serial := 1, core := 0, ctr := ctr, kind := k, accs := accs, scope := 3, promote := false,
    issued := 0, tmo := 1024 }
/-- The access of a slot. -/
def acc (slot va key : Nat) (data : BitVec 128 := 0) (cmp : BitVec 128 := 0) : SlotAcc :=
  { slot := slot, va := BitVec.ofNat 64 va, key := key, data := data, cmp := cmp, done := false, grp := false }
/-- Operation 1 is outstanding, and the event is about some slots of it. -/
def withOp (s : State) (o : Op) (slots : DWord) (mem : Tab Byte := []) : State :=
  withWave { s with ops := [(1, o)], nextOp := 2, about := { op := 1, slots := slots }, mem := mem } fun w =>
    { w with ctr := match o.ctr with
        | some c => w.ctr.set c 1
        | none => w.ctr }
/-- 32 bytes at a key. -/
def bytesAt (k : Nat) : Tab Byte := (List.range 32).map fun j => (k + j, BitVec.ofNat 8 (0xE1 + j))
theorem witness_keyA : access.locate (some 0) 0 0x40 .load false = .ok keyA := by rfl

/-- A line of the read-only partition. -/
def roLine : RoLine :=
  { bytes := (List.range 128).map fun j => BitVec.ofNat 8 (3 * j + 1),
    code := (List.range 128).map fun j => BitVec.ofNat 8 (3 * j + 1), poison := List.replicate 8 false }
/-- Every kind of load of slot 1, alone and beside slot 0, of every width, the destination v0 among them. -/
theorem witness_LoadsReturn :
    let ready : State → Op → SlotAcc → Bool := fun s o a => decide (Names s o a) && s.loadReady 1 o a &&
      (s.wave? 0 0).any fun w => inMask w.alive a.slot
    let a := acc 1 0x40 keyA
    let c := acc 1 0x40 (scratchKey 0 64)
    every [([(4, 1, true), (4, 2, false), (4, 4, false), (8, 8, false), (0, 16, false)] : List (Reg × Nat × Bool)).all fun x =>
        [[a], [acc 0 0x80 (keyA + 64), a]].all fun l =>
          let o := opOf (.load x.1 x.2.1 x.2.2 false) (some .ld) l
          let s := withOp access o (slotBit 1) (bytesAt keyA)
          ready s o a && !s.poisonedIn a.key x.2.1,
      ([(4, 4), (4, 16), (0, 4)] : List (Reg × Nat)).all fun x =>
        let o := opOf (.scratchLoad x.1 x.2) (some .ld) [c]
        ready (withOp access o (slotBit 1) (bytesAt c.key)) o c,
      ([(4, 4), (4, 16)] : List (Reg × Nat)).all fun x =>
        let o := opOf (.readOnly x.1 x.2) (some .ld) [a]
        let s := withOp access o (slotBit 1) (bytesAt keyA)
        let r := s.onCore 0 fun c => { c with ro := [(roKey 0 0x40, roLine)] }
        ready s o a && ready r o a && !s.poisonedIn a.key x.2 && decide (spaceOf a.key < 8 ∧ a.key % x.2 = 0 ∧
          a.va.toNat % 128 = a.key % 128 ∧ (s.core 0).ro.look (roKey 0 a.va) = none ∧
          (r.core 0).ro.look (roKey 0 a.va) = some roLine ∧ roLine.bytes.length = 128),
      (let o := opOf (.load 4 4 false false) (some .ld) [a]
       let s := { withOp access o (slotBit 1) with poison := [(keyA / 16, ())] }
       ready s o a && s.poisonedIn a.key 4 && (s.wave? 0 0).any fun w => w.alive != slotBit 1)] = true := by decide +kernel
/-- Every width of store, released and not, to memory and to a scratchpad; and to a retired frame. -/
theorem witness_StoresPerform :
    let a := acc 1 0x40 keyA 0x0123456789ABCDEF00FF00FF11223344
    let c := acc 1 0x40 (scratchKey 0 64) 7
    let ready : State → Op → SlotAcc → Bool := fun s o a => decide (Names s o a) && s.storeReady 1 o (slotBit 1) a &&
      !o.groupFirst [a]
    every [([(1, false), (2, true), (4, false), (8, true), (16, false)] : List (Nat × Bool)).all fun x =>
        let o := opOf (.store x.1 x.2) (some .st) [acc 0 0x80 (keyA + 64), a]
        let s := withOp access o (slotBit 1) (bytesAt keyA)
        ready s o a && !(s.retired a.key || s.linkLost a.key) && !isScratch a.key,
      [4, 16].all fun n =>
        let o := opOf (.scratchStore n) (some .st) [c]
        ready (withOp access o (slotBit 1) (bytesAt c.key)) o c && isScratch c.key,
      (let o := opOf (.store 4 false) (some .st) [a]
       let s := (withOp access o (slotBit 1)).onDie 0 fun d => { d with retired := [(0, true)] }
       ready s o a && s.retired a.key)] = true := by decide +kernel
/-- Every atomic, on 4 and 8 bytes, with the destination v0 among them. -/
theorem witness_AtomicsPerform :
    [AtomOp.add, .min true, .min false, .max true, .max false, .and, .or, .xor, .xch, .cas].all (fun f =>
      ([(4, 4), (4, 8), (0, 4)] : List (Reg × Nat)).all fun x =>
        let a := acc 1 0x40 keyA 0xF0000001 0xE4E3E2E1
        let o := opOf (.atomic x.1 x.2 f) (some (if x.1 = 0 then .st else .ld)) [a]
        let s := withOp access o (slotBit 1) (bytesAt keyA)
        decide (Names s o a) && s.storeReady 1 o (slotBit 1) a && !s.poisonedIn a.key x.2 &&
          !(s.retired a.key || s.linkLost a.key) && decide (a.data.toNat < 2 ^ 32 ∧ a.cmp.toNat < 2 ^ 32)) = true := by
  decide +kernel
theorem witness_EmptyRowsTimeOut :
    let a₀ := acc 1 0x40 keyA
    let o₀ := opOf (.load 4 8 false false) (some .ld) [a₀]
    let s₀ := { withOp access o₀ (slotBit 1) with empty := [(keyA / 128, 0)], cycle := 1024 * 7 }
    let a := { a₀ with arrived := some 3 }
    let o := opOf (.load 4 8 false false) (some .ld) [a]
    let s := { withOp access o (slotBit 1) with empty := [(keyA / 128, 0)], cycle := 1027 * 7 }
    let e : LoadFault := { slots := 3, addr := 0x40, reg := 4, count := 2 }
    let u := access fun w => { w with efr := some e }
    every [decide (Names s₀ o₀ a₀ ∧ a₀.arrived = none), s₀.loadClear s₀.about.op o₀ a₀, s₀.rowEmpty a₀.key,
      decide (Names s o a ∧ 3 + o.tmo = s.tick), s.rowEmpty a.key, (s.wave? 0 0).any (fun w => w.efr.isNone),
      [Instr.add 0 6 5 4, .add 0 5 6 6, .waitc 15 15 15 0, .addU 0 5 5 5].all fun i =>
        decide (u.frame? = some (frameOf u) ∧ (frameOf u).TrapsTo u ∧ (frameOf u).loadFault i = some e ∧
            runsOn .core i = true ∧
          e.slots = (frameOf u).act ∧ (frameOf u).act &&& (frameOf u).w.alive = (frameOf u).act)] = true := by decide +kernel
/-- Entries valid, pinned, dirty, of another context and invalid. -/
theorem witness_TagTableInstructions :
    let ents : List TagEnt := [ownTag, { ownTag with pinned := true, dirty := true, va := 0x2000 },
      { ownTag with dirty := true, owner := 3 }, { ownTag with valid := false }]
    let runs : State → Instr → List (Reg × (Byte → Bool)) → (State → Frame → Nat → Option Nat) → Bool := fun s i checks slot =>
      meets s i fun fr => checks.all fr.look.ok && fr.part != 0 && (slotsOf fr.part).all fun t => (slot s fr t).isSome
    every [ents.all fun e =>
        let s := access.onCore 0 fun c => { c with tags := [(0, e), (1, ownTag)] }
        runs s (.tagl 0 6 8) (pairTags 8) (fun _ _ _ => some 0) && runs s (.tagi 0 6 12 10) (pairTags 12 ++ intTags [10])
          (tagSlotOf 10 false) && runs s (.tagt 0 6 10 5) (intTags [10]) (tagSlotOf 10 false) &&
          (e.owner == 3 || runs s (.tage 0 6 10) (intTags [10]) (tagSlotOf 10 true) &&
            runs s (.tagp 0 6 10 5) (intTags [10]) (tagSlotOf 10 true)),
      runs access (.tagl 0 0 0) (pairTags 0) (fun _ _ _ => some 0)] = true := by decide +kernel
/-- fence with and without an earlier access, fence.ro, the counters on both sides of their thresholds. -/
theorem witness_FencesAndCounterWaits :
    let a := acc 0 0x40 keyA
    let busy := { access (fun w => { w with ctr := { w.ctr with st := 2, ld := 14, cp := 63, tl := 1 } }) with nextOp := 2 }
    let met : Nat → Nat → Nat → Nat → Frame → Bool := fun tl cp st ld fr => [(tl, 3), (cp, 2), (st, 1), (ld, 0)].all fun x =>
      x.1 = 15 || (counterOf fr.w x.2).toNat ≤ x.1
    every [meets access (.fence 0) fun _ => decide (access.ops = []),
      [OpKind.store 4 false, .load 4 4 false false, .atomic 4 4 .add].all fun k => meets { busy with ops := [(1, opOf k (some .st) [a])] }
        (.fence 0) fun fr => k.ordered && (decide (2 ≤ modeScope fr.v.mode) || !k.isStore) && !a.done,
      meets access (.fenceRo 0) fun fr => decide fr.Quiet,
      meets busy (.waitc 1 15 2 14) (met 1 15 2 14), meets busy (.waitc 0 15 15 15) fun fr => !met 0 15 15 15 fr,
      meets busy (.waitc 15 14 15 15) fun fr => !met 15 14 15 15 fr,
      [(0 : BitVec 7), 5].all fun k => meets busy (.waitr 0 4 k) fun fr => (intTags [4]).all fr.look.ok &&
        decide ((counterOf fr.w k.toNat).toNat ≤ (fr.v.reg 4 fr.u).toNat),
      meets busy (.waitr 0 7 1) fun fr => (intTags [7]).all fr.look.ok && decide (0 < (counterOf fr.w 1).toNat),
      meets busy (.waitr 0 4 4) fun fr => fr.w.dfr.isNone, meets busy (.ctrr 0 6 4) fun fr => fr.w.dfr.isNone,
      meets busy (.ctrr 0 0 0) fun _ => true,
      meets access (.pref 0 8 0x40) fun fr => (pairTags 8).all fr.look.ok,
      meets access (.pref 0 0 0) fun fr => (pairTags 0).all fr.look.ok] = true := by decide +kernel
/-- bar alone and beside a fragment; baro.arr; baro.wt of an object whose count has come and of one whose has not. -/
theorem witness_Barriers :
    let at' : Nat → Nat → State := fun expected count =>
      { access with mem := sorted (bytesL 0x40 (le 4 expected) ++ bytesL 0x48 (le 4 count) ++ bytesL 0x50 (le 4 count)) }
    let finds : State → Frame → Bool := fun s fr => match s.objectOf fr 8, s.locate none 0 (fr.v.pair 8 fr.u) .load true with
      | .ok k, .ok k' => k == 0x40 && k' == 0x40
      | _, _ => false
    every [meets (access apart) (.bar 0) fun fr => !(fr.g.setWave fr.wid
        (fr.w.setFrag fr.ent { fr.f with st := .waiting .barrier })).barDone,
      meets access (.bar 0) fun fr => decide (fr.Quiet ∧ fr.f.suspended = false ∧ fr.w.split = [(fr.ent, .frag fr.f)] ∧
        fr.w.alive = fr.act ∧ fr.g.waves = [(fr.wid, fr.w)] ∧ access.groups.look fr.gid = some fr.g),
      meets access (.baroArr 0 8) fun fr => (pairTags 8).all fr.look.ok && finds access fr && fr.w.ctr.get .st != 63 &&
        decide ((access.core 0).track.length < 64),
      [(0, 0), (2, 2), (2, 1)].all fun x => [(5 : Reg), 7].all fun b => meets (at' x.1 x.2) (.baroWt 0 6 8 b) fun fr =>
        (pairTags 8 ++ intTags [b]).all fr.look.ok && finds (at' x.1 x.2) fr] = true := by decide +kernel

/-! ## Witnesses: remote accesses, the causeway and the matrix side -/

/-- Pair v8 an offset, v10 the descriptor of member 1, v5 that of another device, v6 a key, v9 the high half. -/
def remote (f : Wave → Wave := id) : State :=
  machine (f (waveWith [(4, 0x20), (5, 1), (6, 0x3FFFF), (8, 0x40), (10, 0x40000001)]
    [(4, 0x11), (5, 0x11), (6, 0x11), (7, 0x11), (8, 0x12), (9, 0x12), (10, 0x11)]))
/-- The group is member 0 of a gang of two. -/
def ganged (s : State) : State := queued (launchOf { header with gm := 1, gid := 5, isles := 0xFFFFFFFF, cores := 0xFFFFFF }) s
/-- Every die of a device has a strait with a route: the die of a member is a free value. -/
def routed (s : State) (fr : Frame) (dev : Nat) : Bool :=
  (List.range 8).all fun die => match chooseStrait fr.g.core dev die (s.egress s.dev.fabGen dev) with
    | some k => ((s.switch k).route s.dev.fabGen dev).getLsbD 9 && !(s.port k).down
    | none => false
/-- The hypotheses of XRule.Sends, with the request slot and the strait the state has. -/
def sendsMet (s : State) (a b : Reg) (desc : Word) (r : XRule) : Bool :=
  meets s r.instr fun fr =>
    let target := s.descTarget fr.g desc
    let base := blockOf desc (fr.v.pair b.toNat fr.u)
    (r.checks ++ intTags [a] ++ pairTags b).all fr.look.ok &&
    (r.ptype != 4 || (if (desc.extractLsb' 26 4).toNat ≤ 2 then intTags [r.d] else anyTags [r.d]).all fr.look.ok) &&
    decide (fr.part ≠ 0 ∧ (slotsOf fr.part).length ≤ 32 ∧
      (∀ t ∈ slotsOf fr.part, fr.v.reg a.toNat t = desc ∧ InReach s fr r.ptype r.bytes desc (fr.v.pair b.toNat t) ∧
        blockOf desc (fr.v.pair b.toNat t) = base) ∧
      fr.w.ctr.xr ≠ 63 ∧ (s.core fr.g.core).waitQ = [] ∧ s.ops = []) &&
    ((s.core fr.g.core).freeSlot (target.1 % 512)).isSome && routed s fr (target.1 % 512)
/-- Those of XRule.Otherwise where every slot's address is misaligned. -/
def misalignedMet (s : State) (a b : Reg) (r : XRule) : Bool :=
  meets s r.instr fun fr => (r.checks ++ intTags [a] ++ pairTags b).all fr.look.ok &&
    (r.ptype != 4 || (anyTags [r.d]).all fr.look.ok) && decide (fr.part = fr.act ∧ fr.TrapsTo s ∧
        ∀ t ∈ slotsOf fr.act, (fr.v.pair b.toNat t).toNat % r.bytes ≠ 0 ∧
      (r.ptype = 4 → 2 < ((fr.v.reg a.toNat t).extractLsb' 26 4).toNat))
/-- To a device and to a member; where no slot participates; where the offsets are odd. -/
theorem witness_RemoteAccessesSend : every [
    (xRules 0 4 5 8 ++ xRules 3 0 5 8).all (sendsMet remote 5 8 1),
    (xRules 0 4 10 8).all (sendsMet (ganged remote) 10 8 0x40000001),
    (xRules 0 4 5 8).all fun r => meets (remote fun w => { w with mode := 0x44002007 }) r.instr fun fr =>
      (r.checks ++ intTags [5] ++ pairTags 8).all fr.look.ok && decide (fr.part = 0),
    (xRules 0 4 5 8).all (misalignedMet (remote fun w =>
      { w with regs := (w.regs.put 5 [(0, 0x0C000101), (1, 0x0C000101)]).put 8 [(0, 0x41), (1, 0x43)] }) 5 8)] = true := by
  decide +kernel

/-- A request of device 9 with one entry. -/
def packetOf (ptype : BitVec 4) : Packet :=
  { ptype := ptype, xop := 0, gen := false, kind := false, scope := if ptype.toNat < 4 then 0 else 4, ctx := 0, sdev := 9, score := 3, rslot := 2, desc := 0,
    tdev := 0, tdie := 0, base := 0, key := 0,
    entries := [{ off := 0x40, data := 0x112233445566778899AABBCCE4E3E2E1, poison := false }], refused := 0, cause := 0, tag := 0,
    strait := 7, zeros := true }
theorem witness_RemoteRequestsAndResponses_requests :
    ([0, 1, 2, 3, 4, 5] : List (BitVec 4)).all (fun pt =>
      let p := packetOf pt
      let s := { (remote.onDie 0 fun d => { d with rdev := [(0, 512)] }) with
        about := { pkt := some p }, mem := bytesAt keyA }
      p.entries.all fun e => match s.xPlace p e with
        | .ok key =>
          let n := if p.ptype = 1 ∨ p.ptype = 3 then 16 else 4
          decide (p.tdev.toNat = s.dev.devnum ∧ p.sdev.toNat ≠ s.dev.devnum ∧ p.ptype.toNat ≤ 5 ∧ p.kind = false ∧
            packetForm p = true ∧ p.entries = [e] ∧ (s.port p.strait.toNat).down = false ∧ s.xPromoting p key = false ∧
            s.accessHeld key = false ∧ isScratch key = false ∧ s.poisonedIn key n = false ∧
            (s.retired key || s.linkLost key) = false ∧ (s.die (vaDie p.base)).smp.ctl.getLsbD 0 = false ∧
            vaDie (BitVec.ofNat 64 ((p.base + e.off.setWidth 64).toNat / 128 * 128)) = vaDie p.base)
        | .error _ => false) = true := by decide +kernel
/-- The packet an X instruction sent, returned as a response without refusals. -/
def answered (t : State) : Option Packet :=
  t.net.head?.map fun p => { p with ptype := 8, entries := p.entries.map fun e => { e with data := 0xABCD000011112222 } }
theorem witness_RemoteRequestsAndResponses_responses :
    (xRules 0 4 5 8).all (fun r =>
      let t := after r.instr remote
      let s := { t with about := { pkt := answered t } }
      match answered t with
      | some p =>
        match (s.core p.score.toNat).reqs.find? fun r => r.dev = p.tdev.toNat && r.slot = p.rslot.toNat &&
            r.strait != 32 with
        | some q =>
          match s.ops.look q.op with
          | some o =>
            match o.kind, s.wave? o.gid o.wave with
            | .remote _ n [part], some w =>
              decide (p.sdev.toNat = s.dev.devnum ∧ p.tdev.toNat ≠ s.dev.devnum ∧ p.ptype = 8 ∧ p.refused = 0 ∧
                  q.pkt = 0 ∧
                (s.port p.strait.toNat).down = false ∧
                part.slots.length = p.entries.length ∧ part.pkt.entries.length = p.entries.length ∧ part.slots.Nodup ∧
                (∀ t ∈ part.slots, t < 64) ∧ n ∈ [0, 1, 4] ∧ maskOf part.slots &&& w.alive = maskOf part.slots) &&
                p.entries.all fun e => !e.poison
            | _, _ => false
          | none => false
        | none => false
      | none => false) = true := by decide +kernel
/-- The half of an exchange by key from a member on another device, with 9 in some slots. -/
def partner (key : BitVec 16) (slots : List Nat) : Packet :=
  { packetOf 6 with kind := true, desc := 0x40000000, key := key, entries := slots.map fun t => { off := BitVec.ofNat 16 t, data := 9, poison := false } }
theorem witness_CausewayInstructions : every [
    [Instr.cwdet 0, .cwleave 0].all fun i => meets remote i (fun fr => decide (remote.gangSize fr.g = 1 ∧
        fr.TrapsTo remote)) &&
      meets (ganged remote) i fun fr => decide ((ganged remote).gangSize fr.g ≠ 1 ∧ (ganged remote).ops = [] ∧ fr.Quiet ∧
        fr.g.held = false ∧ fr.g.attached = true ∧ fr.g.present = true),
    meets remote (.cwxch 0 4 10 6) fun fr => (intTags [10]).all fr.look.ok &&
      decide (remote.gangSize fr.g = 1 ∧ fr.TrapsTo remote),
    [(4 : Reg), 0].all fun d => meets (ganged remote) (.cwxch 0 d 10 6) fun fr =>
      let s := ganged remote
      let x := fr.v.reg 10 fr.u
      let dev := (s.descTarget fr.g x).1 % 512
      (intTags [10]).all fr.look.ok && decide ((∀ t ∈ slotsOf fr.act, fr.v.reg 10 t = x) ∧ x.extractLsb' 30 2 = 1 ∧
        x.extractLsb' 16 14 = 0 ∧ (x.extractLsb' 0 16).toNat < s.gangSize fr.g ∧
            (x.extractLsb' 0 16).toNat ≠ fr.g.member ∧
        fr.g.attached = true ∧ (x.extractLsb' 0 16).toNat ∉ fr.g.gone ∧ s.ops = [] ∧ (s.core fr.g.core).pairs = []) &&
      (let q : Packet := partner ((fr.v.reg 6 fr.u).extractLsb' 0 16) (slotsOf fr.act)
       let s := queued (launchOf { header with gm := 1, gid := 5, gdev := 0, gstr := 9 }) (remote.onCore 0 fun c => { c with pairs := [q] })
       decide (q.sdev.toNat ≠ s.dev.devnum ∧ s.groups.look fr.gid = some fr.g ∧ fr.act &&& fr.w.alive = fr.act ∧
         s.halfSender q fr.g = (x.extractLsb' 0 16).toNat) && s.isTarget q fr.g) &&
      ((s.core fr.g.core).freeSlot dev).isSome && routed s fr dev] = true := by decide +kernel

/-- The matrix side of core 0. -/
def withMatrix (m : Matrix) (s : State) : State := s.onCore 0 fun c => { c with mat := m }
/-- A slot of 32 rows of I8, or of BF16. -/
def slotI8 : WSlot :=
  { tag := 0x30, scale := 1, poison := false, enc := 0, k := 32, payload := (List.range 2048).map fun j => BitVec.ofNat 8 (7 * j + 3) }
def slotF : WSlot := { slotI8 with tag := 0x21 }
/-- Group 0 holds it, with a slot in number 1, a bin of histogram 0 and a header of an image at 0x40. -/
def tileSide (w : WSlot) (mode : Word) : State :=
  { withMatrix { Matrix.empty with holder := some 0, slots := [(1, w)], hists := [(0, [(1, 5)])] }
      (machine { waveWith [(4, 0x100), (5, 0x203), (8, 0x40)] [(4, 0x11), (5, 0x11), (8, 0x12), (9, 0x12)] with mode := mode }) with
    mem := bytesL 0x40 [0x30, 2, 0, 0, 32, 0, 0, 0, 0, 8, 0, 0, 0, 0, 0, 0] }
theorem witness_TileInstructions :
    let s := tileSide { slotI8 with payload := [] } 0x44003000
    let va : Frame → DWord := fun fr => fr.v.pair 8 fr.u
    let free : Frame → Nat → AccKind → Bool := fun fr n k => (s.rangeCause (some fr.g.core) fr.g.ctx (va fr) n k fr.priv).isNone
    let rows : State → Frame → Nat → Bool := fun s fr n => (intTags [4]).all fr.look.ok && (slotsOf fr.part).all fun t =>
      (s.scratch fr.g (fr.v.reg 4 t) 16 n true).isOk && scratchCore fr.g.core (fr.v.reg 4 t) == some fr.g.core
    every [
      meets s (.wbld 0 0 8) fun fr =>
        let keys := s.unitKeys (some fr.g.core) fr.g.ctx (va fr) 32 16 .load fr.priv
        decide (TilesFree s fr [0]) && (pairTags 8).all fr.look.ok && decide ((va fr).toNat % 16 = 0) &&
            free fr 32 .load &&
          s.cellsFree keys && free fr (32 + min (numOf (((s.readUnits keys).drop 8).take 4)) 32768) .load,
      meets s (.wbz 0 3) fun fr => decide (TilesFree s fr [3]),
      ([(slotI8, 0x44003000), (slotF, 0x44002100), (slotF, 0x44002000)] : List (WSlot × Word)).all fun x =>
        let s := tileSide { x.1 with payload := [] } x.2
        meets s (.mma 0 2 4 1) (fun fr =>
          let w := (s.core fr.g.core).mat.slots.lookD 1 WSlot.empty
          let fa := modeEtype fr.v.mode
          decide (TilesFree s fr [6, 1] ∧ fr.part ≠ 0 ∧ ((matInt fa = true ∧ matInt w.tag = true) ∨
            ((fa = 0x20 ∨ matFloat fa = true) ∧ matFloat w.tag = true))) &&
            rows s fr (w.k * ((elemOf fa).map Elem.bits).getD 8 / 8)) &&
        meets s (.tdrain 0 2 4) fun fr => decide (TilesFree s fr [6] ∧ fr.part ≠ 0) &&
          match elemOf (modeEtype fr.v.mode) with
          | some e => rows s fr (8 * e.bits)
          | none => false,
      meets s (.accz 0 3) fun fr => decide (TilesFree s fr [7] ∧ fr.part ≠ 0),
      meets s (.accsv 0 3 8) fun fr => decide (TilesFree s fr [7] ∧ (va fr).toNat % 64 = 0) &&
          (pairTags 8).all fr.look.ok &&
        free fr 41024 .store,
      meets s (.accrs 0 3 8) fun fr => decide (TilesFree s fr [7] ∧ (va fr).toNat % 64 = 0) &&
          (pairTags 8).all fr.look.ok &&
        free fr 41024 .load,
      [(0 : BitVec 7), 1, 2].all fun sel => meets s (.tscale 0 1 5 sel) fun fr =>
        decide (TilesFree s fr [if sel = 0 then 1 else 5]),
      [Instr.histrd 0 4 0, .histrd 0 0 3, .histz 0 0].all fun i => meets s i fun fr =>
        decide ((s.core fr.g.core).mat.holder = some fr.gid),
      [Instr.wbld 0 3 4, .wbz 0 3, .mma 0 3 4 3, .accz 0 3, .accsv 0 3 4, .accrs 0 3 4, .tdrain 0 3 4, .tscale 0 3 4 0,
        .histrd 0 4 3, .histz 0 3].all fun i => meets (withMatrix Matrix.empty s) i fun fr =>
          decide (fr.TrapsTo (withMatrix Matrix.empty s) ∧ Matrix.empty.holder ≠ some fr.gid)] = true := by decide +kernel

/-- Entry 1 of the matrix queue, for operation 1. -/
def entryOf (w : MWork) : MEntry := { gid := 0, wave := 0, ctx := 0, op := 1, work := w }
/-- It runs on a matrix side with a slot in number 1 and an accumulator with an element in number 2. -/
def running (e : MEntry) : State :=
  let s := tileSide slotI8 0x44003000
  { withMatrix { (s.core 0).mat with queue := [e, entryOf (.wbz 2)], accs := [(2, { Accum.zero with elems := [(65, 0x3FFF8000000000000000)] })] } s with
    ops := [(1, opOf .tile (some .tl) [])], nextOp := 2, about := { core := 0 } }
theorem witness_MatrixEntriesComplete_queue (w : MWork) :
    RunsEntry (running (entryOf w)) (entryOf w) [entryOf (.wbz 2)] := ⟨rfl, rfl, 0, rfl, rfl⟩
theorem witness_MatrixEntriesComplete :
    let s := running (entryOf (.wbz 3))
    let keys := (List.range 2564).map fun j => 0x1000 + 16 * j
    every [s.cellsFree [0x80, 0x90], decide ((slotIn s 1).poison = false ∧ (accIn s 2).poison = false),
      ((slotIn s 1).elements).isSome, s.cellsFree keys, keys.headD 0 == 0x1000,
      keys.all fun k => !isScratch k && !(s.retired k || s.linkLost k), isScratch (scratchKey 0 0x100),
      (elemOf 0x20).any fun f => f.bits == 32, (s.wave? 0 0).isSome] = true := by decide +kernel

/-! ## Witnesses: copies, pages, the engines and the walkers -/

/-- Pair v4 a destination, v6 a source, v8 a length, v12 to v15 the words of a copy of rows. -/
def copier (n rows : Word) (f : Wave → Wave := id) : State :=
  machine (f (waveWith ([(4, 0x1000), (6, 0x2000), (8, n), (12, 32), (13, rows), (14, 64), (15, 128)].filter (·.2 != 0))
    [(1, 0x11), (2, 0x11), (3, 0x11), (4, 0x12), (5, 0x12), (6, 0x12), (7, 0x12), (8, 0x11), (12, 0x11), (13, 0x11),
      (14, 0x11), (15, 0x11)]))
/-- A copy of m units is outstanding. -/
def copied (k : OpKind) : State :=
  withOp (copier 0 0) (opOf k (some .cp) []) 0 (bytesL 0x1000 (le 64 (2 ^ 500 - 7)) ++ bytesL 0x2000 (le 64 (2 ^ 511 - 9)))
/-- One end of a copy. -/
def endOf (m va key : Nat) : CopyEnd := { scratch := false, units := (List.range m).map fun j => (va + 16 * j, key + 32 * j) }
/-- A copy has nothing that stops it. -/
def copyFree (s : State) (fr : Frame) (bases : List DWord) (ends : List (DWord × Nat × AccKind)) : Bool :=
  bases.all (·.toNat % 16 == 0) && ends.all (fun e => (s.copyCause fr e.1 e.2.1 e.2.2).isNone) &&
    decide (fr.w.ctr.cp ≠ 63 ∧ s.releaseAt fr.gid fr.wid (BitVec.allOnes 64) 4 = some s)
theorem witness_Copies : every [
    ([0, 8, 16, 48] : List Word).all fun n =>
      let s := copier n 2 lone
      meets s (.cpy 0 4 6 8) fun fr =>
        let ends := [(fr.v.pair 4 fr.u, n.toNat, AccKind.store), (fr.v.pair 6 fr.u, n.toNat, AccKind.load)]
        (pairTags 4 ++ pairTags 6 ++ intTags [8]).all fr.look.ok && decide (fr.act = slotBit fr.u ∧ fr.TrapsTo s) &&
          copyFree s fr [fr.v.pair 4 fr.u, fr.v.pair 6 fr.u] ends,
    meets (copier 48 2) (.cpfill 0 4 8 8) fun fr => (pairTags 4 ++ intTags [8]).all fr.look.ok &&
      copyFree (copier 48 2) fr [fr.v.pair 4 fr.u] [(fr.v.pair 4 fr.u, 48, .store)],
    ([(2, 12), (65535, 12), (0, 12), (2, 0)] : List (Word × Reg)).all fun x =>
      let s := copier 0 x.1
      meets s (.cpy2d 0 4 6 x.2) fun fr =>
        let word : Nat → Nat := fun j => if x.2 = 0 then 0 else (fr.v.reg (x.2.toNat + j) fr.u).toNat
        (pairTags 4 ++ pairTags 6 ++ intTags [x.2, x.2 + 1, x.2 + 2, x.2 + 3]).all fr.look.ok &&
          decide (word 1 ≤ 65535 ∧ word 0 % 16 = 0 ∧ word 2 % 16 = 0 ∧ word 3 % 16 = 0) &&
          [(4, AccKind.store), (6, AccKind.load)].all fun y => (s.copyCause fr (fr.v.pair y.1 fr.u) 0 y.2).isNone,
    (let s := copier 0 2
     meets s (.cpy2d 0 4 6 12) fun fr =>
       let rows : Nat → Nat → AccKind → List (DWord × Nat × AccKind) := fun a pitch k =>
         (List.range 2).map fun r => (fr.v.pair a fr.u + BitVec.ofNat 64 (r * pitch), 32, k)
       copyFree s fr [fr.v.pair 4 fr.u, fr.v.pair 6 fr.u] (rows 4 128 .store ++ rows 6 64 .load)),
    [OpKind.copy 2 (endOf 4 0x2000 0x2000) (endOf 4 0x1000 0x1000), .fill 0xA1B2C3D4 (endOf 4 0x1000 0x1000)].all fun k =>
      let s := copied k
      let src := endOf 4 0x2000 0x2000
      let dst := endOf 4 0x1000 0x1000
      decide (s.ops.look s.about.op = some (opOf k (some .cp) []) ∧ (dst.units.map (·.2)).Nodup ∧
        (∀ x ∈ dst.units, x.2 % 16 = 0 ∧ (s.retired x.2 || s.linkLost x.2) = false) ∧ (∀ x ∈ src.units, x.2 % 16 = 0) ∧
        (∀ x ∈ src.units, ∀ y ∈ dst.units, x.2 ≠ y.2) ∧ ∀ x ∈ src.units, s.poisoned x.2 = false) &&
        (s.wave? 0 0).isSome && s.cellsFree ((src.units ++ dst.units).map (·.2))] = true := by decide +kernel

/-- The tables of context 0 on die 0, with some leaves. -/
def withTables (leaves : List (Nat × Nat)) (s : State) : State :=
  let at' : Nat → Nat → Tab Byte := fun pa x => bytesL (hbmKey 0 pa) (le 8 x)
  { (s.onDie 0 fun d => { d with troot := [(0, 0x100001)] }) with
    mem := sorted (s.mem ++ at' 0x100000 0x101001 ++ at' 0x101000 0x102001 ++ leaves.flatMap fun l => at' (0x102000 + 8 * l.1) l.2) }
/-- A shape record of a region. -/
def shape (rows cols pitch va bytes layout elem : Nat) : List Byte :=
  le 4 layout ++ le 4 elem ++ le 4 rows ++ le 4 cols ++ le 4 pitch ++ le 4 0 ++ le 8 va ++ le 8 bytes ++ le 24 0
/-- Three records: one that names a region of two rows, one with no rows, a malformed one. -/
def shapes : List (List Byte) :=
  [shape 2 8 16 0 65536 0 0x100, shape 0 8 16 0 65536 0 0x100, shape 2 8 16 0x10 65536 0 0x100]
theorem witness_LayoutCopies : every [
    (shapes.take 2).all fun h =>
      let s := { copier 0 0 with mem := bytesL 0x1000 h }
      meets s (.cprt 0 4 6) fun fr =>
        let va := fr.v.pair 4 fr.u
        let free : DWord → Nat → AccKind → Bool := fun x n k => (s.rangeCause (some fr.g.core) fr.g.ctx x n k fr.priv).isNone
        s.bytes 0x1000 64 == h && (pairTags 4 ++ pairTags 6).all fr.look.ok && decide (va.toNat % 64 = 0) &&
          (s.copyCause fr va 64 .store).isNone && ((s.copyUnits fr va 64 .store).map (·.2)).headD 0 == 0x1000 &&
              s.cellsFree [0x1000] &&
          ((List.range (shapeRows h)).all fun r =>
            let x := fr.v.pair 6 fr.u + BitVec.ofNat 64 (r * shapeWord h 0x10)
            (s.copyCause fr x (shapeCols h * shapeElem h) .load).isNone) &&
          free (BitVec.ofNat 64 (shapeDouble h 0x18)) (shapeDouble h 0x20) .store && fr.w.ctr.cp != 63 &&
          decide (s.releaseAt fr.gid fr.wid (BitVec.allOnes 64) 4 = some s),
    [0, 1, 2].all fun j =>
      let h := shapes.getD j []
      let src := (List.range 2).map fun r => (8 * r, 0x3000 + 128 * r)
      let s := withTables [(0, 0x200093)] (withOp (copier 0 0) (opOf (.layout h 0x1000 0x2000 src) (some .cp) []) 0)
      let s := if j = 1 then s.onDie 0 fun d => { d with regions := [shapeRegion 0 h []] } else s
      let va := BitVec.ofNat 64 (shapeDouble h 0x18)
      (shapeBad h == decide (j = 2)) && decide (s.ops.look s.about.op = some (opOf (.layout h 0x1000 0x2000 src) (some .cp) []) ∧
          (s.retired 0x1030 || s.linkLost 0x1030) = false ∧ vaDie va = 0) && s.cellsFree (0x1000 :: src.map (·.2)) &&
        !s.regionInUse 0 va && match j with
        | 0 => decide (shapeRows h ≠ 0 ∧ shapeKind h = 0 ∧ shapeNeeds h ≤ shapeDouble h 0x20 ∧ s.registered 0 0 = [] ∧
            (s.die 0).registrations < 8192) && match s.pagesAt 0 0 va (shapeDouble h 0x20) with
              | .ok _ => true
              | _ => false
        | 1 => decide (shapeRows h = 0) && (s.die 0).regions.any fun r => r.ctx = 0 && r.va = va &&
            r.bytes = shapeDouble h 0x20
        | _ => true] = true := by decide +kernel

/-- A pool of free frames from 64 on. -/
def pool (head tail : Nat) : Tab Byte :=
  bytesL (hbmKey 0 0x140000) (le 8 0x150000 ++ le 4 4 ++ le 4 0 ++ le 4 head ++ le 4 tail ++ le 40 0) ++
    bytesL (hbmKey 0 0x150000) ((List.range 16).flatMap fun j => le 4 (j + 64))
/-- A supervisor with an address in pair v4 and permissions or a size in v6; page 0 is mapped, page 1 not, and there is a
pool. -/
def mapper (tail : Nat) (x : Word) : State :=
  let s := machine (asSupervisor (waveWith [(4, 0x10000), (6, x)] [(4, 0x12), (5, 0x12), (6, 0x11)]))
  withTables [(0, 0x200093)]
    { s with mem := pool 0 tail, dies := s.dies.map fun d => (d.1, { d.2 with tpool := [(0, 0x140001)] }) }
theorem witness_PagesMapAndInvalidate : every [
    [(2, 1), (2, 8), (0, 1), (16, 5)].all fun x => [(2 : Reg), 0].all fun d => meets (mapper x.1 x.2) (.pgmap 0 d 4 6) fun fr =>
      (pairTags 4 ++ intTags [6]).all fr.look.ok && decide ((mapper x.1 x.2).releaseAt fr.gid fr.wid fr.act 4 = some (mapper x.1 x.2)),
    (let s := mapper 2 1
     let none' := s.onDie 0 fun d => { d with tpool := [] }
     let off := s.onDie 0 fun d => { d with troot := [] }
     every [vaDevice 0 == s.dev.devnum, decide (vaDie 0 < 4), (match s.walk 0 0 (vaOffset 0) with
        | .leaf _ => true
        | _ => false), (match s.walk 0 0 (vaOffset 0x10000) with
        | .missing level _ => level != 0
        | _ => false), (match off.walk 0 0 (vaOffset 0x10000) with
        | .missing level _ => level == 0
        | _ => false), (none'.pool 0 0).isNone, (s.pool 0 0).any fun p => (s.takeFrames 0 p 2 p.head 1).isSome,
        ((mapper 0 1).pool 0 0).any fun p => ((mapper 0 1).takeFrames 0 p 0 p.head 1).isNone]),
    ([0, 1, 2, 3, 0xFFFFFFFF] : List Word).all fun k => [false, true].all fun registered =>
      let s := if registered then (mapper 2 k).onDie 0 fun d => { d with regions := [shapeRegion 0 (shape 2 8 16 0x10000 65536 0 0x100) []] }
        else mapper 2 k
      meets s (.pginv 0 2 4 6) fun fr =>
        let va := fr.v.pair 4 fr.u
        let bits := if k = 0 then 16 else if k = 1 then 21 else 48
        let lo := va.toNat / 2 ^ bits * 2 ^ bits
        (pairTags 4 ++ intTags [6]).all fr.look.ok && decide (s.releaseAt fr.gid fr.wid (BitVec.allOnes 64) 4 = some s ∧ s.ops = [] ∧
          vaDevice va = s.dev.devnum ∧ vaDie va < 4 ∧ va.extractLsb' 48 4 = 0) &&
          (((s.pinned (vaDie va) fr.g.ctx).any fun x => x.1 < lo + 2 ^ bits &&
              lo < x.1 + x.2) == registered)] = true := by
  decide +kernel

/-- An idle engine. -/
def idle : Engine := { store := [], active := 0, queue := [], prog := none, busywr := false, code := 0x21, endPc := 9 }
/-- A region of two pages. -/
def reg0 : Region :=
  { ctx := 0, va := 0x100000, bytes := 131072, kind := 1, layout := 7, stack := 0, pch := 0, sid := 0, rowBase := 0,
    frames := [1, 0x10001] }
theorem witness_MicroprogramsAndBankLaunches :
    let progs := bankProg [] [] 0x2000
    let at' : Engine → Word → Word → State := fun e x y =>
      (machine (lone (asSupervisor (waveWith ([(4, 0x1000), (6, x), (7, y)].filter (·.2 != 0)) [(4, 0x12), (5, 0x12), (6, 0x11), (7, 0x11)])))).setEngine 0 e
    every [
      ([(idle, 0x00500800), (idle, 0x000FFC00), (engineOf progs, 0x00500C00), (engineOf progs, 0x00500800)] :
          List (Engine × Word)).all fun x =>
        let s := at' x.1 x.2 0
        meets s (.nmld 0 6 4) fun fr =>
          let w := fr.v.reg 6 fr.u
          let n := (w.extractLsb' 11 9).toNat + 1
          (intTags [6] ++ pairTags 4).all fr.look.ok && decide (w.extractLsb' 29 3 = 0 ∧
              (w.extractLsb' 20 9).toNat + n ≤ 512 ∧
            (fr.v.pair 4 fr.u).toNat % 4 = 0 ∧ fr.w.ctr.nm ≠ 63 ∧ s.releaseAt fr.gid fr.wid (slotBit fr.u) 4 = some s ∧
            fr.act = slotBit fr.u ∧ fr.TrapsTo s) && (s.rangeCause (some fr.g.core) fr.g.ctx (fr.v.pair 4 fr.u) (4 * n) .load fr.priv).isNone,
      decide ((engineOf progs).running = true ∧ idle.running = false ∧ (engineOf progs).active = 0),
      ([(idle, 0x400), (engineOf progs, 0x400), (idle, 0)] : List (Engine × Word)).all fun x =>
        let s := at' x.1 x.2 0
        meets s (.nmsw 0 3 6) fun fr => (intTags [6]).all fr.look.ok &&
          decide ((fr.v.reg 6 fr.u).extractLsb' 11 21 = 0 ∧ s.loading 0 s.nextOp = false),
      ([0, 1] : List Word).all fun b => meets (at' (engineOf progs) 0 b) (.nmst 0 0 6 7) fun fr => (intTags [6, 7]).all fr.look.ok,
      [(0, 0), (1, 1)].all fun x =>
        let h := le 4 0 ++ le 4 3 ++ le 4 7 ++ le 4 0x2000 ++ le 8 0x2000 ++ le 8 0x3000 ++ le 4 x.1 ++ le 4 x.2 ++ le 8 0x4000 ++
          le 8 0x5000 ++ le 4 2 ++ le 4 0
        let shp := le 4 7 ++ le 4 1 ++ le 4 2 ++ le 4 8 ++ le 4 16 ++ le 4 0 ++ le 8 0x100000 ++ le 8 131072 ++ le 24 0
        let s := { (at' idle 0 0).onDie 0 fun d => { d with regions := [reg0] } with
          mem := sorted (bytesL 0x1000 h ++ bytesL 0x2000 shp) }
        meets s (.nmx 0 4) fun fr =>
          let va := fr.v.pair 4 fr.u
          s.recordBytes fr va 64 == h && (pairTags 4).all fr.look.ok && (s.recordCause fr va 64 64 .load).isNone &&
              !launchRecBad h &&
            (s.recordCause fr 0x2000 64 64 .load).isNone && s.launchRegion fr.g.ctx 0 (s.recordBytes fr 0x2000 64) == some reg0 &&
            (s.launchBlocks fr h).isNone && decide ((s.engine 0).queue.length < 16 ∧ fr.w.ctr.nm ≠ 63 ∧
              s.releaseAt fr.gid fr.wid (slotBit fr.u) 4 = some s)] = true := by decide +kernel

/-- The turn of a program on engine 0 whose region is registered. -/
def onRegion (p : BankProg) : State :=
  let s := onBank p
  { s.onDie 0 fun d => { d with regions := [reg0] } with
    ops := [(1, opOf (.bank 0) (some .nm) [])], nextOp := 2, empty := (List.range 8).map fun j => (0x4000 / 128 + j, 0) }
/-- A program with a row number or a column in v1 of lane 0. -/
def lanes (x : Word) : BankProg := bankProg ([(1, x), (2, 0x12345)].filter (·.2 != 0)) [] 0x2000
theorem witness_BankInstructions :
    let p := lanes 5
    let deep := { p with masks := List.replicate 4 (0xFFFF, 0xF0F3) }
    every [
      [p, deep, { p with mask := 0 }, { p with allBank := true, row := some 3 }].all fun p =>
        [Instr.ball, .bsgl 0 1, .brow 0 1, .ifm 0 1, .elm, .enm, .bcolr 0 3 1, .bcolr 0 0 1, .bcolw 0 2 1, .bres 0 2 1].all fun i =>
          decide (BankStarts (onRegion p) 0 p i),
      decide ((onRegion p).progRegion 0 p = some reg0),
      [(7, true), (8, false)].all fun x => decide (BankStarts (onRegion (lanes x.1)) 0 (lanes x.1) (.brow 0 1)) &&
        (lanesOf (lanes x.1).mask).head? == some 0 && decide ((((lanes x.1).reg 1 0).toNat < reg0.bytes / 16384) = x.2),
      [0, 31, 32].all fun c => [none, some 3].all fun row => [false, true].all fun all =>
        let p := { lanes c with row := row, allBank := all }
        let s := onRegion p
        let key : Nat → Nat := fun t => BankProg.column reg0 (t / 8) 3 c.toNat + 4 * (t % 8)
        [Instr.bcolr 0 3 1, .bcolw 0 2 1].all fun i => decide (BankStarts s 0 p i ∧ s.progRegion 0 p = some reg0 ∧
            s.voided p.launch.op = false) &&
          (List.range 128).all fun t => !s.poisoned (key t) && !(s.retired (key t) || s.linkLost (key t)),
      [0, 1, 2].all fun c =>
        let s := onRegion (lanes c)
        let keys := ((lanes c).launch.rowKeys.drop (4 * c.toNat)).take 4
        decide (BankStarts s 0 (lanes c) (.bres 0 2 1) ∧ keys.Nodup ∧ s.voided (lanes c).launch.op = false) &&
          (s.ops.all fun o => o.2.accs.all fun x => x.arrived.isNone) && (decide (c < 2) == !keys.isEmpty) &&
          keys.all fun k => s.rowEmpty k && k % 128 == 0 && !(s.retired k || s.linkLost k)] = true := by decide +kernel

/-- A loop of a bank program. -/
def loopOf (start stop : Nat) (count : Word) : BankLoop := { start := start, stop := stop, count := count }
/-- Nothing, or a loop at its end or not, with one count left or more, or four loops; a lane or none; a word below 512 or
the last one. -/
theorem witness_EngineControlFlow_banks :
    ([[], [loopOf 3 7 2], [loopOf 3 7 1], [loopOf 3 9 5], List.replicate 4 (loopOf 1 9 1)] : List (List BankLoop)).all (fun ls =>
      ([(7, 0xF0F3), (0x3FFFFFFF, 0xF0F3), (7, 0)] : List (Nat × BitVec 128)).all fun x =>
        let p := { lanes 5 with loops := ls, pc := x.1, mask := x.2 }
        let s := onBank p
        ([Instr.nop 0, .jmp 2, .jmp 0x8000, .loop 1 2, .loop 3 2, .loop 1 0, .loop 1 0x8000, .exit 0].all fun i =>
          decide (BankStarts s 0 p i)) && decide (p.launch.object = none ∧
            (s.retired (p.launch.recKey + 0x3C) || s.linkLost (p.launch.recKey + 0x3C)) = false) &&
                (s.engine 0).prog == some p) = true := by
  decide +kernel
theorem witness_EngineControlFlow_walkers :
    ([(0x24, 0), (0xFFFFFFFC, 0), (0x25, 1), (0xFFFFFFFF, 1)] : List (Word × Nat)).all (fun x =>
      let regs := [(1, 7), (4, x.1)]
      let tags := [(4, 0x12), (5, 0x12)]
      let s := onWalk regs tags 0x2000
      let w := walkerWith regs tags
      ([Instr.nop 0, .br 1 3, .br 2 0x8000, .br 0 0, .jmp 0xFFFF, .call 8 1, .call 0 1, .jmpr 0 4, .ret 0 4, .exit 0].all fun i =>
        decide (WalkerStarts s 0 w (walkCommand 0x2000) i)) && (pairTags 4).all (w.look 0x2000).ok &&
        if x.2 = 0 then decide (w.pair 4 = ((x.1.extractLsb' 2 30) ++ 0#2).setWidth 64)
        else decide ((w.pair 4).toNat % 4 ≠ 0 ∧ (w.pair 4).toNat < 2 ^ 32)) = true := by decide +kernel
theorem witness_EngineControlFlow_foreign : every [
    [Instr.ld 0 4 8 0, .mma 0 0 4 0, .call 4 1].all fun i => decide ((opcode i).isSome = true ∧ runsOn .bank i = false ∧
      (onBank (lanes 0)).cur = .bank 0) && ((onBank (lanes 0)).engine 0).prog.isSome,
    [Instr.ball, .exit 0, .mma 0 0 4 0].all fun i => (opcode i).isSome && (i == .exit 0 || !runsOn .walker i),
    [Instr.ball, .dist 0 4 5, .ferry 0 4, .bres 0 2 1].all fun i => decide ((opcode i).isSome = true ∧
      flow.frame? = some (frameOf flow) ∧ (frameOf flow).TrapsTo flow ∧ (frameOf flow).loadFault i = none ∧
      runsOn .core i = false ∧ isUniform i = false)] = true := by decide +kernel

/-- An index of four slots of eight bytes on die 0, with rows of neighbours. -/
def indexWith (degree : Nat) : Index :=
  { ctx := 0, va := 0x5000, descKey := 0x5000, etype := 0x30, kind := 0, dim := 8, degree := degree, home := 0, slots := 4,
    vectors := 0x10000, vecFrames := [1], metaVa := 0x20000, metaFrames := [0x10001], adj := 0x30000, adjFrames := [0x20001],
    published := 5, floor := 5 }
/-- A walker on it with slot t in v1, a number of a neighbour in v2 and a distance in v3. -/
def walkerAt (t j : Word) : Walker :=
  walkerWith ([(1, t), (2, j), (3, 0x40000000)].filter (·.2 != 0)) [(1, 0x11), (2, 0x11), (3, 0x20)]
/-- Its state. -/
def walkingAt (t j : Word) (x : Index) : State :=
  { onWalk (walkerAt t j).regs (walkerAt t j).tags 0x2000 with
    dies := [(0, { Die.reset with tlb := [(0, page)], indexes := [x] })],
    mem := sorted ((List.range 4).flatMap fun j => bytesL (arrayKey 0 0 [0x20001] (16 * j)) (le 4 j ++ le 4 11 ++ le 4 12 ++ le 4 13)) }
theorem witness_WalkerInstructions : every [
    ([0, 1, 3, 4, 0xFFFFFFFF] : List Word).all fun t => ([0, 1, 2, 3] : List Word).all fun j => [0, 3].all fun degree =>
      let x := indexWith degree
      let s := walkingAt t j x
      let w := walkerAt t j
      let c := walkCommand 0x2000
      ([Instr.dist 0 6 1, .vchk 0 6 1, .adj 0 6 1 2, .ferry 0 1, .heapi 0 6 3 1, .dist 0 0 3, .vchk 0 6 3, .adj 0 6 3 1,
        .ferry 0 3].all fun i => decide (WalkerStarts s 0 w c i)) && decide (c.index.bind (s.indexAt c.ctx) = some x) &&
      (intTags [1, 2] ++ floatTags [3]).all (w.look c.mode).ok && !(intTags [3]).all (w.look c.mode).ok &&
      (x.slots ≤ t.toNat || (s.slotVector x t.toNat).2.isNone && c.queryBad.isNone && (s.slotMeta x t.toNat).2.isNone &&
        (degree == 0 || (s.readArray 0 x.adj x.adjFrames (4 * (degree + 1) * t.toNat) 4).2.isNone &&
          (s.readArray 0 x.adj x.adjFrames (4 * (degree + 1) * t.toNat + 4 * (j.toNat + 1)) 4).2.isNone)),
    (let r := fun t => (walkingAt t 0 (indexWith 3)).readArray 0 0x30000 [0x20001] (16 * (t : Word).toNat) 4
     decide (numOf (r 0).1 = 0 ∧ numOf (r 3).1 = 3)),
    ([0, 5] : List Nat).all fun k =>
      let w : Walker := { walkerAt 1 0 with place := .running k }
      let s := { walkingAt 1 0 (indexWith 3) with walkers := [(0, w)] }
      decide (WalkerStarts s 0 w (walkCommand 0x2000) (.ferry 0 1) ∧
          (w.place = .running ((indexWith 3).holder 1) ↔ k = 0)),
    decide (([{ dist := 0x3F800000, id := 3 }, { dist := 0x40000000, id := 1 }] : List Item).Pairwise fun a b => Item.before a b = true)] =
      true := by decide +kernel

/-! ## Witnesses: retrieval, queues, launches and the event vector -/

/-- A descriptor of an index of four slots. -/
def descriptor (published degree home : Nat) : List Byte :=
  le 4 published ++ le 4 0 ++ le 4 (0x30 + 8 * 65536) ++ le 4 (degree + 256 * home) ++ le 8 0x10000 ++ le 8 0x20000 ++
    le 8 (if degree = 0 then 0 else 0x30000) ++ le 4 4 ++ le 20 0
/-- A supervisor with the descriptor at 0x5000, and a word in v6; four pages are mapped. -/
def registering (h : List Byte) (b : Word) : State :=
  let s := machine (asSupervisor (waveWith [(4, 0x5000), (6, b)] [(4, 0x12), (5, 0x12), (6, 0x11)]))
  withTables ((List.range 4).map fun j => (j, 0x200093 + 0x10000 * j)) { s with mem := bytesL 0x5000 h }
/-- A good descriptor with and without rows, one of a home that is no stack; an index to remove or to commit, at its last
version or before. -/
theorem witness_RetrievalInstructions_indexes : every [
    ([(descriptor 5 0 0, 1), (descriptor 5 3 3, 1), (descriptor 5 3 16, 3)] : List (List Byte × Nat)).all fun x =>
      let s := registering x.1 0
      meets s (.idxreg 0 2 4 6) fun fr =>
        let va := fr.v.pair 4 fr.u
        let key := (s.unitKeys (some fr.g.core) fr.g.ctx va 64 64 .store fr.priv).headD 0
        (pairTags 4 ++ intTags [6]).all fr.look.ok && (s.recordCause fr va 64 64 .store).isNone &&
          decide (s.releaseAt fr.gid fr.wid (slotBit fr.u) 4 = some s) &&
          ((s.registerIndex fr.g.ctx va key (s.bytes key 64)).2 == 1) == (x.2 == 1),
    [descriptor 5 0 0, descriptor 5 3 16].all fun h =>
      let s := registering h 1
      meets s (.idxreg 0 2 4 6) fun fr =>
        (pairTags 4 ++ intTags [6]).all fr.look.ok && (s.recordCause fr (fr.v.pair 4 fr.u) 64 64 .store).isNone &&
          (fr.v.reg 6 fr.u).getLsbD 0 && decide (s.releaseAt fr.gid fr.wid (slotBit fr.u) 4 = some s) &&
          descriptorBad (s.bytes 0x5000 64) == (h != descriptor 5 0 0),
    [5, 0xFFFFFFFE].all fun published =>
      let s := (registering (descriptor published 0 0) 1).onDie 0 fun d =>
        { d with indexes := [indexOf 0 0x5000 0x5000 (descriptor published 0 0)] }
      [Instr.idxreg 0 2 4 6, .ivcommit 0 2 4].all fun i => meets s i fun fr =>
        let va := fr.v.pair 4 fr.u
        (pairTags 4 ++ intTags [6]).all fr.look.ok && (s.recordCause fr va 64 64 .store).isNone &&
            (fr.v.reg 6 fr.u).getLsbD 0 &&
          decide (s.indexUsers fr.g.ctx va = [] ∧ s.releaseAt fr.gid fr.wid (BitVec.allOnes 64) 4 = some s ∧
            s.releaseAt fr.gid fr.wid (slotBit fr.u) 4 = some s) &&
          (s.indexAt fr.g.ctx va).any fun x => decide (x.published.toNat = published ∧
            (s.retired x.descKey || s.linkLost x.descKey) = false)] = true := by decide +kernel

/-- A list of n items for k. -/
def listOf (n k b : Nat) : List Byte :=
  le 2 n ++ le 2 k ++ le 12 0 ++ (List.range n).flatMap fun j => le 8 (0x3F800000 + j + b) ++ le 8 (j + 1)
/-- Lists of na and nb items at 0x1000 and 0x2000, a list for k at 0x4000, a command of xred at 0x7000. -/
def merging (na nb k : Nat) : State :=
  let s := machine (lone (waveWith [(2, 0x4000), (4, 0x1000), (6, 0x2000), (8, 0x7000)]
    ((List.range 8).map fun j => (2 + j, 0x12))))
  let x := le 8 0x2000 ++ le 4 0x77 ++ le 2 3 ++ le 2 0 ++ le 8 0x5000 ++ le 8 0x6000 ++ le 4 (k + 65536 * 3) ++ le 28 0
  { s with mem := sorted (bytesL 0x1000 (listOf na 8 0) ++ bytesL 0x2000 (listOf nb 8 5) ++
      bytesL 0x4000 (le 2 0 ++ le 2 k ++ le 12 0) ++ bytesL 0x7000 x) }
theorem witness_RetrievalInstructions : ([(2, 3, 4), (0, 0, 1), (3, 1, 256)] : List (Nat × Nat × Nat)).all (fun x =>
    let s := merging x.1 x.2.1 x.2.2
    let released : Frame → Bool := fun fr => decide (fr.w.ctr.nm ≠ 63 ∧
        s.releaseAt fr.gid fr.wid (slotBit fr.u) 4 = some s)
    ([Instr.srch 0 12 4, .scan 0 12 4, .walk 0 12 4].all fun i => meets s i fun fr => (pairTags 4).all fr.look.ok &&
        released fr &&
      (s.recordCause fr (fr.v.pair 4 fr.u) 128 128 .store).isNone) &&
    (meets s (.tkmerge 0 2 4 6) fun fr =>
      let va := fr.v.pair 4 fr.u
      let dv := fr.v.pair 2 fr.u
      let bv := fr.v.pair 6 fr.u
      let k := field (s.recordBytes fr dv 16) 2 2
      (pairTags 2 ++ pairTags 4 ++ pairTags 6).all fr.look.ok && released fr && k == x.2.2 && decide (1 ≤ k ∧ k ≤ 256) &&
        field (s.recordBytes fr dv 16) 8 8 == 0 && (s.recordCause fr dv 16 16 .store).isNone &&
        (s.recordCause fr va 16 16 .load).isNone && (s.recordCause fr bv 16 16 .load).isNone &&
        (s.recordCause fr dv 16 (16 + 16 * k) .store).isNone &&
        (s.recordCause fr va 16 (listExtent (s.recordBytes fr va 16)) .load).isNone &&
        (s.recordCause fr bv 16 (listExtent (s.recordBytes fr bv 16)) .load).isNone) &&
    meets s (.xred 0 8) fun fr =>
      let h := s.recordBytes fr (fr.v.pair 8 fr.u) 64
      let lv := BitVec.ofNat 64 (field h 0 8)
      let n := listExtent (s.recordBytes fr lv 16)
      (pairTags 8).all fr.look.ok && released fr && (s.recordCause fr (fr.v.pair 8 fr.u) 64 64 .load).isNone &&
        decide (field h 0x10 8 % 16 = 0 ∧ field h 0x0E 2 = 0 ∧ field h 0x20 4 < 2 ^ 20 ∧ 1 ≤ field h 0x0C 2 ∧
          field h 0x0C 2 ≤ 512 ∧ 1 ≤ field h 0x20 2 ∧ field h 0x20 2 ≤ 256) && ((h.drop 0x24).all (· == 0)) &&
        (s.recordCause fr lv 16 16 .load).isNone && (s.recordCause fr lv 16 n .load).isNone &&
        !(s.unitKeys (some fr.g.core) fr.g.ctx lv n 16 .load fr.priv).any s.poisoned) = true := by decide +kernel

/-- The bytes of a launch header: its words of sizes, widths and gang, its wait bits and the cores it admits. -/
def launchBytes (a b c d wait isles cores : Nat) : List Byte :=
  le 8 0x1000 ++ le 8 0x2000 ++ le 4 a ++ le 4 b ++ le 4 c ++ le 4 d ++ le 8 0 ++ le 4 7 ++ le 4 0 ++ le 8 isles ++
    le 8 cores ++ le 32 wait ++ le 32 0
/-- Small groups; a width below six; a wait; gangs of two on devices 0 and 1; of four on device 5, and of four members with
sixteen waves on device 0, where one core is admitted. -/
def launchKinds : List (List Byte) :=
  let small := 8 + 512 + 4096 + 4 * 65536
  [launchBytes small 6 0 0 0 0 0, launchBytes small 5 0 0 0 0 0, launchBytes small 6 0 0 (2 ^ 200) 0 0,
    launchBytes small 22 0x10000 0x200 0 0 0, launchBytes small 0x26 0x30000 5 0 0 0, launchBytes small 0x2A 0x30000 0 0 1 1]
/-- A launch header at 0x1000 and a card for it at 0x3000; a context that takes launches, is closed, is to stop, or is
full. The card covers one unit for each 16 bytes of its stride. -/
def submitting (h : List Byte) (card : Nat) (mode : Nat) : State :=
  let s := machine (waveWith [(4, 0x1000), (6, 0x3000)] [(4, 0x12), (5, 0x12), (6, 0x12), (7, 0x12)])
  { s.onContext 0 fun c => { c with en := mode != 1, stop := decide (mode = 2),
                                    launches := if mode = 3 then (List.range 64).map fun j => (100 + j, launchOf header) else [] } with
    mem := sorted (bytesL 0x1000 h ++ bytesL 0x3000 (le 8 0x4000 ++ le 8 0x1000 ++ le 8 0x6000 ++ le 4 (card / 16) ++ le 4 card ++ le 32 0)) }
theorem witness_LaunchSubmissions :
    let hd : Nat → Header := fun j => headerOf (launchKinds.getD j [])
    let good := launchKinds.getD 0 []
    every [(launchKinds.map (·, 0) ++ [1, 2, 3].map (good, ·)).all fun x =>
        let h := x.1
        let s := submitting h 16 x.2
        meets s (.launch 0 2 4) fun fr =>
          (pairTags 4 ++ pairTags 6).all fr.look.ok && decide (s.releaseAt fr.gid fr.wid (BitVec.allOnes 64) 4 = some s) &&
            (s.recordCause fr 0x1000 128 128 .load).isNone && (s.recordCause fr 0x3000 64 64 .load).isNone &&
            decide (s.recordRead fr 0x1000 128 = (h, false)) && !(s.recordRead fr 0x3000 64).2,
      [(0, 1), (2, 1), (3, 1), (4, 0), (5, 4)].all fun x =>
        !(hd x.1).malformed && ((hd x.1).members 0).length == x.2 &&
            (decide (x.2 ≤ (hd x.1).perCore * (hd x.1).coreCount) == decide (x.1 < 5)),
      (hd 1).malformed,
      [16, 64, 65].all fun card =>
        let s := submitting good card 0
        let r := (s.recordRead (frameOf s) 0x3000 64).1
        cardBad r == decide (card = 65) && !({ headerOf good with entry := BitVec.ofNat 64 (field r 0 8), args := 0, count := 0 }).malformed &&
          !(headerOf good).ganged && (decide ((cardOf r).count ≤ 2 ^ (headerOf good).unitBits) == decide (card = 16)),
      [Instr.launch 0 0 4, .jcard 0 2 6].all fun i => meets (submitting good 16 0) i fun _ => true] = true := by decide +kernel

/-- A queue of sixteen entries at 0x7000. -/
def queueOf (head tail : Word) : Queue := { en := true, ctx := 0, lgsize := 4, base := 0x7000, head := head, tail := tail }
/-- Queue 5 is bound to the context; v6 names it, pair v4 an entry. -/
def queuing (q : Queue) (entry : Word) : State :=
  let s := machine (waveWith [(4, entry), (5, entry), (6, 5)] [(4, 0x12), (5, 0x12), (6, 0x11)])
  s.onStack 0 fun k => { k with queues := [(5, q)] }
/-- Queues that are empty, full, and about to wrap; entries, one of all ones; a number that names no queue. -/
theorem witness_QueuesAndEvents : every [
    ([(0, 0), (0, 15), (0, 16), (0xFFFFFFFF, 0), (0xFFFFFFFF, 0xFFFFFFFF)] : List (Word × Word)).all fun x =>
      ([0x1230, 0xFFFFFFFF] : List Word).all fun e =>
        let q := queueOf x.1 x.2
        let s := queuing q e
        let popped := ((slotsOf (frameOf s).part).foldl (fun (p : State × Tab (DWord × Bool)) t =>
          let y := p.1.popTask 0 5
          (y.1, p.2.put t y.2)) (s, [])).2
        [Instr.qpush 0 2 6 4, .qpush 0 0 6 4, .qpop 0 2 6].all fun i => meets s i fun fr =>
          (intTags [6] ++ pairTags 4).all fr.look.ok && (s.queueFaults fr 6).isEmpty &&
            decide (s.releaseAt fr.gid fr.wid fr.part fr.issueScope = some s ∧ (popped.all fun r => !r.2.2) ∧
                s.boundQueue 0 5 = some q ∧
              (s.retired (q.key 5 q.tail.toNat) || s.linkLost (q.key 5 q.tail.toNat)) = false ∧
                  s.poisoned (q.key 5 q.tail.toNat) = false),
    ([0x1005, 5] : List Word).all fun n =>
      let s := machine (waveWith [(4, 1), (6, n)] [(4, 0x12), (5, 0x12), (6, 0x11)])
      [Instr.qpush 0 2 6 4, .qpop 0 2 6].all fun i => meets s i fun fr => (intTags [6] ++ pairTags 4).all fr.look.ok &&
        decide (fr.TrapsTo s ∧ ∀ t ∈ slotsOf fr.act, t ∈ slotsOf fr.part ∧
          ((fr.v.reg 6 t).extractLsb' 12 20 ≠ 0 ∨ s.boundQueue fr.g.ctx (fr.v.reg 6 t) = none)),
    ([0, 3, 0xFFFFFFFF] : List Word).all fun b =>
      let s := queued (launchOf { header with wait := 1#256 <<< 67 }) (machine (waveWith ([(4, 8), (6, b)].filter (·.2 != 0))
        [(4, 0x12), (5, 0x12), (6, 0x11)]))
      [Instr.evset 0 4 6, .evclr 0 4 6, .evrd 0 2 6, .evrd 0 0 6].all fun i => meets s i fun fr =>
        (pairTags 4 ++ intTags [6]).all fr.look.ok && decide (s.releaseAt fr.gid fr.wid (BitVec.allOnes 64) 4 = some s)] = true := by
  decide +kernel

/-! ## Witnesses: events -/

/-- Fragment 0 of the wave in a state, at a tick; an event is about it. -/
def waitingIn (w : Wave) (st : FragState) (tick : Nat) : State :=
  { machine { w with split := w.split.map fun x => match x.2 with
      | .frag f => (x.1, .frag { f with st := if x.1 = 0 then st else f.st })
      | e => (x.1, e) } with about := { gid := 0, wave := 0, ent := 0 }, cycle := tick * 7 }
/-- The frame an event is about has a property. -/
def eventMeets (s : State) (p : Frame → Bool) : Bool :=
  match ({ s with cur := .wave s.about.gid s.about.wave s.about.ent } : State).frame? with
  | some fr => p fr
  | none => false
/-- The half of an exchange with another member, of slots 0 and 1. -/
def half (sdev : BitVec 9) : Packet :=
  { packetOf 6 with sdev := sdev, score := 0, rslot := 0, kind := true, key := 5, entries := [], strait := 0 }
/-- Its operation, number 7, until tick 4000. -/
def exchanging (tick : Nat) (st : FragState) : State :=
  let s := waitingIn (waveWith [] []) st tick
  { s.onCore 0 fun c => { c with reqs := [{ dev := 9, slot := 0, op := 7, pkt := 0, strait := 3 }] } with
    ops := [(7, opOf (.exchange 2 { pkt := half 0, slots := [0, 1], answered := true } 1 5 4000) none [])],
    about := { gid := 0, wave := 0, ent := 0, op := 7 } }
theorem witness_WaitsEnd_fragments : every [
    [lone (waveWith [] []), apart (waveWith [] [])].all fun w =>
      [(FragState.waiting (.event 2 0x8000000F 5 false 100)), .waiting (.object 2 0x40 true 100), .sleeping (.tick 100),
        .sleeping (.turns [(3, 0, 0)] 0), .sleeping (.turns [(3, 0, 0)] 1), .waiting (.room 0x40 3)].all fun st =>
        let s := waitingIn w st 100
        eventMeets s fun fr => fr.f.st == st && decide (fr.Quiet ∧ fr.f.suspended = false ∧ 100 ≤ s.tick ∧ s.ops = [] ∧
          (s.core fr.g.core).track = []) && (s.locate none fr.g.ctx 0x40 .load true).isOk &&
          (s.locate (some fr.g.core) fr.g.ctx 0x40 .atomic fr.w.priv).isOk && (s.waiting? 3 0 0).isNone,
    (let s := exchanging 4000 (.waiting (.exchange 7))
     eventMeets s fun fr => fr.f.st == .waiting (.exchange 7) && decide (4000 ≤ s.tick ∧ maskOf [0, 1] = fr.act ∧
         fr.TrapsTo s ∧
       fr.f.suspended = false) && (s.ops.look 7).isSome),
    [2 ^ 20 + 4, 2 ^ 20 + 5].all fun tick =>
      let w : Wave := { waveWith [] [] with heldSince := some 5, tstat := 0x41 }
      let s := waitingIn w .ready tick
      tsApend w.tstat && (s.wave? 0 0).any (·.heldSince == some 5) &&
          (decide (5 + 2 ^ 20 ≤ s.tick) == decide (tick = 2 ^ 20 + 5)),
    (let l : LoopEnt := { id := 4, start := 0x405, stop := 0x410, count := 2, mask := 3 }
     let w : Wave := { waveWith [] [] with
       loops := [l], split := [(0, .frag { fragOf 3 with st := .waiting (.loopStep 4), link := some 1 }), (1, .join (recordOf 3 none (some 4)))] }
     let s := { machine w with about := { gid := 0, wave := 0, ent := 0 } }
     match s.waiting? 0 0 0 with
     | some (_, v, f) => f.st == .waiting (.loopStep 4) && (v.loops.find? fun l => l.id = 4) == some l &&
         v.emptyEntry == some 2 &&
         decide (2 ≤ l.count.toNat ∧ l.mask ≠ 0) && v.split.all fun x => match x.2 with
           | .frag _ => x.1 == 0
           | .join j => j.wait != 0
     | none => false)] = true := by decide +kernel
theorem witness_WaitsEnd_traffic : every [
    (let s := { after (.xld 0 4 5 8) remote with about := { core := 0 } }
     let t := { s.onCore 0 fun c => { c with waitQ := [(1, 0)], reqs := [] } with net := [] }
     (t.core t.about.core).waitQ == [(1, 0)] && (t.pushPacket t.about.core [] 1 0).isSome &&
       (match t.ops.look 1 with
         | some { kind := .remote _ _ [part], .. } => ((t.core t.about.core).freeSlot part.pkt.tdev.toNat).isSome &&
             (t.routeOf t.about.core part.pkt).any fun k => !(t.port k).down
         | _ => false) && (t.ops.all fun e => e.1 == 1 && e.2.accs.all fun a => !a.grp) &&
       (t.core t.about.core).reqs.all fun r => r.op != 1),
    [1024, 3999].all fun tick =>
      let s := exchanging tick .ready
      match s.ops.look s.about.op with
      | some o => match o.kind with
        | .exchange _ part _ _ deadline => part.answered && decide (o.issued + 1024 ≤ s.tick ∧ s.tick < deadline) &&
            ((s.routeOf o.core part.pkt).any fun k => !(s.port k).down) &&
                ((s.core o.core).reqs.find? fun r => r.op = s.about.op).isSome
        | _ => false
      | none => false,
    [true, false].all fun flag =>
      let s := { ganged remote with about := { gid := 0, member := 1, flag := flag } }
      s.about.pkt.isNone && (flag || decide (s.tick ≤ s.about.value.toNat + 1024)) &&
          decide (s.about.value.toNat ≤ s.tick) && s.groups.all (fun g => !g.2.held) && s.saved.isEmpty &&
              match s.groups.look 0 with
        | some g => decide (s.about.member ≠ g.member ∧ s.about.member < s.gangSize g)
        | none => false,
    (let s : State := { remote.onCore 0 fun c => { c with pairs := [half 0, half 9] } with about := { pkt := some (half 9) } }
     decide ((half 9).sdev.toNat ≠ s.dev.devnum) && (s.cores.find? fun e => e.2.pairs.contains (half 9)).isSome)] = true := by
  decide +kernel

/-- An operation of the wave on an engine. -/
def engineOp (k : OpKind) : Op := opOf k (some .nm) []
theorem witness_EngineEvents_banks : every [
    ([(1, 3), (0, 0), (1, 507)] : List (Nat × Nat)).all fun x =>
      let keys := (List.range 5).map fun j => 0x1000 + 4 * j
      let s := { machine (waveWith [] []) with ops := [(7, engineOp (.program 3 x.1 x.2 keys))], about := { op := 7 } }
      s.ops.look 7 == some (engineOp (.program 3 x.1 x.2 keys)) && s.cellsFree keys && keys.all fun k => !s.poisoned k,
    (let l := { bankLaunch with argKeys := (List.range 256).map fun j => 0x3000 + 4 * j }
     let s : State := { (machine (waveWith [] [])).setEngine 3 { idle with queue := [l, bankLaunch] } with about := { engine := 3 } }
     !s.loading 3 s.nextOp && decide ((s.engine 3).prog = none ∧ (s.engine 3).queue.length = 2) &&
         !engineModeBad 16 l.mode &&
       l.argKeys.all fun k => !s.poisoned k),
    [(4, false), (5, true)].all fun x =>
      let p := { lanes 0 with launch := { bankLaunch with budget := 5 }, count := x.1 }
      decide (p.launch.budget ≠ 0 ∧ (p.launch.budget ≤ p.count ↔ x.2 = true))] = true := by decide +kernel

/-- A command whose list is stored from 0x7000 on, over an index of four slots. -/
def searching (kind : Nat) : Command :=
  { walkCommand 0x2000 with
    want := kind, kind := kind, outKeys := (List.range 3).map fun j => 0x7000 + 32 * j, first := 1, limit := 4, ran := 10 }
/-- Its state: three slots are seen. -/
def answering (c : Command) : State :=
  let x := indexWith 0
  { (machine (waveWith [] [])).onDie 0 fun d => { d with indexes := [x] } with
    mem := sorted ((bytesL (arrayKey 0 0 x.metaFrames 0) ((List.range 4).flatMap fun j => le 8 (100 + j) ++ le 4 3 ++ le 4 (7 + j))) ++
      bytesL (arrayKey 0 0 x.vecFrames 0) ((List.range 128).map fun j => BitVec.ofNat 8 ((j * 7) % 96))),
    commands := [(7, c)], ops := [(7, opOf .search (if c.accepted then some .nm else none) [])], about := { op := 7, stack := 0 },
    nextOp := 8 }
theorem witness_EngineEvents_completions : every [
    [0, 2].all fun kind =>
      let c := searching kind
      let s := answering c
      let x := indexWith 0
      decide (s.commands.look s.about.op = some c ∧ c.accepted = true ∧ c.answer = none ∧ c.object = none ∧
        (s.retired (c.cmdKey + 0x78) || s.linkLost (c.cmdKey + 0x78)) = false ∧ c.index.bind (s.indexAt c.ctx) = some x ∧
        x.published ≤ x.floor ∧ c.topk = false ∧ c.queryBad = none ∧ c.k ≤ 256 ∧ c.k < c.outKeys.length ∧
            c.ended < 2 ^ 32 ∧
        c.heap.length < c.outKeys.length) && (s.ops.look 7).isSome && decide (UnitsKeep s c.outKeys) &&
            s.walkers.isEmpty &&
        (c.outKeys.all fun k => k + 16 ≤ c.cmdKey + 0x78 || c.cmdKey + 0x80 ≤ k) &&
        (List.range 4).all fun t => (s.slotMeta x t).2.isNone && (s.slotVector x t).2.isNone,
    (let w : Walker := { walkerWith [] [] with place := .ferried 2 }
     let s : State := { answering (searching 2) with walkers := [(7, w)] }
     s.walkersOf 7 == [7] && decide ((searching 2).budget ≠ 0 ∧ (searching 2).budget ≤ (searching 2).ran ∧
       s.walkers.look s.about.op = some w ∧ w.place = .ferried 2)),
    !(machine (waveWith [] [])).commands.any (fun _ => true), !((machine (waveWith [] [])).stack 0).stopped] = true := by decide +kernel
/-- No slot of the index reads as poison. -/
theorem witness_EngineEvents_no_poison (t : Nat) : let s := answering (searching 0)
    (s.slotMeta (indexWith 0) t).2 = none ∧ (s.slotVector (indexWith 0) t).2 = none := by
  have d : ∀ n, ((answering (searching 0)).die n).retired = [] ∧ ((answering (searching 0)).die n).cxlDown = [] := by
    intro n
    cases n <;> exact ⟨rfl, rfl⟩
  have h : ∀ k, (answering (searching 0)).poisoned k = false := by
    intro k
    have e : (answering (searching 0)).poison = [] := rfl
    simp [State.poisoned, State.retired, State.linkLost, d, e]
  exact ⟨by simp [State.slotMeta, State.readArray, State.firstBad, h], by simp [State.slotVector, State.readArray, State.firstBad, h]⟩
/-- A command record of each kind at 0x6000 with the words it names; a stopped processor; no record. -/
def commanding (kind : Nat) (memory stopped : Bool) : State :=
  let s := answering { searching kind with accepted := false, index := none, outKeys := [] }
  let r := le 4 (kind + (if kind = 1 then 4 else 0)) ++ le 4 2 ++ le 8 0x5000 ++ le 8 0x1000 ++ le 8 0x1100 ++ le 12 0 ++ le 4 0 ++
    le 8 0 ++ le 4 4 ++ le 4 0x20 ++ le 16 0 ++ le 8 0x1300 ++ le 4 (2 + 65536 * 2) ++ le 4 0x2000 ++ le 8 0x1400 ++ le 24 0
  let w : Nat → List Byte := fun j => (List.range 12).flatMap (fun k => le 4 (k * 3 + j)) ++ List.replicate 12 0x11 ++ le 4 4
  let s := { s with mem := if memory then bytesL 0x1300 (le 8 77) ++ bytesL 0x1400 (w 0 ++ w 1) ++ bytesL 0x6000 r else [] }
  (if stopped then s.setStack 0 { s.stack 0 with stopped := true } else s).onDie 0 fun d => { d with tlb := [(0, page)] }
theorem witness_EngineEvents_acceptances : every [
    ([(0, true, false), (1, true, false), (2, true, false), (0, true, true), (0, false, false)] : List (Nat × Bool × Bool)).all fun x =>
      let s := commanding x.1 x.2.1 x.2.2
      match s.commands.find? fun e => e.2.stack = s.about.stack && !e.2.accepted && e.2.answer.isNone with
      | some (id, c0) => s.commands.look id == some c0 && s.saved.isEmpty && ((s.stack 0).stopped == x.2.2) &&
          ((s.parseCommand id c0).isSome == x.2.1) && (s.wave? 0 0).any (fun w => decide (w.ctr.nm.toNat < 63)) &&
          (s.parseCommand id c0).all fun y => s.commandRoom y.1 && (y.2.all fun w => w.2.isNone) &&
              (y.1.kind != 2 || !engineModeBad 32 y.1.mode)
      | none => false] = true := by decide +kernel

/-- A list of xred, and a merge that waits for it. -/
def reducing : MergeList :=
  { mergeId := 0x25, parts := 3, root := 0x1000, object := 0x40, k := 2, tmo := 3, ctx := 0, items := [⟨5, 1⟩], valid := true,
    op := some 7 }
def held : Merge :=
  { mergeId := 0x25, root := 0x1000, object := 0x40, ctx := 0, k := 2, parts := 3, arrived := 1, disagree := false,
    invalid := false, phase := some 0, items := [⟨9, 9⟩], deadline := 50 }
/-- The list reaches switch 5 at tick 10. -/
def arriving (merges : List Merge) (done : List (Word × DWord × Nat)) : State :=
  let s := machine (waveWith [] [])
  { s.setSwitch 5 { s.switch 5 with merges := merges, done := done } with
    ops := [(7, engineOp (.reduce reducing))], about := { op := 7, list := some reducing, switch := 5 }, cycle := 70 }
theorem witness_MergeEvents : every [
    ([(3, 4, 1), (0, 0, 3), (3, 4, 7)] : List (Nat × Nat × Nat)).all fun x =>
      let ka := (List.range (1 + x.1)).map fun j => 0x1000 + 16 * j
      let kb := (List.range (1 + x.2.1)).map fun j => 0x2000 + 16 * j
      let kd := (List.range (1 + x.2.2)).map fun j => 0x3000 + 16 * j
      let s := { machine (waveWith [] []) with
        mem := sorted (bytesL 0x1000 (listOf x.1 8 0) ++ bytesL 0x2000 (listOf x.2.1 8 5)),
        ops := [(7, engineOp (.merge ka kb kd x.2.2))], about := { op := 7 } }
      s.cellsFree (ka ++ kb ++ kd) && ((ka ++ kb).all fun k => !s.poisoned k) && (readList (s.readUnits ka)).isSome &&
        (readList (s.readUnits kb)).isSome && decide (kd.length = 1 + x.2.2 ∧ x.2.2 ≤ 256 ∧ UnitsKeep s kd) &&
            (s.ops.look 7).isSome,
    (let same : Merge → Bool := fun m => m.mergeId = reducing.mergeId && m.root = reducing.root
     every [decide (reducing.op = some 7 ∧ (arriving [] []).about.list = some reducing ∧ reducing.mergeId.toNat % 32 = 5 ∧
        (engineOp (.reduce reducing)).promote = false),
      ((arriving [held] []).switch 5).merges.find? same == some held, held.arrived + 1 != held.parts,
      (let s := arriving (List.replicate 64 { held with mergeId := 5 }) []
       ((s.switch 5).merges.find? same).isNone && (s.switch 5).done.isEmpty && (s.switch 5).merges.length == 64),
      (let s := arriving [] [(0x25, 0x1000, 3)]
       ((s.switch 5).merges.find? same).isNone && (s.switch 5).done.contains (0x25, 0x1000, 3) &&
           decide (s.tick < 3 + 2 ^ 16))]),
    (let o := { engineOp (.reduce reducing) with promote := true, issued := 3 }
     let s : State := { machine (waveWith [] []) with ops := [(7, o)], about := { op := 7 }, cycle := 7 * 1027 }
     decide (s.ops.look 7 = some o ∧ o.issued + 1024 ≤ s.tick ∧ (s.switch 5).merges = [] ∧ (s.switch 5).done = [] ∧
       reducing.parts ≠ 1)),
    ([(49, 0x1000), (50, 0x1000), (50, 0x1000000000000000)] : List (Nat × DWord)).all fun x =>
      let m := { held with root := x.2 }
      let s := { arriving [m] [] with about := { switch := 5, index := 0 }, cycle := 7 * x.1 }
      (s.switch 5).merges[0]? == some m && (decide (m.deadline ≤ s.tick) == decide (50 ≤ x.1)) &&
        (decide (vaDevice m.root = s.dev.devnum) == decide (x.2 = 0x1000))] = true := by decide +kernel

/-- A header of groups of one wave. -/
def small : Header :=
  { header with regs := 8, scr := 4, w := [6, 0, 3, 0, 0, 0], gstr := 0, tmo := 2, set := 6, prio := 1 }
/-- A launch of it whose next unit is 3. -/
def unitThree : Launch := { launchOf small with next := 3 }
/-- It is launch 9 of the one context, at tick 10000. -/
def placing (l : Launch) : State :=
  { machine (waveWith [] []) with
    contexts := [(0, { Context.reset with en := true, sup := 0x2000, launches := [(9, l)] })], cycle := 70000 }
/-- One core admitted, and all of them; a chunk of two records on core 1. -/
theorem witness_GroupsStart : every [
    ([(1, 1), (0, 0)] : List (Nat × Nat)).all fun x =>
      let l : Launch := { unitThree with hdr := { small with isles := x.1, cores := x.2 } }
      let s := placing l
      s.runnable 0 l && decide (l.hdr.ganged = false ∧ l.card = none ∧ s.saved = [] ∧ l.next < l.units) &&
        (x.1 == 0 || (s.chooseCore 9 l.hdr).isSome),
    (let l : Launch := { unitThree with
       card := some { recs := 0x4000, count := 8, stride := 32 },
       chunks := [{ core := 1, recs := [(5, []), (6, [])], tile := 0, filled := [], noted := [] }] }
     let s := { (placing l).onCore 1 fun c => { c with sreg := 2, sscr := 1 } with about := { core := 1 } }
     s.runnable 0 l && l.hdr.width 1 == 0 && ((s.onThe 1).all fun e => e.2.bound.isNone) &&
         (s.core 1).splitIs l.hdr && s.takes 1 9 l.hdr)] = true := by decide +kernel

/-- The host writes a value for the context; a launch header is at 0x800, and a card that names it at 0x1000. -/
def doorbell (value : Nat) (opened : Bool) : State :=
  let card := le 8 0x4000 ++ le 8 0x800 ++ le 8 0x6000 ++ le 4 1 ++ le 4 16 ++ le 32 0
  { (placing unitThree).onContext 0 fun c => { c with en := opened } with
    mem := bytesL 0x800 (launchKinds.getD 0 []) ++ bytesL 0x1000 card, about := { ctx := 0, value := BitVec.ofNat 64 value } }
theorem witness_LaunchControl : every [
    ([(0x800, true, true), (0x800, false, true), (0x840, true, false), (0x10000000, true, false), (0x1001, true, true),
        (0x1001, false, true), (0x1021, true, false), (0x10000001, true, false)] : List (Nat × Bool × Bool)).all fun x =>
      let s := doorbell x.1 x.2.1
      let v := s.about.value
      let at' := v &&& ~~~1#64
      let n := if v.getLsbD 0 then 64 else 128
      s.dev.stage == 3 && s.closed 0 == !x.2.1 && (at'.toNat % n == 0 && (s.readVa 0 at' n).isSome) == x.2.2,
    (match (doorbell 0x1001 true).readVa 0 0x1000 64 with
      | some (cd, false) => !cardBad cd && ((doorbell 0x1001 true).readVa 0 (BitVec.ofNat 64 (field cd 8 8)) 128).isSome
      | _ => false),
    ((placing unitThree).groups.all fun g => g.2.ctx == 0),
    (let l : Launch := { unitThree with next := 8, first := some 1 }
     ({ placing l with groups := [] } : State).launchOver 0 9 l && !(placing unitThree).launchOver 0 9 unitThree),
    (let l : Launch := { unitThree with first := some 7952 }
     decide (l.hdr.tmo ≠ 0 ∧ l.ended = false ∧ 7952 + l.hdr.tmo * 1024 ≤ (placing l).tick ∧
       ((placing l).context 0).launches.look 9 = some l))] = true := by decide +kernel

/-- A launch with a scratch region a full core has no room for. -/
def blockedSince (t : Option Nat) : Launch :=
  { unitThree with blocked := t, hdr := { small with scr := 15, isles := 1, cores := 1 } }
/-- The group's region is ten pages, and the save area has a size in pages. -/
def crowded (l : Launch) (serial : Nat) (tstat : Word) (saving : Bool) (pages : Word) : State :=
  { (placing l).onContext 0 fun c => { c with saveBase := 0x40, saveSize := pages } with
    mem := [(scratchKey 0 5, 9)], about := { gid := 0, ctx := 0, serial := 9, unit := 2 },
    groups := [(0, { groupWith { waveWith [(2, 7)] [(2, 0x11)] with tstat := tstat } with
      saving := saving, size := 10, serial := serial, unit := 2 })] }
/-- A gang of two on devices gdev and gdev + gstr, whose unit 3 has a plan for member m. -/
def ganging (gdev gstr m : Nat) (ready : List (Nat × List Nat)) (next : Nat) : Launch :=
  { unitThree with
    hdr := { small with w := [6, 1, 3, 0, 0, 0], gm := 1, gdev := gdev, gstr := gstr },
    plan := some (3, [(m, 7)]), ready := ready, next := next }
/-- What device 5 says of unit 3. -/
def readiness (gm : Nat) : GangReady :=
  { dev := 5, entry := 0x1000, widths := 6 + 16 + 512 * 3, w5 := 0, gm := gm, gdev := 0, gstr := 5 }
theorem witness_SavesAndGangs : every [
    ([(none, 0), (some 9999, 1), (some 5904, 2)] : List (Option Nat × Nat)).all fun x =>
      let l := blockedSince x.1
      let s := crowded l 1 0 false 8
      s.pending 0 9 l && !s.placeable 0 9 l && (x.2 != 1 || decide (s.tick < 9999 + 2 ^ 12)) &&
        (x.2 != 2 || (decide (5904 + 2 ^ 12 ≤ s.tick) && (s.victim l).isSome)),
    [(0 : Word), 1, 0x31].all fun t => [true, false].all fun saving =>
      let s := crowded unitThree 9 t false 8
      let s : State := { s with groups := s.groups.map fun (g : Nat × Group) => (g.1, { g.2 with saving := saving }) }
      s.groups.all fun g => g.2.ctx == s.about.ctx && g.2.serial == s.about.serial && g.2.unit == s.about.unit &&
        g.2.saving == saving] = true := by decide +kernel
/-- The same group with a page of scratch memory and eight registers. -/
def savable (tstat pages : Word) : State :=
  let s := crowded unitThree 1 tstat true pages
  { s with groups := s.groups.map fun (g : Nat × Group) => (g.1, { g.2 with size := 1, regs := 8 }) }
/-- A save area of two pages, and one of one in a handler. -/
theorem witness_SavesAndGangs_saves : ([(0, 2), (64, 1)] : List (Word × Word)).all (fun x =>
    let s := savable x.1 x.2
    match s.groups.look 0 with
    | some g =>
      let i : Image := { cells := s.cellsOf (scratchKey g.core (4096 * g.base)) (4096 * g.size), tiles := [], mat := none }
      decide (g.saving = true ∧ s.gangSize g = 1 ∧ s.ops = [] ∧ s.saved = [] ∧ (s.core g.core).mat.holder ≠ some 0 ∧
        g.notes = [] ∧ g.image = none) && s.saveTurn 0 g && s.atBoundary 0 g &&
            (g.waves.all fun w => w.2.split.all fun e => match e.2 with
          | .frag f => f.st == .ready
          | .join _ => true) &&
        (decide ((({ g with saving := false } : Group).block i 0).length ≤ (s.context g.ctx).saveSize.toNat * 4096) ==
          decide (x.2 = 2))
    | none => false) = true := by decide +kernel
theorem witness_SavesAndGangs_gangs : every [
    ([(1, 3, true), (2, 3, false), (2, 2, false)] : List (Nat × Nat × Bool)).all fun x =>
      let l := ganging 0 5 0 [] x.2.1
      let s := placing l
      decide (l.hdr.ganged = true ∧ l.hdr.gdev = s.dev.devnum ∧ (readiness x.1).dev ∈ l.hdr.devices) &&
        readyMatches (readiness x.1) l.hdr == x.2.2,
    (ganging 5 3 1 [] 3).hdr.gdev != (placing (ganging 5 3 1 [] 3)).dev.devnum,
    ([(0, 5, 0, 0), (5, 3, 1, 8)] : List (Nat × Nat × Nat × Nat)).all fun x =>
      let l := ganging x.1 x.2.1 x.2.2.1 [(3, [0, 5])] 3
      let s := placing l
      let s := { s with about := { ctx := 0, serial := 9, unit := 3 }, dev := { s.dev with devnum := x.2.2.2 } }
      decide ((s.context 0).launches.look 9 = some l ∧ s.about.flag = false ∧ s.saved = [] ∧
          l.plan = some (3, [(x.2.2.1, 7)]) ∧
          l.hdr.members s.dev.devnum = [x.2.2.1]) &&
        (l.hdr.gdev != s.dev.devnum || l.hdr.devices.all fun d => (l.ready.lookD 3 []).contains d) &&
        (s.onLaunch 0 9 fun l => { l with plan := none, ready := l.ready.del 3, next := if l.next = 3 then 4 else l.next }).takes 7 9
          l.hdr] = true := by decide +kernel

/-- The device at a stage, at a tick. -/
def staged (stage : Nat) (tick : Nat) : State :=
  let s := machine (waveWith [] [])
  { s with dev := { s.dev with stage := stage, asyper := 24000 }, cycle := 7 * tick }
/-- The rotation of isle 1 is at a core, and core 24 is under assay since tick 0. -/
def assaying (tick next : Nat) (flag : Bool) : State :=
  { { staged 3 tick with groups := [], cores := [] }.onCore 24 fun c =>
      if next = 0 then { c with assay := some 0, drained := true, seen := [0] } else c with
    isles := [(1, { next := next, last := 0 })], about := { isle := 1, core := 24, flag := flag } }
theorem witness_AssaysAndErrors_assays : every [
    ([(999, 1), (1000, 1), (1000, 23)] : List (Nat × Nat)).all fun x =>
      let s := assaying x.1 x.2 false
      let core := 24 + (s.isles.lookD 1 { next := 0, last := 0 }).next
      decide (core < 48 ∧ (s.core core).drained = false ∧ s.failedCore core = false ∧ (s.core core).assay = none) &&
        (s.cores.all fun c => !c.2.drained) &&
        (s.cores.all fun c => !c.2.early) && s.groups.isEmpty &&
            (decide (s.dev.asyper / 24 ≤ s.tick) == decide (x.1 = 1000)),
    [0, 5].all fun j =>
      let s := ({ staged 3 7 with groups := [], about := { isle := 1 } } : State).onCore (24 + j) fun c => { c with early := true }
      decide ((s.core (24 + j)).early = true ∧ (∀ i < j, (s.core (24 + i)).early = false) ∧
        (s.core (24 + j)).drained = false ∧ s.failedCore (24 + j) = false ∧ (s.core (24 + j)).assay = none) &&
            s.groups.isEmpty,
    ([(19999, true), (20000, true), (20000, false)] : List (Nat × Bool)).all fun x =>
      let s := assaying x.1 0 x.2
      decide ((s.core s.about.core).assay = some 0 ∧ (s.core s.about.core).track = [] ∧ s.about.flag = x.2 ∧
        (20000 ≤ s.tick ↔ x.1 = 20000))] = true := by decide +kernel

/-- A cell of stack 2. -/
def cellOne : HbmCell := { sid := 1, pch := 2, bank := 3, row := 4, col := 5 }
/-- A visit of a line or a cell; the line of address 0 is dirty, and slice 4 is quarantined. -/
def visiting (x : Scrub) (index : Nat) : State :=
  let s := (staged 3 5).onDie 0 fun d => { d with lines := [(0, { owner := 0, way := 0 })], qway := [(4, { QWay.reset with held := true })] }
  { s with about := { die := 0, stack := 2, index := index, scrub := x, flag := true, cell := some cellOne, slice := 4 } }
/-- A slice with no quarantined way holds a line in one, and one with every way quarantined in none. -/
theorem witness_AssaysAndErrors_ways (line now : Nat) :
    Die.reset.waysFor 0 line now ≠ [] ∧
      ({ Die.reset with qway := [(sliceOf (line * 128), { QWay.reset with ways := 0xFFFF })] } : Die).waysFor 0 line now = [] := by
  have h : Die.reset.qway = [] := rfl
  have g : ∀ w < 16, (0xFFFF#16).getLsbD w = true := by decide
  constructor
  · simpa [Die.waysFor, h] using ⟨0, by decide⟩
  · simp only [Die.waysFor, Tab.look, ↓reduceIte,
      List.filter_eq_nil_iff, List.mem_map]
    rintro _ ⟨j, -, rfl⟩
    simpa using g _ (Nat.mod_lt _ (by decide))
/-- A repair of a kind is pending, and begun or not. -/
def repairing (kind : Nat) (busy : Bool) : State :=
  let r := (kind, cellOne)
  let s := visiting .clean 0
  s.setStack 2 { s.stack 2 with repair := { pend := some r, last := 0, busy := if busy then some r else none } }
theorem witness_AssaysAndErrors_errors : every [
    [Scrub.clean, .corrected, .uncorrectable true true, .uncorrectable false false].all fun x =>
      [0, 2 ^ 41 - 1, 2 ^ 41, 2 ^ 42 - 1].all fun n =>
        let s := visiting x n
        decide (s.about.scrub = x ∧ n = n / 2 ^ 41 * 2 ^ 41 + n % 2 ^ 41 ∧ n / 2 ^ 41 < 2 ∧
          (s.die (dieOfStack 2)).lines.look (cellKey 2 cellOne / 128) = none),
    (let s := visiting (.uncorrectable true true) 0
     ((s.die 0).lines.look (keyOf 0 0 true 0 / 128)).any fun e => e.owner == 0),
    ((visiting .clean 0).die 0).qway.look 4 == some { QWay.reset with held := true },
    ((visiting .clean 0).stack 2).repair.pend.isNone,
    [0, 3].all fun kind => [true, false].all fun busy =>
      let k := (repairing kind busy).stack 2
      decide (k.repair.pend = some (kind, cellOne) ∧ k.faultMap = [] ∧
        k.repair.busy = if busy then some (kind, cellOne) else none)] = true := by decide +kernel

/-- The host writes a value at an offset of the register window. -/
def writing (stage offset value : Nat) : State :=
  { staged stage 1000 with about := { die := 3, ctx := 5, index := offset, value := BitVec.ofNat 64 value } }
theorem witness_PlatformEvents : every [
    [0, 1, 2, 3, 7].all fun stage => (staged stage 0).dev.stage == stage,
    (writing 3 0 0).about.value.toNat % 65536 == 0, (imageError (staged 3 0).dev.images).isNone,
    ((staged 3 0).groups.all fun g => g.2.ctx != 5) && (staged 3 0).ops.isEmpty && (staged 3 0).saved.isEmpty,
    (staged 3 0).groups.any fun g => g.2.ctx == 0,
    (let s := staged 3 0
     decide ((s.context 0).harra.toNat % 64 = 0) && (s.locate none 0 (s.context 0).harra .atomic true).isOk),
    [0, 3, 4].all fun j => decide ((writing 2 j 0).about.index = j ∧ (writing 2 j 0).about.ports = []),
    ({ staged 2 0 with dev := { (staged 2 0).dev with idBusy := true } }).dev.idBusy,
    [(999, false), (1000, true)].all fun x => decide ((staged 3 x.1).tick = (staged 3 x.1).dev.nextSample) == x.2,
    ({ staged 3 0 with about := { rails := [{ mv := 5, ma := 70000, mw := 12, uj := 9 }] } }).about.rails.length == 1,
    ([(0x19, 5), (0x18, 77), (0x20, 4000), (0x130430, 64), (0x130430, 65), (0x100430, 0), (0x300508, 0xFFF), (0x300510, 0x12345678),
        (0x303F08, 1)] : List (Nat × Nat)).all fun x => (writing 3 x.1 x.2).about.index == x.1,
    [0x130430, 0x300508].all fun o => decide (0x100000 ≤ o ∧ (writing 2 o 0).dev.stage ≠ 3),
    decide (0x130430 = 0x100000 + 0x10000 * 3 + 0x430 ∧ 0x300508 = 0x300000 + 0x100 * 5 + 8 ∧
        0x300510 = 0x300000 + 0x100 * 5 + 0x10 ∧
      4000 % 2 ^ 32 ≤ 4000)] = true := by decide +kernel

/-- Port 4 in a state, and an event about it at a tick. -/
def onPort (q : Port) (tick : Nat) (value : Nat) : State :=
  { (staged 3 tick).setPort 4 q with about := { port := 4, switch := 4, value := BitVec.ofNat 64 value } }
/-- The host accesses device memory within a window of die 0. -/
def accessing (a : HostAccess) (index : Nat) : State :=
  { (staged 3 0).onDie (index / 2 ^ 39) fun d => { d with hostWin := [(2, { base := 0, limit := 0, r := false, w := true })], lines := [(0, { owner := 3, way := 2 })] } with
    about := { index := index, access := some a } }
/-- A flit of zeros, number 0. -/
def zeroFlit : List Byte := List.replicate 256 0
/-- Its check sum. -/
theorem crc64_zeros (n : Nat) : crc64 (List.replicate n 0) = 0 := by
  have h : crcByte 0 0 = 0 := by decide +kernel
  unfold crc64
  induction n with
  | zero => rfl
  | succ n ih => rw [List.replicate_succ, List.foldl_cons, h, ih]
/-- A flit that is in its place where the port's number is 0 and out of it elsewhere, and one that is bad. -/
theorem witness_LinkEvents_flits : flitBad zeroFlit = false ∧ flitBad [] = true ∧
    flitField zeroFlit 2 2 / 4096 % 2 = 0 ∧ flitField zeroFlit 0 2 % 4096 = 0 := by
  have h : crc64 (zeroFlit.take 248) = 0 := by
    rw [show zeroFlit.take 248 = List.replicate 248 0 by decide +kernel]
    exact crc64_zeros 248
  refine ⟨?_, by decide +kernel, by decide +kernel, by decide +kernel⟩
  rw [flitBad, h]
  decide +kernel
theorem witness_LinkEvents : every [
    [true, false].all fun g => [true, false].all fun pend =>
      let s := staged 3 0
      let s : State := { s with dev := { s.dev with fabPend := pend }, about := { table := some (.egt g), index := 511, value := 0x201 } }
      decide (s.dev.stage = 3 ∧ s.about.table = some (.egt g) ∧ s.about.index < 512 ∧ s.dev.fabGen = false ∧
          s.dev.fabPend = pend),
    [0, 1, 4, 5].all fun v =>
      let s := onPort Port.reset 0 v
      decide (s.dev.fabPend = false ∧ s.dev.devnum < 512 ∧ s.dev.fabGen = false) &&
          (List.range 32).all fun k => !(s.port k).down,
    [1, 511].all fun p =>
      let s : State := { onPort Port.reset 0 0 with about := { switch := 31, port := p } }
      decide (p ≠ (s.switch 31).landing false s.dev.devnum ∧ p < 512 ∧ (s.switch 31).downPorts = [] ∧
          (s.switch 31).markers0 = [] ∧ (s.switch 31).markers1 = [] ∧
        s.about.flag = false),
    [0, 5].all fun rx =>
      let s : State := { onPort { Port.reset with rxSeq := rx } 0 0 with about := { port := 4, flit := zeroFlit } }
      decide (s.about.port < 32 ∧ (s.port 4).retraining = none ∧ (s.port 4).down = false ∧ (s.port 4).rxSeq = rx),
    [2 ^ 20 + 2, 2 ^ 20 + 3].all fun tick =>
      let s := onPort { Port.reset with retraining := some 3 } tick 0
      (s.port 4).retraining == some 3 && !(s.port 4).down && (s.cores.all fun c => c.2.reqs.isEmpty) &&
        (decide (3 + 2 ^ 20 ≤ s.tick) == decide (tick = 2 ^ 20 + 3)),
    (let s := after (.xld 0 4 5 8) remote
     s.cores.any fun c => c.2.reqs.any fun r => !(s.port r.strait).down && (s.ops.look r.op).any fun o => o.ctx == 0),
    ((onPort { Port.reset with down := true } 0 0).port 4).down && !((onPort Port.reset 0 0).port 4).down,
    [0, 1].all fun link =>
      let s : State := { (staged 3 0) with contexts := [], about := { die := 3, index := link } }
      let t := s.onDie 3 fun d => { d with cxlDown := [link] }
      !(s.die 3).cxlDown.contains link && (t.die 3).cxlDown.contains link && s.contexts.all fun c => !c.2.en,
    [(5, 2, true), (4, 0, false)].all fun (x : Nat × Nat × Bool) =>
      let s : State := { (staged 3 0).setReport 31 { Report.reset with width := 12, period := 1, thr := x.1, hor := x.2.1 } with
        cycle := 7 * 3 * 2 ^ 24,
        about := { link := some (.strait 31), eye := some { width := 10, height := 3, lane := 1, fecc := 5, fecu := 0,
                                                            replays := 0, retrains := 0 } } }
      s.about.link.any fun l => s.about.eye.any fun e =>
        let r := s.report (linkKey l)
        let slope := ((e.width : Int) - r.width) * 64 / 2
        every [r.period < s.tick / 2 ^ 24, slope == -64, decide ((e.width : Int) + slope * (r.hor : Int) < (r.thr : Int)) == x.2.2],
    [(3, 4 * 2 ^ 39), (2, 0)].all fun x => let s : State := { accessing (.read 4) x.2 with dev := { (staged 3 0).dev with stage := x.1 } }
      decide (s.dev.stage ≠ 3 ∨ 4 ≤ s.about.index / 2 ^ 39) && s.about.access.isSome,
    (let s := accessing (.write [1, 0, 3, 4]) (2 ^ 39 + 0x41)
     let key := hbmKey 1 0x41
     every [s.dev.stage == 3, s.about.index / 2 ^ 39 == 1, s.about.index % 2 ^ 39 == 0x41, key % 128 == 0x41,
       (s.die 1).hostWin.any fun w => decide (w.1 < 8) && w.2.permits 0x41 4 true && !w.2.permits 0x41 4 false &&
         !w.2.permits 0x10041 4 true && (s.die 1).hostWin.length == 1,
       (List.range 4).all fun j => hbmKey 1 (0x41 + j) == key + j &&
           !s.accessHeld (key + j), !(s.retired key || s.linkLost key)]),
    (let s := (accessing (.read 4) 0x41).onDie 0 fun d => { d with hostWin := [(2, { base := 0, limit := 0, r := true, w := false })] }
     (s.die 0).hostWin.any fun w => decide (w.1 < 8) && w.2.permits 0x41 4 false && !w.2.permits 0x41 4 true &&
       (List.range 4).all fun j => !s.accessHeld (hbmKey 0 (0x41 + j)))] = true := by decide +kernel

/-! ## Witnesses: steps -/

/-- The wave is to issue: the word at 0x1000 is lit's and its second word follows, or add's. -/
def issuing (words : List Nat) : State :=
  { machine (waveWith [] [(4, 0x11), (5, 0x11)]) with
    mem := bytesL 0x1000 (words.flatMap (le 4)), schedule := [.issue 0 0], cur := .none }
theorem witness_StepRunsTheDecodedInstruction_cores : [[0x00830205], [0x290A0000, 0x3FC00000]].all (fun words =>
    let s := issuing words
    let s0 : State := { s with schedule := [], cur := .wave 0 0 0, view := none }
    match s0.frame? with
    | some fr =>
      every [s.nextFragments 0 0 == [(0, 0, 0)], s.blockFree 0 0 1,
        (match s0.locate (some fr.g.core) fr.g.ctx 0x1000 .fetch fr.priv with
          | .ok key => decide (key = 0x1000 ∧ (s0.core fr.g.core).ro.look (roKey fr.g.ctx 0x1000) = none ∧
              s0.accessHeld key = false ∧
              s0.poisonedIn key 4 = false ∧ spaceOf key < 8) &&
              (slotsOf fr.act).all fun t => s0.roInOrder fr.g.core fr.gid fr.wid t s0.nextOp key 4
          | .error _ => false),
        s0.dies.all fun d => !d.2.smp.ctl.getLsbD 0, !Die.reset.smp.ctl.getLsbD 0,
        (match s0.fetchWord fr (pcAddr fr.f.pc) with
          | (u, .got w) => wordIsLong w == decide (words.length = 2) && match u.fetchWord fr (pcAddr fr.f.pc + 4) with
              | (_, .got _) => true
              | _ => false
          | _ => false),
        (match s0.fetch fr with
          | (u, .got (_, .instr i)) => !u.interlocked fr i && !u.fenced fr i && decide (fr.w.readyAt i ≤ u.cycle) &&
              match exec i u with
              | .next _ => true
              | _ => false
          | _ => false)]
    | none => false) = true := by decide +kernel
/-- nop, and lit of two words, on an engine and on a walker; and an event. -/
theorem witness_StepRunsTheDecodedInstruction_units : every [
    [(0x86000000, 0), (0x290A0000, 0x3FC00000)].all fun x =>
      let p := { lanes 0 with pc := 510 }
      let s := onBank p
      let s := s.setEngine 0 { s.engine 0 with store := if x.2 = 0 then [(510, x.1)] else [(510, x.1), (511, x.2)] }
      p.spent == false && (s.engine 0).prog == some p && match decode x.1 (if wordIsLong x.1 then x.2 else 0) with
        | .instr i => match exec i { s with schedule := [], cur := .bank 0 } with
          | .next _ => true
          | _ => false
        | _ => false,
    [(0x86000000, 0), (0x290A0000, 0x3FC00000)].all fun x =>
      let c : Command := { walkCommand 0x2000 with image := [0, 0, 0, 0, x.1, x.2] }
      let s : State := { onWalk [] [] 0x2000 with commands := [(7, c)] }
      let counted := s.countWalker 7 c
      let w := walkerWith [] []
      decide (s.walkers.look 0 = some w ∧ s.commands.look w.cmd = some c ∧ w.place = .running 0 ∧ c.spent = false ∧
          w.pc % 4 = 0 ∧
        w.pc / 4 + 1 < c.image.length ∧ c.imageBad = []) && match decode x.1 (if wordIsLong x.1 then x.2 else 0) with
        | .instr i => match exec i { counted with schedule := [], cur := .walker 0 } with
          | .next _ => true
          | _ => false
        | _ => false,
    !Instr.sleepWake.encodable] = true := by decide +kernel
/-- The form of memory, kept by a step that stores and by one that does not; and the premises of DecodeReadsBackEveryEncoding. -/
theorem witness_StepKeepsMemoryCanonical : [[0x00830205], [0x290A0000, 0x3FC00000]].all (fun words =>
    Memory.wf (issuing words).mem && match step (issuing words) with
      | .next t => Memory.wf t.mem
      | _ => false) = true := by decide +kernel
theorem witness_DecodeReadsBackEveryEncoding : [Instr.add 3 127 127 127, .lit 10 0x3FC00000, .jmp 0x8000, .exit 0].all (fun i =>
    i.encodable && i.wellFormed) = true := by decide +kernel
theorem witness_MemoryReadsBack : Memory.wf (issuing [0x00830205]).mem = true := by decide +kernel

/-! ## Witnesses: traps of values, loop ends, matrix poison -/

/-- Two slots with different words in v4 under MODE.inv_trap, zeros in v5 and small numbers in v6. -/
def invalid (tag etype : Byte) (x y : Word) : State :=
  machine { waveWith [] ((List.range 6).map fun j => (4 + j, tag)) with
    regs := [(4, [(0, x), (1, y)]), (6, [(0, 7), (1, 8)])], mode := 0x44400000 ||| (etype.setWidth 32 <<< 8) }
/-- The hypotheses of Rule.TrapsInvalid, of one slot alone and of both. -/
def invalidMet (s : State) (r : Rule) (bad : DWord) : Bool :=
  meets s r.instr fun fr => !isUniform r.instr && decide (fr.TrapsTo s) && r.passes fr.look && modeInvTrap fr.v.mode &&
    maskWhere (fun t => inMask (r.slots fr) t && hasIV (r.flags fr.look t)) == bad && fr.w.emptyEntry == some 1
theorem witness_TrapsInvalid : every [
    (floatCompareRules 0 6 4 5).all fun r => invalidMet (invalid 0x20 0x20 0x7F800001 0x3F800000) r 1,
    ((floatRules 0 6 4 5).take 3).all fun r => invalidMet (invalid 0x20 0x20 0x7F800001 0x7F800001) r 3,
    ((packedRules 0 6 4 5).take 3).all fun r => invalidMet (invalid 0x21 0x20 0x7C01 0x3C00) r 1,
    ((convertRules 0 6 4 5).take 1).all fun r => invalidMet (invalid 0x20 0x10 0x7F800001 0x3F800000) r 1,
    (reductionRules 0 6 4).take 1 |>.all fun r => invalidMet (invalid 0x20 0x20 0x7F800000 0xFF800000) r.together 3] = true := by
  decide +kernel
/-- A source of no class, sources of two classes, a destination that is no number, on each unit. -/
theorem witness_TagFaults_dots : ([(9, 4, 0x10, 0x20, 0x31), (9, 0, 0x11, 0x31, 0x22), (9, 4, 0x12, 0x31, 0x31)] :
    List (Reg × Reg × Byte × Byte × Byte)).all (fun x =>
      let t := { alike 0x30 with tags := [(4, x.2.2.2.1), (5, x.2.2.2.2), (9, x.2.2.1)] }
      (dotRules 0 x.1 x.2.1 5).drop 2 |>.all fun r => meets t.core r.instr fun fr => !isUniform r.instr &&
          decide (fr.TrapsTo t.core) &&
        !r.needs fr.look && (fr.look.ok (x.1, fun t => t = 0x10 || t = 0x11 || t = 0x20) == (x.2.2.1 != 0x12))) = true := by
  decide +kernel
/-- A rounding mode, a reserved bit, an element type and a guard that MODE refuses. -/
theorem witness_ControlRegisters_refused : ([0x44052000, 0x44802000, 0x44000000, 0x440020FF] : List Word).all (fun x =>
    let s := machine { waveWith [(4, x)] [(4, 0x11)] with priv := true }
    [Instr.setm 0 4 0, .setmi x].all fun i => meets s i fun fr => decide (fr.TrapsTo s) && fr.v.reg 4 fr.u == x &&
      waveModeBad 64 x && waveModeBad fr.g.regs x == (x != 0x440020FF || decide (fr.g.regs ≤ 0x7F))) = true := by decide +kernel
/-- A wave whose fragment, both slots of it or slot 0, is at the end of a loop, inside another that ends there or not. -/
def ending (count : Word) (alone outer : Bool) : State :=
  flow fun w => { linked (some 1) ([(1, .join { recordOf (if alone then 3 else 1) (some 3) (some 1) with arrived := if alone then 0 else 2 })] ++
      [(3, .join { recordOf 3 none (if outer then some 0 else none) with arrived := 0 })]) true w with
    live := 7, nextLoop := 2,
    loops := { id := 1, start := 0x3F0, stop := 0x400, count := count, mask := if alone then 3 else 7 } ::
      (if outer then [{ id := 0, start := 0x300, stop := 0x400, count := 5, mask := 7 }] else []) }
theorem witness_LoopEnds : ([(3, true, false), (2, true, true), (1, true, false), (1, true, true)] : List (Word × Bool × Bool)).all (fun x =>
    let s := ending x.1 x.2.1 x.2.2
    match s.frame? with
    | some fr => match fr.w.loops with
      | l :: rest => decide (fr.QuietInLoops ∧ l.mask &&& fr.act = fr.act ∧ l.stop = fr.f.pc ∧
          fr.w.loopRec l.id = some 1) &&
          (rest.all fun o => o.id != l.id && o.mask != 0 && (o.mask &&& fr.act != 0) && o.stop == l.stop) &&
          (match fr.w.join? 1 with
            | some j => decide (j.wait &&& ~~~fr.act = 0)
            | none => false) &&
          ((fr.w.freeEntry fr.ent).emptyEntry == some 0) &&
          (!x.2.2 || fr.w.loopRec 0 == some 3 && match fr.w.join? 3 with
            | some k => decide (k.wait &&& ~~~fr.act ≠ 0 ∨ k.wait = 3)
            | none => false)
      | [] => false
    | none => false) = true := by decide +kernel
/-- A handler that holds both slots and has dropped slot 1 or both, whose cr.TPC is an address or not. -/
def dropping (tmask tpc : DWord) (w : Wave) : Wave :=
  { handling w with live := 7, tmask := tmask, tpc := tpc,
                    split := [(0, .frag { fragOf 3 with pc := 0x800 }), (1, .frag { fragOf 4 with pc := 0x480, suspended := true })] }
theorem witness_TrapReturn_retired : [(1 : DWord), 4].all (fun m => meets (flow (dropping m 0x3000)) (.tret 0) fun fr =>
    decide (fr.Quiet ∧ fr.g.noneAtBar ∧ fr.w.notConverged fr.ent = false ∧ fr.w.tpc.extractLsb' 0 2 = 0 ∧
        fr.w.adopted = false ∧
      fr.w.alive &&& ~~~(fr.act &&& ~~~(fr.w.tmask &&& fr.act)) ≠ 0)) = true := by decide +kernel
theorem witness_TrapReturn_double : [Instr.trap 1 2, .tret 0].all (fun i => meets (flow (dropping 3 0x3002)) i fun fr =>
    decide (fr.act ≠ 0 ∧ tsNest fr.w.tstat = true ∧ (flow (dropping 3 0x3002)).gangSize fr.g = 1 ∧
        fr.w.tpc.extractLsb' 0 2 ≠ 0) &&
      fr.g.waves.all fun w => w.2.dfr.isNone && w.2.efr.isNone) = true := by decide +kernel
/-- Rows of two slots, and one of two live slots beside poison in the weights or in the accumulator. -/
theorem witness_MatrixEntriesComplete_rows : every [
    ([(0, 0x100), (1, 0x300)] : List (Nat × Nat)).all fun r => isScratch (scratchKey 0 r.2) &&
        (elemOf 0x33).any fun f => f.bits == 4,
    [(true, false), (false, true)].all fun x =>
      let s := running (entryOf (.wbz 2))
      let t := { withMatrix { (s.core 0).mat with slots := [(1, { slotI8 with poison := x.1 })],
                                                  accs := [(2, { Accum.zero with poison := x.2 })] } s with cur := s.cur }
      decide ((slotIn t 1).poison = x.1 ∧ (accIn t 2).poison = x.2) &&
        (t.wave? 0 0).any fun w => decide (w.alive &&& ~~~maskOf [1] ≠ 0)] = true := by decide +kernel

/-! ## Witnesses: layouts, lists, merges and launches -/

/-- A record of kind k at place 0 from row 0x80 on, which the page at 0x200000 follows, and its completion. -/
def laying (k elem place : Nat) : State × List Byte :=
  let h := le 4 0 ++ le 4 (k + 256 * elem) ++ le 4 3 ++ le 4 5 ++ le 4 24 ++ le 4 0 ++ le 8 0 ++ le 8 65536 ++ le 4 place ++ le 4 0x80 ++ le 16 0
  (withTables [(0, 0x200093)] (withOp (copier 0 0) (opOf (.layout h 0x1000 0x2000 [(0x40, 0x3000)]) (some .cp) []) 0), h)
theorem witness_LayoutCopies_kinds : ([(0, 1, 0), (1, 1, 0), (2, 2, 0), (1, 1, 1)] : List (Nat × Nat × Nat)).all (fun x =>
    let (s, h) := laying x.1 x.2.1 x.2.2
    let va := BitVec.ofNat 64 (shapeDouble h 0x18)
    !shapeBad h && decide (shapeRows h ≠ 0 ∧ shapeNeeds h ≤ 65536 ∧ s.registered 0 0 = [] ∧
        (s.die 0).registrations < 8192) &&
      !s.regionInUse 0 va && s.cellsFree [0x1000, 0x3000] && match s.pagesAt 0 0 va 65536 with
        | .ok frames => let r := shapeRegion 0 h frames
          (shapeKind h == 0 || bankLocal 0 r.stack r.pch r.sid r.rowBase frames &&
              !frames.any (s.movedFrame 0)) == decide (x.2.2 = 0)
        | _ => false) = true := by decide +kernel
/-- A good descriptor's pages are in tier 0 of its home die. -/
theorem witness_RetrievalInstructions_good : [0, 3].all (fun degree =>
    let s := registering (descriptor 5 degree 3) 0
    let x := indexOf 0 0x5000 0x5000 (descriptor 5 degree 3)
    !descriptorBad (descriptor 5 degree 3) && (s.indexAt 0 0x5000).isNone && (s.registered x.die 0).isEmpty &&
      (indexExtents x).all fun p => vaDevice p.1 == s.dev.devnum && vaDie p.1 == x.die && p.1.extractLsb' 48 4 == 0 &&
        match s.pagesAt x.die 0 p.1 p.2 with
        | .ok frames => !frames.any (s.movedFrame x.die)
        | _ => false) = true := by decide +kernel
/-- A scan by a predicate, by top k and of a region; a walk with its heap. -/
def scanning (topk region : Bool) : Command :=
  { searching 1 with topk := topk, index := if region then none else some 0x5000, region := if region then some 0x40000 else none,
                     pop := 3, ftag := 0x10, opA := 0x350E0700, cap := 2, foff := 4, recsz := 12 }
theorem witness_EngineEvents_scans : every [
    [(false, false), (true, false), (false, true)].all fun x =>
      let c := scanning x.1 x.2
      let s := (answering c).onDie 0 fun d => { d with regions := if x.2 then [shapeRegion 0 (laying 0 2 0).2 [0x50001]] else [] }
      decide (s.commands.look s.about.op = some c ∧ c.accepted = true ∧ c.answer = none ∧ c.kind = 1 ∧ c.topk = x.1 ∧
        min c.cap 3 ≤ c.outKeys.length ∧ UnitsKeep s c.outKeys ∧ s.poison = []) &&
        (x.2 || (c.index.bind (s.indexAt c.ctx)).isSome),
    (let c := { searching 2 with heap := [⟨5, 1⟩, ⟨7, 2⟩], ended := 3 }
     decide ((answering c).walkers = [] ∧ c.heap.length < c.outKeys.length ∧ c.heap.length ≤ c.k ∧
       UnitsKeep (answering c) c.outKeys))] = true := by decide +kernel
/-- Merges of two whose first input is poisoned; a merge with one list to come, for this device or another, whose phase was read
or not, whose port is up or down. -/
theorem witness_MergeEvents_ends : every [
    ([(true, some 0), (true, none), (false, some 9), (false, none)] : List (Bool × Option Word)).all fun x => [true, false].all fun down =>
      let root : DWord := if x.1 then 0x1000 else 1 <<< 55
      let m : Merge := { Tests.held with arrived := 2, root := root, object := root + 0x40, phase := x.2 }
      let l : MergeList := { reducing with root := root, object := root + 0x40, op := none }
      let s := arriving [m] []
      let s : State := { s.setPort 5 { s.port 5 with down := down } with about := { s.about with list := some l } }
      let keys := s.unitKeys none m.ctx m.root (16 + 16 * m.k) 16 .store false
      decide (s.about.list = some l ∧ s.about.switch = l.mergeId.toNat % 32 ∧ l.op = none ∧ m.arrived + 1 = m.parts) &&
        (vaDevice m.root == s.dev.devnum) == x.1 && (s.port 5).down == down &&
        (((s.enters 5 s.about.flag).settleSwitch 5).switch 5).merges == [m] && (s.switch 5).done.isEmpty &&
        (!x.1 || (s.rangeCause none m.ctx m.root (16 + 16 * m.k) .store false).isNone && decide (m.k ≤ 256 ∧
            UnitsKeep s keys) &&
          (s.locate none m.ctx m.object .atomic false).isOk),
    (let s := { merging 3 3 4 with poison := [(0x101, ())] }
     s.poisoned 0x1010 && !s.poisoned 0x2000)] = true := by decide +kernel
/-- A card of records at 0x4000 on core 1: of tiles, without one, bad. -/
def carded (chunks : List Chunk) (tags : Tab TagEnt) : State × Launch :=
  let l : Launch := { unitThree with card := some { recs := 0x4000, count := 3, stride := 32 }, chunks := chunks, next := 0,
                                     hdr := { small with isles := 1, cores := 2 } }
  let record : List Byte := le 4 1 ++ le 12 0 ++ le 8 0x5000 ++ le 8 0
  let s := withTables [(0, 0x200093)] ((placing l).onCore 1 fun c => { c with sreg := 2, sscr := 1, tags := tags })
  ({ s with mem := sorted (s.mem ++ bytesL 0x4000 (record ++ le 8 0 ++ le 8 1)), about := { core := 1 } }, l)
/-- The tiles of record 0 are waited for, the first of them found, to be filled, or without a slot. -/
def tiling (tile : Nat) : Chunk := { core := 1, recs := [(0, [0x5000]), (2, [])], tile := tile, filled := [], noted := [] }
theorem witness_GroupsStart_cards : every [
    (let (s, l) := carded [] []
     s.runnable 0 l && decide (l.chunks = [] ∧ l.next < l.units ∧ s.saved = []) && s.takes 1 9 l.hdr &&
       s.recordTiles 0 l 0 == some [0x5000] && (s.recordTiles 0 l 1).isNone && s.recordTiles 0 l 2 == some []),
    ([(0, [(3, { ownTag with va := 0x5000 })], some 3), (0, [(0, { ownTag with pinned := true })], some 1),
        (0, (List.range 16).map fun j => (j, { ownTag with dirty := true }), none)] : List (Nat × Tab TagEnt × Option Nat)).all fun x =>
      let (s, l) := carded [tiling x.1] x.2.1
      let tags := (s.core 1).tags
      s.runnable 0 l && decide (s.saved = [] ∧ (tiling x.1).core = s.about.core) &&
          (s.groups.all fun g => g.2.image.isNone) &&
        ((tags.find? fun e => e.2.valid && e.2.va == 0x5000).map (·.1) == if x.2.2 = some 3 then some 3 else none) &&
        (((List.range 16).find? fun q => !(tags.any fun e => e.1 == q && e.2.valid && (e.2.dirty || e.2.pinned)) &&
          (x.2.2 != some 3 || q == 3)) == x.2.2) && (s.locate none 0 0x5000 .load false).isOk,
    (let (s, l) := carded [tiling 1] [(2, { ownTag with va := 0x5000, pinned := true })]
     s.runnable 0 l && s.takes 1 9 l.hdr && decide ([(0x5000 : DWord)].length ≤ (tiling 1).tile))] = true := by decide +kernel
/-- A gang's plan in a context that is to stop; an assay with tracked arrivals and contexts seen; an object to confirm. -/
theorem witness_SavesAndGangs_stopped : [true, false].all (fun stop =>
    let l := ganging 0 5 0 [(3, [0, 5])] 3
    let s := { (placing l).onContext 0 fun c => { c with stop := stop } with about := { ctx := 0, serial := 9, unit := 3 } }
    s.runnable 0 l == !stop && (s.context 0).launches.look 9 == some l) = true := by decide +kernel
theorem witness_AssaysAndErrors_tracks : every [
    [true, false].all fun flag =>
      let s0 := (assaying 20000 0 flag).onCore 24 fun c =>
        { c with seen := [0, 3], track := [{ ctx := 0, object := 0x40, phase := 0, count := 3 }] }
      (s0.core 24).assay == some 0 && decide (20000 ≤ s0.tick) && (s0.core 24).track.length == 1 &&
          (s0.core 24).seen == [0, 3] &&
        (s0.locate none 0 0x40 .atomic true).isOk,
    ([(0, 5), (1, 0xFFFFFFFE)] : List (Nat × Nat)).all fun x =>
      let s := { machine (waveWith [] []) with mem := bytesL 0x1000 (le 4 8 ++ le 12 0 ++ le 4 x.2 ++ le 12 0 ++ le 4 0) }
      decide (0x1000 % 64 = 0 ∧ isScratch 0x1000 = false ∧ (s.num 0x1020 4 = x.1 ↔ x.1 = 0) ∧ s.num 0x1010 4 = x.2) &&
        (List.range 64).all fun o => !(s.retired (0x1000 + o) || s.linkLost (0x1000 + o))] = true := by decide +kernel
/-- A restart of controllers; samples of a die above its limits; values of the power registers. -/
theorem witness_PlatformEvents_power : every [
    (let s := { staged 3 5 with commands := [(7, { walkCommand 0 with stack := 2 })], about := { value := 4 } }
     decide (imageError s.dev.images = none ∧ s.about.value.getLsbD 2 = true ∧ (s.stack 2).stopped = false)),
    (let s := (staged 3 1000).onDie 1 fun d => { d with power := { d.power with blEn := true, dwell := 1, blTemp := 50 } }
     decide (s.tick = s.dev.nextSample ∧ (s.die 1).power.dwell = (s.die 1).power.run + 1)),
    ([(0x110440, 1000), (0x110450, 0x155555555), (0x110450, 0), (0x110458, 0xABCDEF)] : List (Nat × Nat)).all fun x =>
      (writing 3 x.1 x.2).about.index == x.1 && (writing 3 x.1 x.2).dev.stage == 3] = true := by decide +kernel
/-- SHA-512 of the three bytes of "abc" (FIPS 180-4, example in its appendix C). -/
theorem test_sha512 : (sha512 [0x61, 0x62, 0x63]).take 8 = [0xDD, 0xAF, 0x35, 0xA1, 0x93, 0x61, 0x7A, 0xBA] := by decide +kernel

end Sys2Proof.Tests
end

/-! ## Going on after an instruction: what moving the slots of a wave leaves alone (05 R130, R132, R143)

Every operation that moves slots writes the split table and the loop stack. `Wave.KeepsRest` says that nothing else of
the wave changes; each operation has one lemma about it, in the order of the definitions of Machine/Split.lean. -/

namespace Sys2Proof.Machine

/-- The second wave differs from the first at most in its split table and its loops. -/
def Wave.KeepsRest (w w' : Wave) : Prop := { w' with split := w.split, loops := w.loops, nextLoop := w.nextLoop } = w

theorem Wave.KeepsRest.refl (w : Wave) : w.KeepsRest w := rfl

theorem Wave.KeepsRest.trans {a b c : Wave} (hab : a.KeepsRest b) (hbc : b.KeepsRest c) : a.KeepsRest c :=
  have hac : { c with split := a.split, loops := a.loops, nextLoop := a.nextLoop } =
      { b with split := a.split, loops := a.loops, nextLoop := a.nextLoop } :=
    congrArg (fun x : Wave => { x with split := a.split, loops := a.loops, nextLoop := a.nextLoop }) hbc
  hac.trans hab

theorem Wave.KeepsRest.foldl {α : Type} {f : Wave → α → Wave} (hf : ∀ (w : Wave) x, w.KeepsRest (f w x)) (xs : List α) (w : Wave) :
    w.KeepsRest (xs.foldl f w) := by
  induction xs generalizing w with
  | nil => exact .refl w
  | cons x xs ih => exact (hf w x).trans (ih (f w x))

/-! ### Entries and loops -/

theorem Wave.setFrag_keepsRest (w : Wave) (e : Nat) (f : Fragment) : w.KeepsRest (w.setFrag e f) := rfl

theorem Wave.setJoin_keepsRest (w : Wave) (e : Nat) (j : JoinRec) : w.KeepsRest (w.setJoin e j) := rfl

theorem Wave.freeEntry_keepsRest (w : Wave) (e : Nat) : w.KeepsRest (w.freeEntry e) := rfl

theorem Wave.onLoop_keepsRest (w : Wave) (id : Nat) (f : LoopEnt → LoopEnt) : w.KeepsRest (w.onLoop id f) := rfl

theorem Wave.dropLoop_keepsRest (w : Wave) (id : Nat) : w.KeepsRest (w.dropLoop id) := rfl

theorem Wave.relink_keepsRest (w : Wave) (m : DWord) (link : Option Nat) : w.KeepsRest (w.relink m link) := rfl

theorem Wave.sweep_keepsRest (w : Wave) : w.KeepsRest w.sweep := rfl

theorem Wave.onFrag_keepsRest (w : Wave) (e : Nat) (f : Fragment → Fragment) : w.KeepsRest (w.onFrag e f) := by
  unfold Wave.onFrag
  split
  · exact w.setFrag_keepsRest ..
  · exact .refl w

theorem Wave.arrive_keepsRest (w : Wave) (e : Nat) (m : DWord) : w.KeepsRest (w.arrive e m) := by
  unfold Wave.arrive
  split
  · exact w.setJoin_keepsRest ..
  · exact .refl w

theorem Wave.clearWait_keepsRest (w : Wave) (es : List Nat) (m : DWord) : w.KeepsRest (w.clearWait es m) := by
  refine Wave.KeepsRest.foldl (fun x e => ?_) es w
  split
  · exact x.setJoin_keepsRest ..
  · exact .refl x

/-! ### Satisfactions -/

/-- The wave a satisfaction leaves, whether its loop step was made or waits. -/
def Satisfied.wave : Satisfied → Wave
  | .ok w => w
  | .blocked w => w

theorem Wave.loopMove_keepsRest (w : Wave) (e : Nat) (l : LoopEnt) (parent : Option Nat) (m : DWord) :
    w.KeepsRest (w.loopMove e l parent m).wave := by
  unfold Wave.loopMove
  split
  case isTrue =>
    -- the last pass: the loop is popped, and may arrive at the end of the next one
    have hdrop := w.dropLoop_keepsRest l.id
    dsimp only
    split
    · split
      · split
        · exact hdrop.trans ((Wave.freeEntry_keepsRest ..).trans (Wave.arrive_keepsRest ..))
        · exact hdrop
      · exact hdrop
    · exact hdrop
  case isFalse =>
    split
    · exact .refl w
    · exact (w.onLoop_keepsRest ..).trans ((Wave.setJoin_keepsRest ..).trans (Wave.onFrag_keepsRest ..))

theorem Wave.satisfy_keepsRest (w : Wave) (e : Nat) (j : JoinRec) (now : Nat) :
    w.KeepsRest (w.satisfy e j now).wave := by
  unfold Wave.satisfy
  split
  case isTrue =>
    have hfree := w.freeEntry_keepsRest e
    dsimp only
    split
    · exact hfree
    · split
      · exact hfree
      · exact hfree.trans (Wave.loopMove_keepsRest ..)
  case isFalse =>
    have hfused := w.setFrag_keepsRest e (w.fused j now)
    dsimp only
    split
    · exact hfused
    · split
      · exact hfused
      · next l _ =>
        have hmove := hfused.trans (Wave.loopMove_keepsRest _ e l j.parent j.arrived)
        split
        · next h => rwa [h] at hmove
        · exact hfused.trans (Wave.onFrag_keepsRest ..)

theorem Wave.settle_keepsRest {strict : List Nat} {now n : Nat} {w w' : Wave} (h : w.settle strict now n = some w') :
    w.KeepsRest w' := by
  induction n generalizing w with
  | zero => cases h; exact .refl _
  | succ n ih =>
    have hsweep := w.sweep_keepsRest
    unfold Wave.settle at h
    dsimp only at h
    split at h
    · cases h; exact hsweep
    · next e j _ =>
      have hsat := hsweep.trans (w.sweep.satisfy_keepsRest e j now)
      split at h
      · next hok => rw [hok] at hsat; exact hsat.trans (ih h)
      · next hblocked =>
        rw [hblocked] at hsat
        exact hsat.trans (ih (Option.ite_none_left_eq_some.1 h).2)

theorem Wave.settled_keepsRest (w : Wave) (now : Nat) : w.KeepsRest (w.settled now) := by
  unfold Wave.settled
  cases h : w.settle [] now 40 with
  | none => exact .refl w
  | some w' => exact Wave.settle_keepsRest h

theorem Wave.resumeLoops_keepsRest (now n : Nat) (w : Wave) : w.KeepsRest (w.resumeLoops now n) := by
  induction n generalizing w with
  | zero => exact .refl w
  | succ n ih =>
    unfold Wave.resumeLoops
    split
    · exact .refl w
    · next e f id _ =>
      split
      · exact w.setFrag_keepsRest ..
      · next l _ =>
        have hmove := w.loopMove_keepsRest e l f.link f.mask
        split
        · exact .refl w
        · next hok =>
          rw [hok] at hmove
          exact hmove.trans ((Wave.onFrag_keepsRest ..).trans ((Wave.settled_keepsRest ..).trans (ih _)))

/-! ### Transfers -/

theorem Wave.leaveLoop_keepsRest (w : Wave) (id : Nat) (m : DWord) (link : Option Nat) :
    w.KeepsRest (w.leaveLoop id m link).1 := by
  have hmask := w.onLoop_keepsRest id fun l => { l with mask := l.mask &&& ~~~m }
  unfold Wave.leaveLoop
  dsimp only
  split
  · exact hmask
  · exact hmask.trans (Wave.clearWait_keepsRest ..)

theorem Wave.leaveAll_keepsRest (w : Wave) (ids : List Nat) (m : DWord) (link : Option Nat) :
    w.KeepsRest (w.leaveAll ids m link).1 := by
  induction ids generalizing w link with
  | nil => exact .refl w
  | cons id ids ih => exact (w.leaveLoop_keepsRest id m link).trans (ih ..)

theorem Wave.place_keepsRest {f : Fragment} {gs : List (Pc × DWord)} {w w' : Wave} (h : w.place f gs = some w') :
    w.KeepsRest w' := by
  induction gs generalizing w with
  | nil => cases h; exact .refl _
  | cons g gs ih =>
    unfold Wave.place at h
    split at h
    · cases h
    · exact (w.setFrag_keepsRest ..).trans (ih h)

/-- The end of every transfer: what is due settles, then the loop steps that wait go on. -/
theorem Wave.settle_resumeLoops_keepsRest {strict : List Nat} {now n k : Nat} {w w' : Wave}
    (h : (w.settle strict now n).map (·.resumeLoops now k) = some w') : w.KeepsRest w' := by
  obtain ⟨x, hx, rfl⟩ := Option.map_eq_some_iff.1 h
  exact (Wave.settle_keepsRest hx).trans (x.resumeLoops_keepsRest now k)

theorem Wave.transfer_keepsRest {w w' : Wave} {e : Nat} {f : Fragment} {size : Nat} {rule : Leaves}
    {taken : List (Pc × DWord)} {stay : DWord} {now at' : Nat}
    (h : w.transfer e f size rule taken stay now at' = some w') : w.KeepsRest w' := by
  unfold Wave.transfer at h
  extract_lets arr arrived go base kept fresh w1 at h
  clear_value arr arrived go base kept fresh
  have hkept : w.KeepsRest w1 := by
    unfold w1
    split
    · exact w.setFrag_keepsRest ..
    · exact w.freeEntry_keepsRest e
  split at h
  · cases h
  · next w2 hplace =>
    have hplaced : w.KeepsRest w2 := hkept.trans (Wave.place_keepsRest hplace)
    extract_lets w3 at h
    have hleft : w.KeepsRest w3 := by
      unfold w3
      split
      · exact hplaced
      · exact hplaced.trans (Wave.KeepsRest.foldl
          (fun x g => (x.leaveAll_keepsRest ..).trans (Wave.relink_keepsRest ..)) taken w2)
    split at h
    · exact hleft.trans (Wave.settle_resumeLoops_keepsRest h)
    · split at h
      · exact hleft.trans ((Wave.arrive_keepsRest ..).trans (Wave.settle_resumeLoops_keepsRest h))
      · exact hleft.trans (Wave.settle_resumeLoops_keepsRest h)

theorem Wave.advance_keepsRest {w w' : Wave} {e : Nat} {f : Fragment} {size now : Nat}
    (h : w.advance e f size now = some w') : w.KeepsRest w' := Wave.transfer_keepsRest h

/-! ### The end of an instruction -/

/-- Going on puts back a wave whose slots alone have moved, and counts the progress. -/
theorem State.finish_eq_putWave (s : State) (fr : Frame) (w : Wave) (i : Instr) :
    ∃ w' : Wave, s.finish fr w i = (s.putWave fr w').moved ∧ w.KeepsRest w' := by
  unfold State.finish
  split
  · exact ⟨w, rfl, .refl w⟩
  · next f _ =>
    refine ⟨_, rfl, ?_⟩
    cases h : w.advance fr.ent { f with st := .ready } (sizeOf4 i / 4) s.cycle with
    | none => exact .refl w
    | some w' => exact Wave.advance_keepsRest h

/-- Settles O60: every operation between an instruction and its successor keeps all of the wave but its split table and
its loops (`Wave.advance_keepsRest`), and nothing but that wave is put back. -/
theorem goingOnKeepsTheRest : Obligations.GoingOnKeepsTheRest := by
  unfold Obligations.GoingOnKeepsTheRest
  intro s fr w i
  obtain ⟨w', hfinish, hrest⟩ := s.finish_eq_putWave fr w i
  rw [hfinish]
  exact ⟨⟨w', rfl, hrest⟩, fun _ => rfl⟩

end Sys2Proof.Machine

/-! ## Integer and pair arithmetic (04 R92, R93, R95, R96, R101, R105, R107)

A rule holds on every unit, and its instruction goes on, once an operation that agrees with the rule is the instruction's
meaning. So each of the twenty instructions needs its operation alone. -/

namespace Sys2Proof.Machine

/-! ### Rules that are modelled -/

/-- An operation that agrees with the rule is the meaning of its instruction. -/
def Rule.Modelled (r : Rule) : Prop := ∃ o : VecOp, r.Agrees o ∧ ∀ s, exec r.instr s = vec r.instr o s

theorem Rule.Modelled.holds {r : Rule} (h : r.Modelled) : r.Holds := by
  obtain ⟨o, hagrees, hexec⟩ := h
  exact Rule.holds_of_agrees hagrees hexec

/-- The rule raises no flag, and its tag checks are all it asks of the operands. -/
def Rule.Plain (r : Rule) : Prop := (∀ v, r.needs v = true) ∧ ∀ v t, r.flags v t = 0

theorem Rule.Plain.passes {r : Rule} (h : r.Plain) {v : View} (hchecks : (r.checks v).all v.ok = true) :
    r.passes v = true := by
  rw [Rule.passes, hchecks, h.1 v, Bool.and_self]

/-- An instruction whose rule is modelled and raises no flag goes on where the rule's checks pass. -/
theorem Rule.Modelled.goesOn {r : Rule} (h : r.Modelled) (hplain : r.Plain) {s : State} {fr : Frame}
    (hs : Starts s fr r.instr) (hchecks : (r.checks fr.look).all fr.look.ok = true) :
    ∃ w : Wave, exec r.instr s = .next (s.finish fr w r.instr) := by
  obtain ⟨o, hagrees, hexec⟩ := h
  have hpasses := hplain.passes hchecks
  have hquiet : ∀ t, hasIV (o.val fr.look t).flags = false := fun t => by
    simp only [hagrees.val _ t hpasses, hplain.2]
    rfl
  rw [hexec]
  exact vec_goesOn hs (hagrees.none hpasses) (.inr hquiet)

/-- The instructions of modelled rules without flags, each with its rule's checks, go on. -/
theorem goOn_of_modelled {l : List (Instr × List (Reg × (Byte → Bool)))} {rs : List Rule}
    (hl : ∀ v, l = rs.map fun r => (r.instr, r.checks v)) (hmodelled : ∀ r ∈ rs, r.Modelled) (hplain : ∀ r ∈ rs, r.Plain) :
    GoOn l := by
  intro s fr x hx hs hchecks _
  rw [hl fr.look] at hx
  obtain ⟨r, hr, rfl⟩ := List.mem_map.1 hx
  exact (hmodelled r hr).goesOn (hplain r hr) hs hchecks

/-! ### The operations of the instructions -/

theorem mulh_agrees (hold : BitVec 2) (d a b : Reg) : (mulhRule hold d a b).Agrees (arith d a (.reg b) mulHigh) :=
  ⟨rfl, rfl, rfl, fun _ _ => rfl, fun _ _ => rfl, fun v t _ => by
    show v.fit (v.signed a b) (mulHigh (v.int (v.signed a b) a t) (intOf 32 (v.signed a b) (v.reg b.toNat t).toNat)) = _
    rw [fit_eq, View.int_eq, intOf_eq_num, mulHigh_eq]; rfl⟩

theorem mad_agrees (hold : BitVec 2) (d a b : Reg) : (madRule hold d a b).Agrees (opMad d a b) :=
  ⟨rfl, rfl, rfl, fun _ _ => rfl, fun _ _ => rfl, fun v t _ => by
    show v.fit _ (v.int _ d t + v.int _ a t * v.int _ b t) = _
    rw [fit_eq, View.int_eq, View.int_eq, View.int_eq]; rfl⟩

/-- abs and neg, by any function that is theirs. -/
theorem sign_agrees (i : Instr) (d a : Reg) {f g : Int → Int} (h : ∀ x, f x = g x) :
    (signRule i d a f).Agrees (unary d a g) :=
  ⟨rfl, rfl, rfl, fun _ _ => rfl, fun _ _ => rfl, fun v t _ => by
    show v.fit _ (g (v.int _ a t)) = _
    rw [fit_eq, View.int_eq, ← h]; rfl⟩

theorem addl_agrees (d : Reg) (lit : Word) : (addlRule d lit).Agrees (opAddl d lit) :=
  ⟨rfl, rfl, rfl, fun _ _ => rfl, fun _ _ => rfl, fun v t _ => by
    show v.fit _ (v.int _ d t + intOf 32 _ lit.toNat) = _
    rw [fit_eq, View.int_eq, intOf_eq_num]; rfl⟩

/-- Pair instructions with a fitted result. -/
theorem fittedPair_agrees (i : Instr) (d : Reg) (cs : List (Reg × (Byte → Bool))) (z : View → Nat → Int) :
    (pairRule i d cs fun v t => fittedPair v (z v t)).Agrees (pairOp d cs fun v t => fit64 v (z v t)) :=
  pair_agrees i d cs cs _ _ rfl fun v _ => (fit64_eq v _).symm

/-- Pair shifts: an amount of 64 or more leaves nothing. -/
theorem shift64_agrees (i : Instr) (d a b : Reg) {f : DWord → Nat → DWord} (h : ∀ p n, 64 ≤ n → f p n = 0) :
    (pairRule i d (pairTags a ++ intTags [b]) fun v t => f (pairOf v a t) (v.reg b.toNat t).toNat).Agrees (shift64 d a b f) :=
  pair_agrees i d _ _ _ _ rfl fun _ _ => (shifted_out _ _ f (h _ _)).symm

theorem arithmeticRules_modelled (hold : BitVec 2) (d a b : Reg) (k : BitVec 7) (lit : Word) :
    ∀ r ∈ arithmeticRules hold d a b k lit, r.Modelled := by
  have habs : ∀ x : Int, (if x < 0 then -x else x) = (x.natAbs : Int) := fun x => by omega
  simp only [arithmeticRules, ← lesser_fun, ← greater_fun, List.forall_mem_cons]
  exact ⟨⟨_, arith_agrees .., fun _ => rfl⟩, ⟨_, arith_agrees .., fun _ => rfl⟩, ⟨_, arith_agrees .., fun _ => rfl⟩,
    ⟨_, mulh_agrees .., fun _ => rfl⟩, ⟨_, mad_agrees .., fun _ => rfl⟩, ⟨_, arith_agrees .., fun _ => rfl⟩,
    ⟨_, arith_agrees .., fun _ => rfl⟩, ⟨_, sign_agrees _ d a habs, fun _ => rfl⟩,
    ⟨_, sign_agrees _ d a fun _ => rfl, fun _ => rfl⟩, ⟨_, arithImm_agrees .., fun _ => rfl⟩,
    ⟨_, arithImm_agrees .., fun _ => rfl⟩, ⟨_, arithImm_agrees .., fun _ => rfl⟩, ⟨_, arithImm_agrees .., fun _ => rfl⟩,
    ⟨_, addl_agrees .., fun _ => rfl⟩, List.forall_mem_nil _⟩

theorem pairRules_modelled (hold : BitVec 2) (d a b : Reg) (k : BitVec 7) : ∀ r ∈ pairRules hold d a b k, r.Modelled := by
  simp only [pairRules, List.forall_mem_cons]
  exact ⟨⟨_, fittedPair_agrees .., fun _ => rfl⟩, ⟨_, fittedPair_agrees .., fun _ => rfl⟩,
    ⟨_, shift64_agrees _ d a b fun _ _ => BitVec.shiftLeft_eq_zero, fun _ => rfl⟩,
    ⟨_, shift64_agrees _ d a b fun _ _ => BitVec.ushiftRight_eq_zero, fun _ => rfl⟩,
    ⟨_, pair_agrees _ d _ _ _ _ rfl fun _ _ => rfl, fun _ => rfl⟩, ⟨_, fittedPair_agrees .., fun _ => rfl⟩,
    List.forall_mem_nil _⟩

theorem arithmeticRules_plain (hold : BitVec 2) (d a b : Reg) (k : BitVec 7) (lit : Word) :
    ∀ r ∈ arithmeticRules hold d a b k lit, r.Plain := by
  simp [arithmeticRules, Rule.Plain, arithRule, arithImmRule, mulhRule, madRule, signRule, addlRule]

theorem pairRules_plain (hold : BitVec 2) (d a b : Reg) (k : BitVec 7) : ∀ r ∈ pairRules hold d a b k, r.Plain := by
  simp [pairRules, Rule.Plain, pairRule]

/-- Settles O3: each of the twenty rules is modelled and raises no flag, and the statement lists their instructions with
their checks in the order of the rules. -/
theorem integerArithmetic : Obligations.IntegerArithmetic := by
  unfold Obligations.IntegerArithmetic
  have hmodelled : ∀ hold d a b k lit, ∀ r ∈ arithmeticRules hold d a b k lit ++ pairRules hold d a b k, r.Modelled :=
    fun hold d a b k lit => List.forall_mem_append.2 ⟨arithmeticRules_modelled hold d a b k lit, pairRules_modelled hold d a b k⟩
  have hplain : ∀ hold d a b k lit, ∀ r ∈ arithmeticRules hold d a b k lit ++ pairRules hold d a b k, r.Plain :=
    fun hold d a b k lit => List.forall_mem_append.2 ⟨arithmeticRules_plain hold d a b k lit, pairRules_plain hold d a b k⟩
  refine ⟨fun hold d a b k lit r hr => (hmodelled hold d a b k lit r hr).holds, fun hold d a b k lit => ?_⟩
  exact goOn_of_modelled (fun _ => rfl) (hmodelled hold d a b k lit) (hplain hold d a b k lit)

end Sys2Proof.Machine

/-! ## Ranked heaps (02 R67; 08 R236)

`Item.before` is the strict order of a total order of items, and `Item.same` its equality: four facts about the two keys of
an item say so, and what is said of heaps follows from them. -/

namespace Sys2Proof.Machine

/-! ### The order of items -/

theorem Item.before_iff {x y : Item} : Item.before x y = true ↔
    distKey x.dist < distKey y.dist ∨ distKey x.dist = distKey y.dist ∧ x.id.toNat < y.id.toNat := by
  simp only [Item.before, Bool.or_eq_true, Bool.and_eq_true, decide_eq_true_eq]

theorem Item.same_iff {x y : Item} :
    Item.same x y = true ↔ distKey x.dist = distKey y.dist ∧ x.id.toNat = y.id.toNat := by
  simp only [Item.same, Bool.and_eq_true, decide_eq_true_eq, BitVec.toNat_inj]

theorem Item.same_refl (x : Item) : Item.same x x = true := Item.same_iff.2 ⟨rfl, rfl⟩

theorem Item.before_trans {x y z : Item} (hxy : Item.before x y = true) (hyz : Item.before y z = true) :
    Item.before x z = true := by
  rw [Item.before_iff] at *
  omega

theorem Item.before_of_before_of_same {x y z : Item} (hxy : Item.before x y = true) (hyz : Item.same y z = true) :
    Item.before x z = true := by
  rw [Item.before_iff] at *
  rw [Item.same_iff] at hyz
  omega

theorem Item.before_of_not {x y : Item} (hsame : ¬Item.same x y = true) (hbefore : ¬Item.before x y = true) :
    Item.before y x = true := by
  rw [Item.before_iff] at *
  rw [Item.same_iff] at hsame
  omega

theorem Item.same_comm {x y : Item} (h : Item.same x y = true) : Item.same y x = true := by
  obtain ⟨hdist, hid⟩ := Item.same_iff.1 h
  exact Item.same_iff.2 ⟨hdist.symm, hid.symm⟩

/-! ### Insertion -/

/-- Ranked and free of items that are the same. -/
def Ranked (h : List Item) : Prop := h.Pairwise fun x y => Item.before x y = true

theorem ranked_cons {z : Item} {r : List Item} : Ranked (z :: r) ↔ (∀ y ∈ r, Item.before z y = true) ∧ Ranked r :=
  List.pairwise_cons

theorem rankInsert_cons (x y : Item) (r : List Item) : rankInsert x (y :: r) =
    if Item.same x y then y :: r else if Item.before x y then x :: y :: r else y :: rankInsert x r := rfl

theorem mem_of_mem_rankInsert {x y : Item} {h : List Item} (hy : y ∈ rankInsert x h) : y = x ∨ y ∈ h := by
  induction h with
  | nil => exact .inl (List.mem_singleton.1 hy)
  | cons z r ih =>
    rw [rankInsert_cons] at hy
    split at hy
    · exact .inr hy
    · split at hy
      · exact List.mem_cons.1 hy
      · rcases List.mem_cons.1 hy with rfl | hr
        · exact .inr List.mem_cons_self
        · exact (ih hr).imp_right (List.mem_cons_of_mem z)

theorem rankInsert_ranked {x : Item} {h : List Item} (hh : Ranked h) : Ranked (rankInsert x h) := by
  induction h with
  | nil => exact List.pairwise_singleton _ x
  | cons z r ih =>
    obtain ⟨hz, hr⟩ := ranked_cons.1 hh
    rw [rankInsert_cons]
    split
    · exact hh
    · next hne =>
      split
      · next hxz =>
        refine ranked_cons.2 ⟨fun y hy => ?_, hh⟩
        rcases List.mem_cons.1 hy with rfl | hy
        · exact hxz
        · exact Item.before_trans hxz (hz y hy)
      · next hxz =>
        refine ranked_cons.2 ⟨fun y hy => ?_, ih hr⟩
        rcases mem_of_mem_rankInsert hy with rfl | hy
        · exact Item.before_of_not hne hxz
        · exact hz y hy

/-- After an insertion the new item and each of the list's stand in the list, themselves or their like. -/
theorem exists_mem_rankInsert {x y : Item} {h : List Item} (hy : y = x ∨ y ∈ h) :
    ∃ z ∈ rankInsert x h, Item.same z y = true := by
  induction h with
  | nil =>
    rcases hy with rfl | hy
    · exact ⟨y, List.mem_singleton.2 rfl, Item.same_refl y⟩
    · cases hy
  | cons u r ih =>
    rw [rankInsert_cons]
    split
    · next hsame =>
      rcases hy with rfl | hy
      · exact ⟨u, List.mem_cons_self, Item.same_comm hsame⟩
      · exact ⟨y, hy, Item.same_refl y⟩
    · split
      · exact ⟨y, List.mem_cons.2 hy, Item.same_refl y⟩
      · rcases hy with rfl | hy
        · obtain ⟨z, hz, hsame⟩ := ih (.inl rfl)
          exact ⟨z, List.mem_cons_of_mem u hz, hsame⟩
        · rcases List.mem_cons.1 hy with rfl | hy
          · exact ⟨y, List.mem_cons_self, Item.same_refl y⟩
          · obtain ⟨z, hz, hsame⟩ := ih (.inr hy)
            exact ⟨z, List.mem_cons_of_mem u hz, hsame⟩

/-! ### The first k -/

/-- Of a ranked list, what the first k leave out comes after each of them, and they are k. -/
theorem Ranked.take_before {l : List Item} (hl : Ranked l) {k : Nat} {y : Item} (hy : y ∈ l) (hout : y ∉ l.take k) :
    (l.take k).length = k ∧ ∀ z ∈ l.take k, Item.before z y = true := by
  have hsplit := List.take_append_drop k l
  have hdrop : y ∈ l.drop k := (List.mem_append.1 (hsplit.symm ▸ hy)).resolve_left hout
  have hlong : k ≤ l.length := by
    have hpos := List.length_pos_of_mem hdrop
    rw [List.length_drop] at hpos
    omega
  refine ⟨List.length_take_of_le hlong, fun z hz => ?_⟩
  rw [Ranked, ← hsplit] at hl
  exact (List.pairwise_append.1 hl).2.2 z hz y hdrop

theorem heapsStayOrdered : HeapsStayOrdered := by
  intro k h x hh _
  have hranked : Ranked (rankInsert x h) := rankInsert_ranked hh
  refine ⟨List.Pairwise.take hranked, List.length_take_le .., fun y hy =>
    mem_of_mem_rankInsert (List.mem_of_mem_take hy), fun y hy => ?_⟩
  obtain ⟨z, hz, hsame⟩ := exists_mem_rankInsert hy
  by_cases hin : z ∈ heapInsert k h x
  · exact .inl ⟨z, hin, hsame⟩
  · obtain ⟨hlen, hbefore⟩ := hranked.take_before hz hin
    exact .inr ⟨hlen, fun u hu => Item.before_of_before_of_same (hbefore u hu) hsame⟩

end Sys2Proof.Machine

/-! ## Walker instructions (08 R235 to R237)

Each of them reads one slot of the walk's index through `State.onSlot`: the checks that can end the walker are proved
there once, and an instruction is then what it does with a slot that the index has. -/

namespace Sys2Proof.Machine

/-! ### A slot of the walk's index -/

/-- Where the checks do not all pass, one of them fails first. -/
theorem View.first_some {v : View} {cs : List (Reg × (Byte → Bool))} (h : ¬cs.all v.ok = true) : ∃ n, v.first cs = some n := by
  refine Option.isSome_iff_exists.1 ?_
  rw [View.first, Option.isSome_map, List.find?_isSome]
  simpa using h

section OnSlot

variable {s : State} {id : Nat} {w : Walker} {c : Command} {x : Index} {checks : List (Reg × (Byte → Bool))} {r : Reg}
  {k : Index → Nat → State}

theorem State.onSlot_of_wrongTag (h : ¬checks.all (w.look c.mode).ok = true) :
    s.onSlot id w c checks r k = s.endWalker id 0x02 := by
  obtain ⟨n, hn⟩ := View.first_some h
  unfold State.onSlot
  rw [hn]

theorem State.onSlot_of_outside (hx : c.index.bind (s.indexAt c.ctx) = some x)
    (h : checks.all (w.look c.mode).ok = true) (ht : x.slots ≤ (w.reg r.toNat).toNat) :
    s.onSlot id w c checks r k = s.endWalker id 0x06 := by
  unfold State.onSlot
  simp only [View.first_none h, hx, ht, if_true]

theorem State.onSlot_of_inside (hx : c.index.bind (s.indexAt c.ctx) = some x)
    (h : checks.all (w.look c.mode).ok = true) (ht : (w.reg r.toNat).toNat < x.slots) :
    s.onSlot id w c checks r k = k x (w.reg r.toNat).toNat := by
  unfold State.onSlot
  simp only [View.first_none h, hx, Nat.not_le.2 ht, if_false]

end OnSlot

/-! ### What a walker instruction leaves -/

theorem Walker.result_setReg_setTag (w : Walker) (n : Nat) (x : Word) (g : Byte) :
    w.Result ((w.setReg n x).setTag n g) n false (word x) (some g) 0 := by
  have hword : (word x).extractLsb' 0 32 = x := by
    rw [word, BitVec.extractLsb'_setWidth_of_le (by decide), BitVec.extractLsb'_eq_self]
  have hset := (w.setReg n x).setTag_rest n g
  have hrest : { (w.setReg n x).setTag n g with regs := w.regs, tags := w.tags } = w :=
    (congrArg (fun y : Walker => { y with regs := w.regs, tags := w.tags }) hset).trans
      (congrArg (fun y : Walker => { y with tags := w.tags }) (w.setReg_rest n x))
  have hflags : ((w.setReg n x).setTag n g).flags = w.flags := (congrArg Walker.flags hrest :)
  refine ⟨fun m => ?_, fun m => ?_, ?_, ?_⟩
  · rw [Walker.reg_of_regs (Walker.setTag_regs ..), Walker.reg_setReg, hword]
    simp
  · rw [Walker.tag_setTag, Walker.tag_of_tags (Walker.setReg_tags ..)]
    simp
  · simpa using hflags
  · exact congrArg (fun y : Walker => { y with flags := w.flags }) hrest

/-- An instruction gives a word with a tag to its register and goes on after it, leaving the walk's command as it is said. -/
def State.WalkerGives (s : State) (id : Nat) (w : Walker) (i : Instr) (d : Reg) (v : Word) (tag : Byte) (c : Command) : Prop :=
  ∃ w', exec i s = .next (s.walkOn id w' c 1).moved ∧ w.Result w' d.toNat false (word v) (some tag) 0

section Instruction

variable {s : State} {id : Nat} {w : Walker} {c c' : Command} {x : Index} {i : Instr} {hold : BitVec 2} {d a b : Reg}
  {k : Nat → Walker → Command → State}

/-- A starting instruction of walkers does its own effect. -/
theorem exec_onWalkerOnly (hs : WalkerStarts s id w c i) (hexec : exec i s = onWalkerOnly i s k) :
    exec i s = .next (k id w c).moved :=
  hexec.trans (onUnit_walker hs ..)

theorem walkerGives_of_walkResult {v : Word} {tag : Byte} (hs : WalkerStarts s id w c i)
    (hexec : exec i s = onWalkerOnly i s k) (h : k id w c = s.walkResult id w c' d v tag) :
    s.WalkerGives id w i d v tag c' :=
  ⟨_, by rw [exec_onWalkerOnly hs hexec, h]; rfl, w.result_setReg_setTag d.toNat v tag⟩

/-- A wrong tag in the slot's register ends the walker, whatever the instruction checks beside it. -/
theorem endWalker_of_wrongTag {more : List (Reg × (Byte → Bool))} {r : Reg} {eff : Index → Nat → State}
    (hs : WalkerStarts s id w c i) (hexec : exec i s = onWalkerOnly i s k)
    (h : k id w c = s.onSlot id w c (intTags [a] ++ more) r eff) (hbad : ¬(intTags [a]).all (w.look c.mode).ok = true) :
    exec i s = .next (s.endWalker id 0x02).moved := by
  have hbad' : ¬(intTags [a] ++ more).all (w.look c.mode).ok = true := fun hall => by
    rw [List.all_append, Bool.and_eq_true] at hall
    exact hbad hall.1
  rw [exec_onWalkerOnly hs hexec, h, State.onSlot_of_wrongTag hbad']

/-- A slot past the last ends the walker. -/
theorem endWalker_of_outside {eff : Index → Nat → State} (hs : WalkerStarts s id w c i)
    (hexec : exec i s = onWalkerOnly i s k) (h : k id w c = s.onSlot id w c (intTags [a]) a eff)
    (hx : c.index.bind (s.indexAt c.ctx) = some x) (hok : (intTags [a]).all (w.look c.mode).ok = true)
    (ht : x.slots ≤ (w.reg a.toNat).toNat) : exec i s = .next (s.endWalker id 0x06).moved := by
  rw [exec_onWalkerOnly hs hexec, h, State.onSlot_of_outside hx hok ht]

/-! ### The instructions on a slot that the index has -/

section Inside

variable (hx : c.index.bind (s.indexAt c.ctx) = some x)
include hx

theorem dist_gives (ht : (w.reg a.toNat).toNat < x.slots) (ha : (intTags [a]).all (w.look c.mode).ok = true)
    (hs : WalkerStarts s id w c (.dist hold d a)) (hvec : (s.slotVector x (w.reg a.toNat).toNat).2 = none)
    (hquery : c.queryBad = none) :
    s.WalkerGives id w (.dist hold d a) d (distance x.kind x.elem ((unpackBits x.elem.bits c.query).take x.dim)
      (s.slotVector x (w.reg a.toNat).toNat).1) 0x20 c := by
  refine walkerGives_of_walkResult hs rfl ?_
  refine (State.onSlot_of_inside hx ha ht).trans ?_
  simp only [hvec, hquery]

theorem vchk_gives (ht : (w.reg a.toNat).toNat < x.slots) (ha : (intTags [a]).all (w.look c.mode).ok = true)
    (hs : WalkerStarts s id w c (.vchk hold d a)) (hmeta : (s.slotMeta x (w.reg a.toNat).toNat).2 = none) :
    s.WalkerGives id w (.vchk hold d a) d
      (if (s.slotMeta x (w.reg a.toNat).toNat).1.2.1 ≤ c.snapshot.toNat ∧
        c.snapshot.toNat < (s.slotMeta x (w.reg a.toNat).toNat).1.2.2 then 1 else 0) 0x11 c := by
  refine walkerGives_of_walkResult hs rfl ?_
  refine (State.onSlot_of_inside hx ha ht).trans ?_
  simp only [hmeta, Bool.and_eq_true, decide_eq_true_eq]

theorem ferry_stays (ht : (w.reg a.toNat).toNat < x.slots) (ha : (intTags [a]).all (w.look c.mode).ok = true)
    (hs : WalkerStarts s id w c (.ferry hold a)) (hplace : w.place = .running (x.holder (w.reg a.toNat).toNat)) :
    exec (.ferry hold a) s = .next (s.walkOn id w c 1).moved := by
  have hferry : s.walkFerry id w c a = s.walkOn id w c 1 := (State.onSlot_of_inside hx ha ht).trans (if_pos hplace)
  rw [exec_onWalkerOnly hs rfl, hferry]

theorem ferry_moves (ht : (w.reg a.toNat).toNat < x.slots) (ha : (intTags [a]).all (w.look c.mode).ok = true)
    (hs : WalkerStarts s id w c (.ferry hold a)) (hplace : w.place ≠ .running (x.holder (w.reg a.toNat).toNat)) :
    exec (.ferry hold a) s = .next (s.walkOn id { w with
      place := .ferried (x.holder (w.reg a.toNat).toNat), regs := w.regs.filter fun e => e.1 ≤ 12,
      tags := w.tags.filter fun e => e.1 ≤ 12 } c 1).moved := by
  have hferry : s.walkFerry id w c a = s.walkOn id { w with
      place := .ferried (x.holder (w.reg a.toNat).toNat), regs := w.regs.filter fun e => e.1 ≤ 12,
      tags := w.tags.filter fun e => e.1 ≤ 12 } c 1 := (State.onSlot_of_inside hx ha ht).trans (if_neg hplace)
  rw [exec_onWalkerOnly hs rfl, hferry]

theorem heapi_gives (hok : (floatTags [a] ++ intTags [b]).all (w.look c.mode).ok = true)
    (ht : (w.reg b.toNat).toNat < x.slots) (hs : WalkerStarts s id w c (.heapi hold d a b))
    (hmeta : (s.slotMeta x (w.reg b.toNat).toNat).2 = none) {heap : List Item}
    (hheap : heapInsert c.k c.heap { dist := w.reg a.toNat, id := (s.slotMeta x (w.reg b.toNat).toNat).1.1 } = heap) :
    s.WalkerGives id w (.heapi hold d a b) d
      (if c.k ≤ heap.length then (heap.getLast?.map (·.dist)).getD 0x7F800000 else 0x7F800000) 0x20
      { c with heap := heap } := by
  refine walkerGives_of_walkResult hs rfl ?_
  refine (State.onSlot_of_inside hx hok ht).trans ?_
  simp only [hmeta, hheap]
  cases heap.getLast? <;> rfl

section Adjacency

variable (ht : (w.reg a.toNat).toNat < x.slots) (ha : (intTags [a]).all (w.look c.mode).ok = true)
  (hb : (intTags [b]).all (w.look c.mode).ok = true) (hs : WalkerStarts s id w c (.adj hold d a b))
include ht ha hb hs

/-- Once the checks of adj pass, what it gives for the slot decides. -/
theorem adj_gives_of_inside {v : Word} {eff : Index → Nat → State}
    (heff : s.walkAdj id w c d a b = s.onSlot id w c (intTags [a] ++ intTags [b]) a eff)
    (h : eff x (w.reg a.toNat).toNat = s.walkResult id w c d v 0x11) : s.WalkerGives id w (.adj hold d a b) d v 0x11 c := by
  have hab : (intTags [a] ++ intTags [b]).all (w.look c.mode).ok = true := by rw [List.all_append, ha, hb, Bool.and_self]
  exact walkerGives_of_walkResult hs rfl (heff.trans ((State.onSlot_of_inside hx hab ht).trans h))

theorem adj_gives_ones_of_degree (hdegree : x.degree = 0) : s.WalkerGives id w (.adj hold d a b) d 0xFFFFFFFF 0x11 c :=
  adj_gives_of_inside hx ht ha hb hs rfl (if_pos hdegree)

/-- The row of the slot starts with the number of its neighbours. -/
theorem adj_gives_ones_of_last (hdegree : x.degree ≠ 0) {n : List Byte × Option DWord}
    (hn : s.readArray x.die x.adj x.adjFrames (4 * (x.degree + 1) * (w.reg a.toNat).toNat) 4 = n) (hgood : n.2 = none)
    (hlast : min (numOf n.1) x.degree ≤ (w.reg b.toNat).toNat) : s.WalkerGives id w (.adj hold d a b) d 0xFFFFFFFF 0x11 c := by
  refine adj_gives_of_inside hx ht ha hb hs rfl ?_
  refine (if_neg hdegree).trans ?_
  simp only [hn, hgood]
  exact if_pos hlast

theorem adj_gives_neighbour (hdegree : x.degree ≠ 0) {n y : List Byte × Option DWord}
    (hn : s.readArray x.die x.adj x.adjFrames (4 * (x.degree + 1) * (w.reg a.toNat).toNat) 4 = n) (hgood : n.2 = none)
    (hj : (w.reg b.toNat).toNat < min (numOf n.1) x.degree)
    (hy : s.readArray x.die x.adj x.adjFrames
      (4 * (x.degree + 1) * (w.reg a.toNat).toNat + 4 * ((w.reg b.toNat).toNat + 1)) 4 = y) (hgood' : y.2 = none) :
    s.WalkerGives id w (.adj hold d a b) d (BitVec.ofNat 32 (numOf y.1)) 0x11 c := by
  refine adj_gives_of_inside hx ht ha hb hs rfl ?_
  refine (if_neg hdegree).trans ?_
  simp only [hn, hgood]
  refine (if_neg (Nat.not_le.2 hj)).trans ?_
  simp only [hy, hgood']

end Adjacency
end Inside
end Instruction

/-! ### The statement -/

theorem walkerInstructions_onSlots : WalkerInstructions := by
  intro s id w c hold d a b
  dsimp only
  refine ⟨fun i hi hs hbad => ?_, fun x hx => ⟨fun i hi hs ha ht => ?_, fun ht ha => ⟨?_, ?_, ?_, ?_⟩, ?_⟩⟩
  · simp only [List.mem_cons, List.not_mem_nil, or_false] at hi
    rcases hi with rfl | rfl | rfl | rfl
    · exact endWalker_of_wrongTag (more := []) hs rfl rfl hbad
    · exact endWalker_of_wrongTag (more := []) hs rfl rfl hbad
    · exact endWalker_of_wrongTag (more := intTags [b]) hs rfl rfl hbad
    · exact endWalker_of_wrongTag (more := []) hs rfl rfl hbad
  · rcases hi with rfl | rfl | rfl <;> exact endWalker_of_outside hs rfl rfl hx ha ht
  · exact fun hs hvec hquery => dist_gives hx ht ha hs hvec hquery
  · exact fun hs hmeta => vchk_gives hx ht ha hs hmeta
  · exact fun hs hb => ⟨adj_gives_ones_of_degree hx ht ha hb hs,
      fun hdegree hgood hlast => adj_gives_ones_of_last hx ht ha hb hs hdegree rfl hgood hlast,
      fun hdegree hgood hj hgood' => adj_gives_neighbour hx ht ha hb hs hdegree rfl hgood hj rfl hgood'⟩
  · exact fun hs => ⟨ferry_stays hx ht ha hs, ferry_moves hx ht ha hs⟩
  · exact fun hs hok ht hmeta => heapi_gives hx hok ht hs hmeta rfl

/-- Settles O42: the instructions by `State.onSlot` and what each does with a slot of the index, the heaps by the linear
order of ranks. -/
theorem walkerInstructions : Obligations.WalkerInstructions := by
  unfold Obligations.WalkerInstructions
  exact ⟨walkerInstructions_onSlots, heapsStayOrdered⟩

end Sys2Proof.Machine

/-! ## Decoding the words of an instruction (03 R72, R75 to R80, R82)

The fields of a word are what it was built from, so a row of the decoder that takes its fields to an instruction reads
that instruction back. Rows differ only in which fields they use: one lemma for each such form, and every instruction is
of one form. -/

namespace Sys2Proof

/-! ### Fields of words -/

section Fields

variable (op : BitVec 9) (hold : BitVec 2) (d a b k : Reg) (imm : BitVec 16)

@[simp] theorem fB_wordR : fB (wordR op hold d a b) = b := BitVec.extractLsb'_append_eq_right

/-- A field above b, in what stands before b. -/
theorem extractLsb'_wordR {start len : Nat} (h : 7 ≤ start) :
    (wordR op hold d a b).extractLsb' start len = (op ++ hold ++ d ++ a).extractLsb' (start - 7) len :=
  BitVec.extractLsb'_append_eq_of_le h

@[simp] theorem fA_wordR : fA (wordR op hold d a b) = a :=
  (extractLsb'_wordR op hold d a b (by decide)).trans BitVec.extractLsb'_append_eq_right

@[simp] theorem fD_wordR : fD (wordR op hold d a b) = d := by
  rw [fD, extractLsb'_wordR _ _ _ _ _ (by decide), BitVec.extractLsb'_append_eq_of_le (by decide)]
  exact BitVec.extractLsb'_append_eq_right

@[simp] theorem fHold_wordR : fHold (wordR op hold d a b) = hold := by
  rw [fHold, extractLsb'_wordR _ _ _ _ _ (by decide), BitVec.extractLsb'_append_eq_of_le (by decide),
    BitVec.extractLsb'_append_eq_of_le (by decide)]
  exact BitVec.extractLsb'_append_eq_right

@[simp] theorem fK_wordK : fK (wordK op k imm) = k :=
  (BitVec.extractLsb'_append_eq_of_le (by decide)).trans BitVec.extractLsb'_append_eq_right

/-- A part of the immediate of a K or B word, whose place is the same in the immediate. -/
theorem extractLsb'_wordK {start len : Nat} (h : start + len ≤ 16) :
    (wordK op k imm).extractLsb' start len = imm.extractLsb' start len :=
  BitVec.extractLsb'_append_eq_of_add_le h

@[simp] theorem fImm16_wordK : fImm16 (wordK op k imm) = imm := BitVec.extractLsb'_append_eq_right

theorem wordIsLong_eq (w : Word) : wordIsLong w = literalOp (fOp w).toNat := rfl

end Fields

theorem wordOfBytes_bytesOfWord (w : Word) : wordOfBytes (bytesOfWord w) = w := by
  have h16 : w.extractLsb' 24 8 ++ w.extractLsb' 16 8 = w.extractLsb' 16 16 :=
    BitVec.extractLsb'_append_extractLsb'_eq_extractLsb' rfl
  have h8 : w.extractLsb' 16 16 ++ w.extractLsb' 8 8 = w.extractLsb' 8 24 :=
    BitVec.extractLsb'_append_extractLsb'_eq_extractLsb' rfl
  change w.extractLsb' 24 8 ++ w.extractLsb' 16 8 ++ w.extractLsb' 8 8 ++ w.extractLsb' 0 8 = w
  rw [h16, h8]
  exact BitVec.extractLsb'_append_extractLsb'

/-! ### Reading a word back -/

/-- The words of an instruction are one word or two, as the mark of the first says, and its row of the opcode map takes
them to the instruction. -/
inductive ReadsBack (i : Instr) : Prop
  | short (w : Word) (hwords : encode i = [w]) (hlong : wordIsLong w = false)
      (hrow : decodeOp (fOp w).toNat w 0 = .instr i)
  | long (w lit : Word) (hwords : encode i = [w, lit]) (hlong : wordIsLong w = true)
      (hrow : decodeOp (fOp w).toNat w lit = .instr i)

/-- The checks of 03 R80 pass for a well-formed instruction. -/
theorem Decoded.checked_of_wellFormed {i : Instr} (h : i.wellFormed = true) : (Decoded.instr i).checked = .instr i := by
  obtain ⟨hformed, hnumbers⟩ := Bool.and_eq_true_iff.1 h
  have hmis : misformed i = none := by
    rw [misformed, Option.map_eq_none_iff, List.find?_eq_none]
    simpa using hformed
  simp only [Decoded.checked, hmis, hnumbers, if_true]

theorem decodeBytes_short {w : Word} (h : wordIsLong w = false) (rest : List Byte) :
    decodeBytes (bytesOfWord w ++ rest) = some (decode w 0, rest) := by
  have hword := wordOfBytes_bytesOfWord w
  unfold bytesOfWord at hword ⊢
  simp only [List.cons_append, List.nil_append, decodeBytes, hword, h, Bool.false_eq_true, if_false]

theorem decodeBytes_long {w : Word} (h : wordIsLong w = true) (lit : Word) (rest : List Byte) :
    decodeBytes (bytesOfWord w ++ (bytesOfWord lit ++ rest)) = some (decode w lit, rest) := by
  have hword := wordOfBytes_bytesOfWord w
  have hlit := wordOfBytes_bytesOfWord lit
  unfold bytesOfWord at hword hlit ⊢
  simp only [List.cons_append, List.nil_append, decodeBytes, hword, hlit, h, if_true]

theorem ReadsBack.decodeBytes_encode {i : Instr} (h : ReadsBack i) (hwf : i.wellFormed = true) (rest : List Byte) :
    decodeBytes ((encode i).flatMap bytesOfWord ++ rest) = some (.instr i, rest) := by
  have hchecked := Decoded.checked_of_wellFormed hwf
  cases h with
  | short w hwords hlong hrow =>
    rw [hwords, List.flatMap_singleton, decodeBytes_short hlong, decode, hrow, hchecked]
  | long w lit hwords hlong hrow =>
    rw [hwords, List.flatMap_cons, List.flatMap_singleton, List.append_assoc, decodeBytes_long hlong, decode, hrow, hchecked]

/-! ### The forms of rows -/

namespace ReadsBack

variable {op : BitVec 9} {hold : BitVec 2} {x y z : Reg} {imm : BitVec 16} {lit : Word}

/-- An R or I word whose row reads its fields, and takes those it was built from to the instruction. -/
theorem of_wordR {i : Instr} {row : BitVec 2 → Reg → Reg → Reg → Decoded} (hwords : encode i = [wordR op hold x y z])
    (hshort : literalOp op.toNat = false) (hrow : ∀ w, decodeOp op.toNat w 0 = row (fHold w) (fD w) (fA w) (fB w))
    (hinstr : row hold x y z = .instr i) : ReadsBack i := by
  refine .short _ hwords ?_ ?_
  · rw [wordIsLong_eq, fOp_wordR, hshort]
  · rw [fOp_wordR, hrow, fHold_wordR, fD_wordR, fA_wordR, fB_wordR, hinstr]

/-- A K or B word of one word, whatever parts its row takes its immediate to. -/
theorem of_wordK {i : Instr} {row : Word → Decoded} (hwords : encode i = [wordK op x imm])
    (hshort : literalOp op.toNat = false) (hrow : ∀ w, decodeOp op.toNat w 0 = row w)
    (hinstr : row (wordK op x imm) = .instr i) : ReadsBack i := by
  refine .short _ hwords ?_ ?_
  · rw [wordIsLong_eq, fOp_wordK, hshort]
  · rw [fOp_wordK, hrow, hinstr]

/-- A K word with the literal that follows it. -/
theorem of_literal {i : Instr} {row : Reg → BitVec 16 → Word → Decoded} (hwords : encode i = [wordK op x imm, lit])
    (hlong : literalOp op.toNat = true) (hrow : ∀ w, decodeOp op.toNat w lit = row (fK w) (fImm16 w) lit)
    (hinstr : row x imm lit = .instr i) : ReadsBack i := by
  refine .long _ _ hwords ?_ ?_
  · rw [wordIsLong_eq, fOp_wordK, hlong]
  · rw [fOp_wordK, hrow, fK_wordK, fImm16_wordK, hinstr]

theorem of_dab {f : BitVec 2 → Reg → Reg → Reg → Instr} (hwords : encode (f hold x y z) = [wordR op hold x y z])
    (hshort : literalOp op.toNat = false)
    (hrow : ∀ w, decodeOp op.toNat w 0 = .instr (f (fHold w) (fD w) (fA w) (fB w))) : ReadsBack (f hold x y z) :=
  of_wordR (row := fun h d a b => .instr (f h d a b)) hwords hshort hrow rfl

theorem of_da {f : BitVec 2 → Reg → Reg → Instr} (hwords : encode (f hold x y) = [wordR op hold x y 0])
    (hshort : literalOp op.toNat = false)
    (hrow : ∀ w, decodeOp op.toNat w 0 = ifZero (fB w = 0) (f (fHold w) (fD w) (fA w))) : ReadsBack (f hold x y) :=
  of_wordR (row := fun h d a b => ifZero (b = 0) (f h d a)) hwords hshort hrow rfl

theorem of_ab {f : BitVec 2 → Reg → Reg → Instr} (hwords : encode (f hold x y) = [wordR op hold 0 x y])
    (hshort : literalOp op.toNat = false)
    (hrow : ∀ w, decodeOp op.toNat w 0 = ifZero (fD w = 0) (f (fHold w) (fA w) (fB w))) : ReadsBack (f hold x y) :=
  of_wordR (row := fun h d a b => ifZero (d = 0) (f h a b)) hwords hshort hrow rfl

theorem of_db {f : BitVec 2 → Reg → Reg → Instr} (hwords : encode (f hold x y) = [wordR op hold x 0 y])
    (hshort : literalOp op.toNat = false)
    (hrow : ∀ w, decodeOp op.toNat w 0 = ifZero (fA w = 0) (f (fHold w) (fD w) (fB w))) : ReadsBack (f hold x y) :=
  of_wordR (row := fun h d a b => ifZero (a = 0) (f h d b)) hwords hshort hrow rfl

theorem of_d {f : BitVec 2 → Reg → Instr} (hwords : encode (f hold x) = [wordR op hold x 0 0])
    (hshort : literalOp op.toNat = false)
    (hrow : ∀ w, decodeOp op.toNat w 0 = ifZero (fA w = 0 && fB w = 0) (f (fHold w) (fD w))) : ReadsBack (f hold x) :=
  of_wordR (row := fun h d a b => ifZero (a = 0 && b = 0) (f h d)) hwords hshort hrow rfl

theorem of_a {f : BitVec 2 → Reg → Instr} (hwords : encode (f hold x) = [wordR op hold 0 x 0])
    (hshort : literalOp op.toNat = false)
    (hrow : ∀ w, decodeOp op.toNat w 0 = ifZero (fD w = 0 && fB w = 0) (f (fHold w) (fA w))) : ReadsBack (f hold x) :=
  of_wordR (row := fun h d a b => ifZero (d = 0 && b = 0) (f h a)) hwords hshort hrow rfl

/-- Only a hold field, or nothing: the rows of ball, elm and enm do not look at hold. -/
theorem of_hold {f : BitVec 2 → Instr} (hwords : encode (f hold) = [wordR op hold 0 0 0])
    (hshort : literalOp op.toNat = false)
    (hrow : ∀ w, decodeOp op.toNat w 0 = ifZero (fD w = 0 && fA w = 0 && fB w = 0) (f (fHold w))) : ReadsBack (f hold) :=
  of_wordR (row := fun h d a b => ifZero (d = 0 && a = 0 && b = 0) (f h)) hwords hshort hrow rfl

theorem of_k_imm16 {f : Reg → BitVec 16 → Instr} (hwords : encode (f x imm) = [wordK op x imm])
    (hshort : literalOp op.toNat = false) (hrow : ∀ w, decodeOp op.toNat w 0 = .instr (f (fK w) (fImm16 w))) :
    ReadsBack (f x imm) :=
  of_wordK hwords hshort hrow (by rw [fK_wordK, fImm16_wordK])

theorem of_imm16 {f : BitVec 16 → Instr} (hwords : encode (f imm) = [wordK op 0 imm])
    (hshort : literalOp op.toNat = false) (hrow : ∀ w, decodeOp op.toNat w 0 = ifZero (fK w = 0) (f (fImm16 w))) :
    ReadsBack (f imm) :=
  of_wordK hwords hshort hrow (by rw [fK_wordK, fImm16_wordK]; rfl)

theorem of_k_literal {f : Reg → Word → Instr} (hwords : encode (f x lit) = [wordK op x 0, lit])
    (hlong : literalOp op.toNat = true) (hrow : ∀ w, decodeOp op.toNat w lit = ifZero (fImm16 w = 0) (f (fK w) lit)) :
    ReadsBack (f x lit) :=
  of_literal (row := fun k imm lit => ifZero (imm = 0) (f k lit)) hwords hlong hrow rfl

end ReadsBack

theorem readsBack_setmi (lit : Word) : ReadsBack (.setmi lit) :=
  .of_literal (row := fun k imm lit => ifZero (k = 0 && imm = 0) (.setmi lit)) rfl rfl (fun _ => rfl) rfl

/-! The rows that take the immediate apart. -/

theorem readsBack_tagw (d : Reg) (code : BitVec 8) : ReadsBack (.tagw d code) := by
  have hzero : (wordK 0x0c3 d ((0 : BitVec 8) ++ code)).extractLsb' 8 8 = 0 :=
    (extractLsb'_wordK _ _ _ (by decide)).trans BitVec.extractLsb'_append_eq_left
  have hcode : (wordK 0x0c3 d ((0 : BitVec 8) ++ code)).extractLsb' 0 8 = code :=
    (extractLsb'_wordK _ _ _ (by decide)).trans BitVec.extractLsb'_append_eq_right
  refine .of_wordK (row := fun w => ifZero (w.extractLsb' 8 8 = 0) (.tagw (fK w) (w.extractLsb' 0 8))) rfl rfl
    (fun _ => rfl) ?_
  rw [hzero, hcode, fK_wordK]
  rfl

theorem readsBack_brk (n : BitVec 4) : ReadsBack (.brk n) := by
  have hzero : (wordK 0x109 0 ((0 : BitVec 12) ++ n)).extractLsb' 4 12 = 0 :=
    (extractLsb'_wordK _ _ _ (by decide)).trans BitVec.extractLsb'_append_eq_left
  have hn : (wordK 0x109 0 ((0 : BitVec 12) ++ n)).extractLsb' 0 4 = n :=
    (extractLsb'_wordK _ _ _ (by decide)).trans BitVec.extractLsb'_append_eq_right
  refine .of_wordK (row := fun w => ifZero (fK w = 0 && w.extractLsb' 4 12 = 0) (.brk (w.extractLsb' 0 4))) rfl rfl
    (fun _ => rfl) ?_
  rw [hzero, hn, fK_wordK]
  rfl

theorem readsBack_trap (svc cause : BitVec 8) : ReadsBack (.trap svc cause) := by
  have hsvc : (wordK 0x10d 0 (svc ++ cause)).extractLsb' 8 8 = svc :=
    (extractLsb'_wordK _ _ _ (by decide)).trans BitVec.extractLsb'_append_eq_left
  have hcause : (wordK 0x10d 0 (svc ++ cause)).extractLsb' 0 8 = cause :=
    (extractLsb'_wordK _ _ _ (by decide)).trans BitVec.extractLsb'_append_eq_right
  refine .of_wordK (row := fun w => ifZero (fK w = 0) (.trap (w.extractLsb' 8 8) (w.extractLsb' 0 8))) rfl rfl
    (fun _ => rfl) ?_
  rw [hsvc, hcause, fK_wordK]
  rfl

theorem readsBack_waitc (tl cp st ld : BitVec 4) : ReadsBack (.waitc tl cp st ld) := by
  have himm {start len : Nat} (h : start + len ≤ 16) :=
    extractLsb'_wordK 0x190 0 (tl ++ cp ++ st ++ ld) h
  have htl : (wordK 0x190 0 (tl ++ cp ++ st ++ ld)).extractLsb' 12 4 = tl := by
    rw [himm (by decide), BitVec.extractLsb'_append_eq_of_le (by decide), BitVec.extractLsb'_append_eq_of_le (by decide)]
    exact BitVec.extractLsb'_append_eq_left
  have hcp : (wordK 0x190 0 (tl ++ cp ++ st ++ ld)).extractLsb' 8 4 = cp := by
    rw [himm (by decide), BitVec.extractLsb'_append_eq_of_le (by decide), BitVec.extractLsb'_append_eq_of_le (by decide)]
    exact BitVec.extractLsb'_append_eq_right
  have hst : (wordK 0x190 0 (tl ++ cp ++ st ++ ld)).extractLsb' 4 4 = st := by
    rw [himm (by decide), BitVec.extractLsb'_append_eq_of_le (by decide)]
    exact BitVec.extractLsb'_append_eq_right
  have hld : (wordK 0x190 0 (tl ++ cp ++ st ++ ld)).extractLsb' 0 4 = ld :=
    (himm (by decide)).trans BitVec.extractLsb'_append_eq_right
  refine .of_wordK (row := fun w => ifZero (fK w = 0)
    (.waitc (w.extractLsb' 12 4) (w.extractLsb' 8 4) (w.extractLsb' 4 4) (w.extractLsb' 0 4))) rfl rfl (fun _ => rfl) ?_
  rw [htl, hcp, hst, hld, fK_wordK]
  rfl

/-! ### Every instruction -/

theorem readsBack_of_encodable {i : Instr} (h : i.encodable = true) : ReadsBack i := by
  cases i with
  | add | sub | mul | mulh | mad | divu | divs | min | max | and | or | xor | andn | shl | shr | rotl | rotr | bfe | bfi
  | add64 | sub64 | shl64 | shr64 | seq | sne | slt | sle | sel | addx | addi | muli | andi | ori | xori | shli | shri
  | rotli | seqi | snei | slti | slei | mini | maxi | addi64 | addU | subU | mulU | andU | orU | xorU | shlU | shrU
  | minU | maxU | seqU | sltU | add64U | addiU | shliU | fadd | fsub | fmul | fma | fmin | fmax | fseq | fsne | fslt
  | fsle | dot2 | dot4 | dot8 | hadd | hsub | hmul | hfma | hmin | hmax | pack | unpk | shflIdx | shflUp | shflDn
  | shflXor | bcast | waitv | pgmap | pginv | ldb | ldbs | ldh | ldhs | ld | ldd | ldq | stb | sth | st | std | stq
  | ldAcq | lddAcq | stRel | stdRel | ldro | ldroQ | lds | ldsQ | sts | stsQ | tagi | tagp | tagt | aadd | amin | amax
  | aand | aor | axor | axch | acas | aadd64 | acas64 | baroWt | xld | xldQ | xst | xstQ | xat | xcas | cwxch | mma
  | tscale | cpy | cpy2d | cpfill | nmst | idxreg | tkmerge | qpush | heapi | adj => exact .of_dab rfl rfl fun _ => rfl
  | abs | neg | not | popc | clz | brev | mov | movU | fabs | fneg | frcp | frsq | fsqrt | fexp2 | flog2 | cvt | tagr
  | stat | voteAny | voteAll | voteBal | reduAdd | reduMin | reduMax | prefx | tagl | tage | wbld | accsv | accrs
  | tdrain | histrd | nmld | nmsw | srch | scan | walk | ivcommit | qpop | jcard | launch | evrd | bcolr | bcolw | bres
  | dist | vchk => exact .of_da rfl rfl fun _ => rfl
  | setm | pref | waitr | cprt | evset | evclr => exact .of_ab rfl rfl fun _ => rfl
  | getm | wid | ctrr => exact .of_db rfl rfl fun _ => rfl
  | lane | maskr | liver | wbz | accz | histz => exact .of_d rfl rfl fun _ => rfl
  | jmpr | ret | baroArr | nmx | xred | bsgl | brow | ifm | ferry => exact .of_a rfl rfl fun _ => rfl
  | nop | join | exit | tret | yield | fence | fenceRo | bar | cwdet | cwleave => exact .of_hold rfl rfl fun _ => rfl
  | ball => exact .of_hold (f := fun _ => .ball) rfl rfl fun _ => rfl
  | elm => exact .of_hold (f := fun _ => .elm) rfl rfl fun _ => rfl
  | enm => exact .of_hold (f := fun _ => .enm) rfl rfl fun _ => rfl
  | movk | movh | br | bru | call | loop | lexit => exact .of_k_imm16 rfl rfl fun _ => rfl
  | jmp | joinat | sleep => exact .of_imm16 rfl rfl fun _ => rfl
  | lit | addl | andl | orl => exact .of_k_literal rfl rfl fun _ => rfl
  | setmi => exact readsBack_setmi _
  | tagw => exact readsBack_tagw ..
  | brk => exact readsBack_brk _
  | trap => exact readsBack_trap ..
  | waitc => exact readsBack_waitc ..
  | _ => exact absurd h Bool.false_ne_true

/-- An instruction of one word, read from the word. -/
theorem decode_of_encode {i : Instr} {w : Word} (hwords : encode i = [w]) (hencodable : i.encodable = true)
    (hwf : i.wellFormed = true) : decode w 0 = .instr i := by
  cases readsBack_of_encodable hencodable with
  | short v hv _ hrow =>
    obtain rfl : w = v := List.head_eq_of_cons_eq (hwords.symm.trans hv)
    rw [decode, hrow, Decoded.checked_of_wellFormed hwf]
  | long v lit hv => cases hwords.symm.trans hv

/-- An instruction of two words, read from both. -/
theorem decode_of_encode_literal {i : Instr} {w lit : Word} (hwords : encode i = [w, lit])
    (hencodable : i.encodable = true) (hwf : i.wellFormed = true) : decode w lit = .instr i := by
  cases readsBack_of_encodable hencodable with
  | short v hv => cases hwords.symm.trans hv
  | long v x hv _ hrow =>
    obtain ⟨rfl, rfl⟩ : w = v ∧ lit = x := by simpa using hwords.symm.trans hv
    rw [decode, hrow, Decoded.checked_of_wellFormed hwf]

/-- Settles O1: each word is that of its instruction, which is well formed, so it is read back. -/
theorem wordsOfTheSpec : Obligations.WordsOfTheSpec := by
  unfold Obligations.WordsOfTheSpec
  refine ⟨?_, ?_, ?_, ?_, decode_of_encode_literal rfl rfl rfl, ?_, ?_, ?_, ?_, ?_, ?_, ?_, ?_, ?_, ?_, ?_⟩
  all_goals exact decode_of_encode rfl rfl rfl

/-- Settles O2: every encodable instruction is of a form whose row reads it back (`readsBack_of_encodable`), and a
well-formed one passes the checks that follow. -/
theorem decodeReadsBackEveryEncoding : Obligations.DecodeReadsBackEveryEncoding := by
  unfold Obligations.DecodeReadsBackEveryEncoding
  intro i rest hencodable hwf
  exact (readsBack_of_encodable hencodable).decodeBytes_encode hwf rest

end Sys2Proof

/-! ## Bytes written and read as a number (00 R6; 09 R256) -/

namespace Sys2Proof.Machine

theorem State.byte_setBytes (s : State) (k : Nat) (l : List Byte) (n : Nat) :
    (s.setBytes k l).byte n = if k ≤ n ∧ n < k + l.length then l.getD (n - k) 0 else s.byte n := by
  induction l generalizing s k with
  | nil => rw [if_neg (by simp only [List.length_nil]; omega)]; rfl
  | cons x r ih =>
    rw [State.setBytes, ih, State.byte_setByte, List.length_cons]
    rcases Nat.lt_trichotomy n k with h | rfl | h
    · rw [if_neg (by omega), if_neg (by omega), if_neg (by omega)]
    · rw [if_neg (by omega), if_pos rfl, if_pos (by omega), Nat.sub_self]; rfl
    · have hindex : n - k = n - (k + 1) + 1 := by omega
      rw [if_neg (Nat.ne_of_gt h), hindex, List.getD_cons_succ]
      exact ite_congr (propext (by omega)) (fun _ => rfl) fun _ => rfl

@[simp] theorem length_bytesOf (x n : Nat) : (bytesOf x n).length = n := by simp [bytesOf]

theorem bytesOf_succ (x n : Nat) : bytesOf x (n + 1) = BitVec.ofNat 8 x :: bytesOf (x / 256) n := by
  simp [bytesOf, List.range_succ_eq_map, Function.comp_def, Nat.div_div_eq_div_mul, Nat.pow_succ, Nat.mul_comm]

theorem numOf_bytesOf (x n : Nat) : numOf (bytesOf x n) = x % 256 ^ n := by
  induction n generalizing x with
  | zero => simp [bytesOf, numOf, Nat.mod_one]
  | succ n ih =>
    have hcons : numOf (bytesOf x (n + 1)) = numOf (bytesOf (x / 256) n) * 256 + x % 256 := by
      rw [bytesOf_succ]; exact congrArg (_ + ·) (BitVec.toNat_ofNat ..)
    rw [hcons, ih, Nat.pow_succ', Nat.mod_mul]
    omega

/-- The bytes of a range that was written. -/
theorem State.bytes_setBytes (s : State) (k : Nat) (l : List Byte) : (s.setBytes k l).bytes k l.length = l := by
  refine List.ext_getElem (by simp [State.bytes]) fun j hj hj' => ?_
  simp only [State.bytes, List.getElem_map, List.getElem_range, State.byte_setBytes, Nat.add_sub_cancel_left]
  rw [if_pos ⟨Nat.le_add_right .., Nat.add_lt_add_left hj' k⟩, List.getD_eq_getElem?_getD, List.getElem?_eq_getElem hj',
    Option.getD_some]

theorem State.num_setBytes (s : State) (k x n : Nat) : (s.setBytes k (bytesOf x n)).num k n = x % 256 ^ n := by
  have hbytes := s.bytes_setBytes k (bytesOf x n)
  rw [length_bytesOf] at hbytes
  exact (congrArg numOf hbytes).trans (numOf_bytesOf x n)

theorem State.byte_of_mem {s t : State} (h : t.mem = s.mem) (k : Nat) : t.byte k = s.byte k := by
  rw [State.byte, h]; rfl

theorem State.num_of_mem {s t : State} (h : t.mem = s.mem) (k n : Nat) : t.num k n = s.num k n := by
  simp only [State.num, State.bytes, State.byte_of_mem h]

/-! ### A store that is not discarded -/

section Store

variable (s : State) (ctx key : Nat) (bs : List Byte)

theorem State.dirtyLine_engines : (s.dirtyLine ctx key).engines = s.engines := by
  unfold State.dirtyLine; split <;> rfl

variable {s key} (h : (s.retired key || s.linkLost key) = false)
include h

theorem State.store_eq : s.store ctx key bs = (s.storeCell key bs).dirtyLine ctx key := by
  rw [State.store, h]; rfl

theorem State.store_mem : (s.store ctx key bs).mem = (s.setBytes key bs).mem := by
  rw [State.store_eq ctx bs h, State.dirtyLine_mem, State.storeCell, h]; rfl

theorem State.store_engines : (s.store ctx key bs).engines = s.engines := by
  rw [State.store_eq ctx bs h, State.dirtyLine_engines, State.storeCell, h]
  exact (congrArg State.engines (State.setBytes_rest bs s key) :)

end Store

end Sys2Proof.Machine

/-! ## Control flow of bank and walker programs (08 R226 to R228, R245)

An instruction that starts on a unit is that unit's part of its meaning (`onUnit_bank`, `onUnit_walker`); each is then
what `BankProg.advance`, `State.bankJump`, `State.bankLoop`, `State.walkCall` and `State.walkPair` do in one case. -/

namespace Sys2Proof.Machine

/-! ### A bank program goes on -/

/-- The program one instruction later, at a word and in loops. -/
def BankProg.goTo (p : BankProg) (pc : Nat) (loops : List BankLoop) : BankProg :=
  { p with pc := pc, loops := loops, count := p.count + 1 }

section Advance

variable {p : BankProg} {l : BankLoop} {r : List BankLoop}

theorem BankProg.advance_one (p : BankProg) : p.advance 1 =
    p.goTo (loopBack (· = p.pc) (wordPlus p.pc 1) p.loops).2 (loopBack (· = p.pc) (wordPlus p.pc 1) p.loops).1 := by
  have hhere : (fun k => decide (p.pc ≤ k) && decide (k < p.pc + 1)) = fun k => decide (k = p.pc) := by
    funext k
    rw [← Bool.decide_and]
    exact decide_eq_decide.2 (by omega)
  unfold BankProg.advance
  rw [Int.natCast_one, hhere]
  rfl

theorem BankProg.advance_noLoop (h : p.loops = []) : p.advance 1 = p.goTo (wordPlus p.pc 1) p.loops := by
  rw [BankProg.advance_one, h]; rfl

theorem BankProg.advance_insideLoop (h : p.loops = l :: r) (hstop : l.stop ≠ p.pc) :
    p.advance 1 = p.goTo (wordPlus p.pc 1) p.loops := by
  rw [BankProg.advance_one, h]
  simp [loopBack, hstop]

theorem BankProg.advance_loopBack (h : p.loops = l :: r) (hstop : l.stop = p.pc) (hcount : 1 < l.count.toNat) :
    p.advance 1 = p.goTo l.start ({ l with count := l.count - 1 } :: r) := by
  rw [BankProg.advance_one, h]
  simp [loopBack, hstop, Nat.not_le.2 hcount]

theorem BankProg.advance_leaveLoop (h : p.loops = [l]) (hstop : l.stop = p.pc) (hcount : l.count.toNat ≤ 1) :
    p.advance 1 = p.goTo (wordPlus p.pc 1) [] := by
  rw [BankProg.advance_one, h]
  simp [loopBack, hstop, hcount]

end Advance

section Bank

variable {s : State} {e : Nat} {p : BankProg} {a : Reg} {off : BitVec 16}

theorem State.bankJump_outside (h : 512 ≤ wordPlus p.pc off.toInt) : s.bankJump e p off = s.endBank e 0x01 := by
  simp [State.bankJump, inBank, Nat.not_lt.2 h]

theorem State.bankLoop_outside (h : 512 ≤ wordPlus p.pc off.toInt) : s.bankLoop e p a off = s.endBank e 0x01 := by
  simp [State.bankLoop, inBank, Nat.not_lt.2 h]

/-- The count of loop: its register in the lowest lane of the mask. -/
theorem BankProg.uniform_getD (p : BankProg) (a : Reg) : (p.uniform a).getD 0 =
    match (lanesOf p.mask).head? with
    | some l => p.reg a.toNat l
    | none => 0 := by
  rw [BankProg.uniform, BankProg.lane?, lanesOf, List.head?_filter]
  cases List.find? (fun l => p.mask.getLsbD l) (List.range 128) <;> rfl

variable (hin : wordPlus p.pc off.toInt < 512)
include hin

theorem State.bankJump_inside : s.bankJump e p off = s.setProg e (p.jump (wordPlus p.pc off.toInt)) := by
  simp only [State.bankJump, inBank, hin, decide_true, if_true]

theorem State.bankJump_stays
    (h : ∀ l r, p.loops = l :: r → l.start ≤ wordPlus p.pc off.toInt ∧ wordPlus p.pc off.toInt ≤ l.stop) :
    s.bankJump e p off = s.setProg e (p.goTo (wordPlus p.pc off.toInt) p.loops) := by
  rw [State.bankJump_inside hin, BankProg.jump, BankProg.goTo]
  cases hl : p.loops with
  | nil => rfl
  | cons l r => rw [List.dropWhile_cons_of_neg (by simpa using h l r hl)]

theorem State.bankJump_leaves {l : BankLoop} (hl : p.loops = [l])
    (h : ¬(l.start ≤ wordPlus p.pc off.toInt ∧ wordPlus p.pc off.toInt ≤ l.stop)) :
    s.bankJump e p off = s.setProg e (p.goTo (wordPlus p.pc off.toInt) []) := by
  rw [State.bankJump_inside hin, BankProg.jump, hl, List.dropWhile_cons_of_pos (by simp; omega)]
  rfl

theorem State.bankLoop_backward (hoff : off.toInt ≤ 0) : s.bankLoop e p a off = s.setProg e (p.advance 1) := by
  simp [State.bankLoop, inBank, hin, hoff]

variable (hoff : 0 < off.toInt)
include hoff

theorem State.bankLoop_skip (hcount : (p.uniform a).getD 0 = 0) :
    s.bankLoop e p a off = s.setProg e (p.goTo (wordPlus (wordPlus p.pc off.toInt) 1) p.loops) := by
  simp only [State.bankLoop, inBank, hin, Int.not_le.2 hoff, hcount, decide_true, Bool.not_true, Bool.false_eq_true,
    if_false, if_true]
  rfl

variable {c : Word} (hcount : (p.uniform a).getD 0 = c) (hc : c ≠ 0)
include hcount hc

theorem State.bankLoop_enter (hdepth : p.loops.length < 4) : s.bankLoop e p a off = s.setProg e
    (p.goTo (wordPlus p.pc 1)
      ({ start := wordPlus p.pc 1, stop := wordPlus p.pc off.toInt, count := c } :: p.loops)) := by
  simp only [State.bankLoop, inBank, hin, Int.not_le.2 hoff, hcount, hc, Nat.not_le.2 hdepth, decide_true, Bool.not_true,
    Bool.false_eq_true, if_false]
  rfl

theorem State.bankLoop_full (hdepth : 4 ≤ p.loops.length) : s.bankLoop e p a off = s.endBank e 0x0F := by
  simp only [State.bankLoop, inBank, hin, Int.not_le.2 hoff, hcount, hc, hdepth, decide_true, Bool.not_true,
    Bool.false_eq_true, if_false, if_true]

end Bank

theorem bankControlFlow : BankControlFlow := by
  intro s e p hold a off at' on
  refine ⟨fun h => ?nop, ?outside, fun h hin l hl => ?jmp, fun h hin => ?loop, fun h => onUnit_bank h _ _ _⟩
  case nop =>
    have hexec : exec (.nop hold) s = .next (s.setProg e (p.advance 1)).moved := onUnit_bank h _ _ _
    rw [hexec]
    exact ⟨fun hl => by rw [BankProg.advance_noLoop hl]; rfl,
      fun l r hl hstop => by rw [BankProg.advance_insideLoop hl hstop]; rfl,
      fun l r hl hstop hcount => by rw [BankProg.advance_loopBack hl hstop hcount]; rfl,
      fun l hl hstop hcount => by rw [BankProg.advance_leaveLoop hl hstop hcount]; rfl⟩
  case outside =>
    rintro i (rfl | rfl) h hout
    · exact (onUnit_bank h _ _ _).trans (by rw [State.bankJump_outside hout])
    · exact (onUnit_bank h _ _ _).trans (by rw [State.bankLoop_outside hout])
  case jmp =>
    have hexec : exec (.jmp off) s = .next (s.bankJump e p off).moved := onUnit_bank h _ _ _
    rw [hexec]
    refine ⟨fun hstays => ?_, fun hone hleaves => ?_⟩
    · have hkeep : ∀ m r, p.loops = m :: r → m.start ≤ at' off.toInt ∧ at' off.toInt ≤ m.stop := fun m r hm => by
        rcases hl with hnone | hone
        · cases hnone.symm.trans hm
        · cases hone.symm.trans hm; exact hstays hone
      rw [State.bankJump_stays hin hkeep]; rfl
    · rw [State.bankJump_leaves hin hone hleaves]; rfl
  case loop =>
    have hexec : exec (.loop a off) s = .next (s.bankLoop e p a off).moved := onUnit_bank h _ _ _
    have hcount := p.uniform_getD a
    intro c
    rw [hexec]
    refine ⟨fun hoff hl => ?_, fun hoff hc => ?_, fun hoff hc hdepth => ?_, fun hoff hc hdepth => ?_⟩
    · rw [State.bankLoop_backward hin hoff, BankProg.advance_noLoop hl]; rfl
    · rw [State.bankLoop_skip hin hoff (hcount.trans hc)]; rfl
    · rw [State.bankLoop_enter hin hoff hcount hc hdepth]; rfl
    · rw [State.bankLoop_full hin hoff hcount hc hdepth]

/-! ### A bank program ends -/

/-- The engine of a program that has ended. -/
def State.freeEngine (s : State) (e : Nat) (p : BankProg) (code : Nat) : State :=
  s.setEngine e { s.engine e with prog := none, code := BitVec.ofNat 8 code, endPc := (endWord p.pc).toNat }

/-- The lines of a launch's region leave L2. -/
def State.dropLaunchRegion (s : State) (die : Nat) (l : BankLaunch) : State :=
  match s.regionAt die l.ctx l.regVa with
  | some r => s.dropRegion die r
  | none => s

/-- An operation is over, where it is still in the table. -/
def State.closeOp (s : State) (id : Nat) : State :=
  match s.ops.look id with
  | some o => s.endOp id o
  | none => s

section DropRegion

variable (s : State) (die : Nat) (l : BankLaunch)

theorem State.dropLaunchRegion_engines : (s.dropLaunchRegion die l).engines = s.engines := by
  unfold State.dropLaunchRegion; split <;> rfl

theorem State.dropLaunchRegion_ops : (s.dropLaunchRegion die l).ops = s.ops := by
  unfold State.dropLaunchRegion; split <;> rfl

theorem State.dropLaunchRegion_mem : (s.dropLaunchRegion die l).mem = s.mem := by
  unfold State.dropLaunchRegion; split <;> rfl

/-- Only lines of a die change. -/
theorem State.dropLaunchRegion_die (d : Nat) : ((s.dropLaunchRegion die l).die d).retired = (s.die d).retired ∧
    ((s.dropLaunchRegion die l).die d).cxlDown = (s.die d).cxlDown := by
  unfold State.dropLaunchRegion
  split
  · rw [State.dropRegion, State.onDie, State.die_setDie]
    split
    · next hd => subst hd; exact ⟨rfl, rfl⟩
    · exact ⟨rfl, rfl⟩
  · exact ⟨rfl, rfl⟩

theorem State.dropLaunchRegion_lost (key : Nat) :
    ((s.dropLaunchRegion die l).retired key || (s.dropLaunchRegion die l).linkLost key) =
      (s.retired key || s.linkLost key) := by
  unfold State.retired State.linkLost
  rw [(s.dropLaunchRegion_die die l _).1, (s.dropLaunchRegion_die die l _).2]

end DropRegion

section CloseOp

variable (s : State) (id : Nat)

theorem State.endOp_engines (o : Op) : (s.endOp id o).engines = s.engines := by
  unfold State.endOp State.uncountOp
  split <;> rfl

theorem State.endOp_mem (o : Op) : (s.endOp id o).mem = s.mem := by
  unfold State.endOp State.uncountOp
  split <;> rfl

theorem State.closeOp_engines : (s.closeOp id).engines = s.engines := by
  unfold State.closeOp
  split
  · exact s.endOp_engines id _
  · rfl

theorem State.closeOp_mem : (s.closeOp id).mem = s.mem := by
  unfold State.closeOp
  split
  · exact s.endOp_mem id _
  · rfl

theorem State.closeOp_look : (s.closeOp id).ops.look id = none := by
  unfold State.closeOp
  split
  · exact (Tab.look_del ..).trans (if_pos rfl)
  · assumption

end CloseOp

/-- The end of a program whose launch has no object and whose group is not terminated. -/
theorem State.endBank_eq {s : State} {e : Nat} {p : BankProg} (hprog : (s.engine e).prog = some p)
    (hobject : p.launch.object = none) (hvoid : s.voided p.launch.op = false) (code : Nat) :
    s.endBank e code = (((s.freeEngine e p code).dropLaunchRegion (dieOfStack (stackOfEngine e)) p.launch).store
      p.launch.ctx (p.launch.recKey + 0x3C)
      (bytesOf (code + p.flags.toNat * 2 ^ 8 + (endWord p.pc).toNat * 2 ^ 13) 4)).closeOp p.launch.op := by
  generalize hdropped : (s.freeEngine e p code).dropLaunchRegion (dieOfStack (stackOfEngine e)) p.launch = u
  have hvoided : u.voided p.launch.op = false := by
    rw [← hvoid, ← hdropped]
    unfold State.voided
    rw [State.dropLaunchRegion_ops]
    rfl
  have hend : s.endBank e code = (if u.voided p.launch.op then u else (u.store p.launch.ctx (p.launch.recKey + 0x3C)
      (bytesOf (code + p.flags.toNat * 2 ^ 8 + (endWord p.pc).toNat * 2 ^ 13) 4)).arriveOn p.launch.ctx
        p.launch.object).closeOp p.launch.op := by
    subst hdropped
    unfold State.endBank
    dsimp only
    rw [hprog]
    rfl
  rw [hend, hvoided, hobject]
  rfl

theorem endWord_toNat {pc : Nat} (h : pc < 512) : (endWord pc).toNat = pc := by
  rw [endWord, if_pos h, BitVec.toNat_ofNat, Nat.mod_eq_of_lt h]

theorem bankProgramsEnd : BankProgramsEnd := by
  intro s e p code hprog hobject hpc hcode hvoid hkey t
  have hend := State.endBank_eq hprog hobject hvoid code
  rw [endWord_toNat hpc] at hend
  generalize hkey' : p.launch.recKey + 0x3C = key at hend hkey ⊢
  generalize hword : code + p.flags.toNat * 2 ^ 8 + p.pc * 2 ^ 13 = word at hend ⊢
  generalize hdropped : (s.freeEngine e p code).dropLaunchRegion (dieOfStack (stackOfEngine e)) p.launch = u at hend
  have hlost : (u.retired key || u.linkLost key) = false := by
    rw [← hdropped, State.dropLaunchRegion_lost]
    exact hkey
  have hengine : t.engine e =
      { s.engine e with prog := none, code := BitVec.ofNat 8 code, endPc := (endWord p.pc).toNat } := by
    have hengines : t.engines = (s.freeEngine e p code).engines := by
      rw [show t = _ from hend, State.closeOp_engines, State.store_engines _ _ hlost, ← hdropped,
        State.dropLaunchRegion_engines]
    have hsame : t.engine e = (s.freeEngine e p code).engine e := by rw [State.engine, hengines]; rfl
    rw [hsame, State.freeEngine, State.engine_setEngine, if_pos rfl]
  have hmem : t.mem = (u.setBytes key (bytesOf word 4)).mem := by
    rw [show t = _ from hend, State.closeOp_mem, State.store_mem _ _ hlost]
  refine ⟨?_, ?_, ?_, ?_, ?_, fun k hk => ?_⟩
  · rw [hengine]
  · rw [hengine]; exact (BitVec.toNat_ofNat ..).trans (Nat.mod_eq_of_lt hcode)
  · rw [hengine]; exact endWord_toNat hpc
  · have hflags := p.flags.isLt
    rw [State.num_of_mem hmem, State.num_setBytes, Nat.mod_eq_of_lt (by omega)]
  · rw [show t = _ from hend]; exact State.closeOp_look ..
  · have hu : u.mem = s.mem := by rw [← hdropped, State.dropLaunchRegion_mem]; rfl
    rw [State.byte_of_mem hmem, State.byte_setBytes, length_bytesOf, if_neg (by omega), State.byte_of_mem hu]

/-! ### Walkers -/

/-- The result of an operation, as it is committed. -/
theorem Walker.result_commit (w : Walker) (o : VecOp) (x : DWord) (tag : Option Byte) :
    w.Result (w.commit o x tag) o.d.toNat o.wide x tag 0 := by
  have hrest := w.commit_rest o x tag
  have hflags : (w.commit o x tag).flags = w.flags := (congrArg Walker.flags hrest :)
  refine ⟨w.reg_commit o x tag, w.tag_commit o x tag, ?_, ?_⟩
  · simpa using hflags
  · exact congrArg (fun y : Walker => { y with flags := w.flags }) hrest

/-- The link of call is a pair's result. -/
theorem State.walkCall_eq (s : State) (id : Nat) (w : Walker) (c : Command) (a : Reg) (off : BitVec 16) :
    s.walkCall id w c a off = s.walkTo id (w.commit (pairOp a [] fun _ _ => 0)
      (BitVec.ofNat 64 ((w.pc + 4) % 2 ^ 32)) (some 0x12)) c (byteOff w.pc off) := by
  have hlow : (BitVec.ofNat 64 ((w.pc + 4) % 2 ^ 32)).extractLsb' 0 32 = BitVec.ofNat 32 (w.pc + 4) := by
    apply BitVec.eq_of_toNat_eq
    simp
  have hhigh : (BitVec.ofNat 64 ((w.pc + 4) % 2 ^ 32)).extractLsb' 32 32 = 0 := by
    apply BitVec.eq_of_toNat_eq
    simp
    omega
  unfold State.walkCall Walker.commit
  rw [hlow, hhigh]
  by_cases ha : a.toNat = 0
  · simp [ha, pairOp, Walker.setReg, Walker.setTag]
  · simp [ha, pairOp]

section WalkPair

variable {s : State} {id : Nat} {w : Walker} {c : Command} {a : Reg}
  (htags : (pairTags a).all (w.look c.mode).ok = true)
include htags

theorem State.walkPair_aligned {p : BitVec 30} (hp : w.pair a.toNat = (p ++ 0#2).setWidth 64) :
    s.walkPair id w c a = s.walkTo id w c (4 * p.toNat) := by
  have hnat : ((p ++ 0#2).setWidth 64).toNat = 4 * p.toNat := by
    rw [BitVec.toNat_setWidth, BitVec.toNat_append]
    simp
    omega
  have hhigh : ((p ++ 0#2).setWidth 64).extractLsb' 32 32 = 0 := by
    apply BitVec.eq_of_toNat_eq
    rw [BitVec.extractLsb'_toNat, hnat]
    simp
    omega
  have hlow : ((p ++ 0#2).setWidth 64).extractLsb' 0 2 = 0 := by
    apply BitVec.eq_of_toNat_eq
    rw [BitVec.extractLsb'_toNat, hnat]
    simp
  unfold State.walkPair
  simp only [View.first_none (pairCheck_eq a ▸ htags), hp, hhigh, hlow, hnat]
  rfl

theorem State.walkPair_misaligned (hlow : (w.pair a.toNat).toNat % 4 ≠ 0) (hhigh : (w.pair a.toNat).toNat < 2 ^ 32) :
    s.walkPair id w c a = s.endWalker id 0x04 := by
  have hhigh' : (w.pair a.toNat).extractLsb' 32 32 = 0 := by
    apply BitVec.eq_of_toNat_eq
    rw [BitVec.extractLsb'_toNat, Nat.shiftRight_eq_div_pow, Nat.div_eq_of_lt hhigh]
    rfl
  have hlow' : (w.pair a.toNat).extractLsb' 0 2 ≠ 0 := fun h =>
    hlow (by simpa [BitVec.extractLsb'_toNat] using congrArg BitVec.toNat h)
  unfold State.walkPair
  simp only [View.first_none (pairCheck_eq a ▸ htags), hhigh', bne_self_eq_false, Bool.false_eq_true, if_false,
    bne_iff_ne.2 hlow', if_true]

end WalkPair

theorem walkerControlFlow : WalkerControlFlow := by
  intro s id w c hold a off to' target
  refine ⟨fun h => onUnit_walker h _ _ _, fun h => ?br, fun h => onUnit_walker h _ _ _, fun h => ?call, ?pair,
    fun h => onUnit_walker h _ _ _⟩
  case br =>
    have hexec : exec (.br a off) s = .next (if w.reg a.toNat = 0 then s.walkOn id w c 1
      else s.walkTo id w c (byteOff w.pc off)).moved := onUnit_walker h _ _ _
    rw [hexec]
    by_cases hzero : w.reg a.toNat = 0
    · rw [if_pos hzero, if_neg (Decidable.not_not.2 hzero)]; rfl
    · rw [if_neg hzero, if_pos hzero]; rfl
  case call =>
    refine ⟨_, Walker.result_commit w (pairOp a [] fun _ _ => 0) _ (some 0x12), ?_⟩
    exact (onUnit_walker h _ _ _).trans (by rw [State.walkCall_eq]; rfl)
  case pair =>
    intro i hi h htags
    have hexec : exec i s = .next (s.walkPair id w c a).moved := by
      rcases hi with rfl | rfl <;> exact onUnit_walker h _ _ _
    rw [hexec]
    exact ⟨fun p hp => by rw [State.walkPair_aligned htags hp]; rfl,
      fun hlow hhigh => by rw [State.walkPair_misaligned htags hlow hhigh]⟩

/-! ### Instructions of other units -/

/-- Every operation is the part of the unit that is issuing it, after that unit's checks; an event has no opcode. -/
theorem exec_eq_onUnit {i : Instr} (h : (opcode i).isSome = true) (s : State) :
    ∃ core bank walker, exec i s = onUnit i s core bank walker := by
  cases i with
  | loadReturn | storePerformed | emptyRowTimeout | heldEventTimeout | waitvTimeout | sleepWake | yieldWake
  | baroWtTimeout | pairTimeout | loopStepComplete | trackedArrival | xPacketSend | xRequestArrival
  | xResponseAccept | lostNotice | cwxchRetry | cwWithdrawalNotice | wbldEntryDone | wbzEntryDone | mmaEntryDone
  | acczEntryDone | accsvEntryDone | accrsEntryDone | tdrainEntryDone | tscaleEntryDone | copyComplete
  | cprtComplete | nmldComplete | bankLaunchStart | bankBudgetExpiry | searchAccept | searchComplete
  | walkComplete | walkBudgetExpiry | ferryArrival | tkmergeComplete | controllerStop | crucibleListArrival
  | crucibleMergeTimeout | crucibleRetry | dispatchStep | ladleFill | launchComplete | launchTimeout
  | preemptionCheck | groupSave | gangSaveMessage | gangReady | gangGo | assayDrainStart | assayComplete
  | l2ScrubVisit | hbmScrubVisit | quarantineWritebackDone | repcmdGo | repcmdDecline | repairComplete
  | telemetrySample | pstateRun | pstateQuiesce | pstateHalt | mdutyWrite | bactWrite | deviceReset | fwctl
  | trainComplete | idchal | idSignComplete | devnumWrite | devstatRead | ctxctlEn | ctxctlStop | ctxctlKill
  | lqdoorHeader | lqdoorCard | harrp | ctlrst | qctlWrite | translationRegWrite | qwayWrite | asyfailWrite
  | routingTableWrite | fabgenWrite | registerWrite | flitReceive | linkDown | drainMarkerArrival
  | eyeMeasurement | cxlLinkFailure | hostCxlMemAccess | linkRetrainComplete | linkBringUp
  | cxlLinkRestore => exact absurd h Bool.false_ne_true
  | _ => exact ⟨_, _, _, rfl⟩

theorem unitsRefuseForeignInstructions : UnitsRefuseForeignInstructions := by
  intro s i hop
  obtain ⟨core, bank, walker, hexec⟩ := exec_eq_onUnit hop s
  rw [hexec, onUnit]
  refine ⟨fun e p hcur hprog hruns => ?_, fun id w c hcur hw hc hruns => ?_,
    fun fr hframe htraps hload hruns huniform => ?_⟩
  · simp only [hcur, onBank, hprog, hruns, Bool.not_false, if_true]
  · simp only [hcur, onWalker, hw, hc, hruns, Bool.not_false, if_true]
  · simp only [frame_cur hframe, onCore, hframe, hload, hruns, Bool.not_false, if_true, Frame.raisers, huniform,
      Bool.false_eq_true, if_false]
    exact congrArg _ (State.trap_all htraps fr.w rfl .ill 0 (by decide) false 0 0)

/-- Settles O41: an instruction that starts on a unit does that unit's part, whose cases are the lemmas above; one the
unit does not run fails the unit's first check. -/
theorem engineControlFlow : Obligations.EngineControlFlow := by
  unfold Obligations.EngineControlFlow
  exact ⟨bankControlFlow, bankProgramsEnd, walkerControlFlow, unitsRefuseForeignInstructions⟩

end Sys2Proof.Machine

/-! ## Logic, shifts and bit fields (04 R92, R98, R99, R100, R105, R107)

The model counts and reverses bits and cuts fields by its own functions; each is the function its rule names. The rest
is the agreement of an instruction's shape with its rule's, one lemma for each shape. -/

namespace Sys2Proof.Machine

/-! ### The functions of the rules -/

theorem onesOf_fun : onesOf = popCount := funext fun x => (popCount_eq x).symm

theorem zerosAbove_fun : zerosAbove = leadZeros := funext fun x => (leadZeros_eq x).symm

theorem reverse_fun : (BitVec.reverse : Word → Word) = bitReverse := funext fun x => (bitReverse_eq x).symm

/-- The model's field is that of 04 R100. -/
theorem fieldOf_eq_at_len (b : Word) : fieldOf b = (fieldAt b, fieldLen b) := fieldOf_eq b

theorem extractField_eq_at_len (g : Bool) (x b : Word) : extractField g x b =
    if g then (x.extractLsb' (fieldAt b) (fieldLen b)).signExtend 32
    else (x.extractLsb' (fieldAt b) (fieldLen b)).setWidth 32 := by
  rw [extractField_eq, fieldOf_eq_at_len]

theorem insertField_eq_at_len (z x b : Word) : insertField z x b =
    z &&& ~~~((BitVec.allOnes (fieldLen b)).setWidth 32 <<< fieldAt b) |||
      x <<< fieldAt b &&& (BitVec.allOnes (fieldLen b)).setWidth 32 <<< fieldAt b := by
  rw [insertField_eq, fieldOf_eq_at_len]

/-! ### The operations of the instructions -/

/-- A rule that writes a word with a tag, and the operation of the same checks, tag and word. -/
theorem written_agrees (i : Instr) (d : Reg) (checks : View → List (Reg × (Byte → Bool))) (tag : View → Byte)
    (f : View → Nat → Word) :
    Rule.Agrees { instr := i, d := d, checks := checks, tag := fun v => some (tag v), val := fun v t => word (f v t) }
      (vecOp d checks tag fun v t => .of (f v t)) :=
  ⟨rfl, rfl, rfl, fun _ _ => rfl, fun _ _ => rfl, fun _ _ _ => rfl⟩

theorem fieldRules_modelled (hold : BitVec 2) (d a b : Reg) : ∀ r ∈ fieldRules hold d a b, r.Modelled := by
  simp only [fieldRules, ← extractField_eq_at_len, ← insertField_eq_at_len, List.forall_mem_cons]
  exact ⟨⟨_, written_agrees .., fun _ => rfl⟩, ⟨_, written_agrees .., fun _ => rfl⟩, List.forall_mem_nil _⟩

theorem logicRules_modelled (hold : BitVec 2) (d a b : Reg) (k : BitVec 7) (lit : Word) :
    ∀ r ∈ logicRules hold d a b k lit, r.Modelled := by
  simp only [logicRules, onesOf_fun, zerosAbove_fun, reverse_fun, List.forall_mem_append, List.forall_mem_cons]
  exact ⟨⟨⟨_, logic_agrees .., fun _ => rfl⟩, ⟨_, logic_agrees .., fun _ => rfl⟩, ⟨_, logic_agrees .., fun _ => rfl⟩,
    ⟨_, logic_agrees .., fun _ => rfl⟩, ⟨_, logicImm_agrees .., fun _ => rfl⟩, ⟨_, logicImm_agrees .., fun _ => rfl⟩,
    ⟨_, logicImm_agrees .., fun _ => rfl⟩, ⟨_, logicLit_agrees .., fun _ => rfl⟩, ⟨_, logicLit_agrees .., fun _ => rfl⟩,
    ⟨_, bits_agrees .., fun _ => rfl⟩, ⟨_, bits_agrees .., fun _ => rfl⟩, ⟨_, count_agrees .., fun _ => rfl⟩,
    ⟨_, count_agrees .., fun _ => rfl⟩, ⟨_, shift_agrees _ d a b leftBy_eq, fun _ => rfl⟩,
    ⟨_, shift_agrees _ d a b rightBy_eq, fun _ => rfl⟩, ⟨_, shift_agrees _ d a b roundLeft_eq, fun _ => rfl⟩,
    ⟨_, shift_agrees _ d a b roundRight_eq, fun _ => rfl⟩, ⟨_, shiftImm_agrees _ d a k leftBy_eq, fun _ => rfl⟩,
    ⟨_, shiftImm_agrees _ d a k rightBy_eq, fun _ => rfl⟩, ⟨_, shiftImm_agrees _ d a k roundLeft_eq, fun _ => rfl⟩,
    List.forall_mem_nil _⟩, fieldRules_modelled hold d a b⟩

theorem logicRules_plain (hold : BitVec 2) (d a b : Reg) (k : BitVec 7) (lit : Word) :
    ∀ r ∈ logicRules hold d a b k lit, r.Plain := by
  simp [logicRules, fieldRules, Rule.Plain, logicRule, logicImmRule, bitsRule, countRule, shiftRule, shiftImmRule]

/-- Settles O5: each of the twenty-two rules is modelled and raises no flag, and the statement lists their instructions
with their checks in the order of the rules. -/
theorem logicAndShifts : Obligations.LogicAndShifts := by
  unfold Obligations.LogicAndShifts
  refine ⟨fun hold d a b k lit r hr => (logicRules_modelled hold d a b k lit r hr).holds, fun hold d a b k lit => ?_⟩
  exact goOn_of_modelled (fun _ => rfl) (logicRules_modelled hold d a b k lit) (logicRules_plain hold d a b k lit)

end Sys2Proof.Machine

/-! ## Compares, sel, moves and constants (04 R92, R102 to R107) -/

namespace Sys2Proof.Machine

/-! ### The operations of the instructions -/

/-- A compare of bits with an immediate. -/
def bitsCompareImm (i : Instr) (d a : Reg) (k : BitVec 7) (f : Word → Word → Bool) : Rule :=
  { instr := i, d := d, checks := fun _ => anyTags [a], tag := fun _ => some 0x11,
    val := fun v t => bit (f (v.reg a.toNat t) (k.signExtend 32)) }

/-- A compare of integers with an immediate, signed by a alone. -/
def intCompareImm (i : Instr) (d a : Reg) (k : BitVec 7) (f : Int → Int → Bool) : Rule :=
  { instr := i, d := d, checks := fun _ => intTags [a], tag := fun _ => some 0x11,
    val := fun v t => bit (f (num (signedBy v a 0) (v.reg a.toNat t)) (num (signedBy v a 0) (k.signExtend 32))) }

theorem compareImmRules_eq (hold : BitVec 2) (d a : Reg) (k : BitVec 7) : compareImmRules hold d a k =
    [bitsCompareImm (.seqi hold d a k) d a k (· == ·), bitsCompareImm (.snei hold d a k) d a k (· != ·),
      intCompareImm (.slti hold d a k) d a k (· < ·), intCompareImm (.slei hold d a k) d a k (· ≤ ·)] := rfl

theorem bitsCompareImm_agrees (i : Instr) (d a : Reg) (k : BitVec 7) (f : Word → Word → Bool) :
    (bitsCompareImm i d a k f).Agrees (compareBits d a (simm k) f) :=
  ⟨rfl, rfl, rfl, fun v _ => v.first_beside_zero _ _, fun _ _ => rfl, fun _ _ _ => bit01_eq _⟩

theorem intCompareImm_agrees (i : Instr) (d a : Reg) (k : BitVec 7) (f : Int → Int → Bool) :
    (intCompareImm i d a k f).Agrees (compareInt d a (simm k) f) :=
  ⟨rfl, rfl, rfl, fun v _ => v.first_beside_zero _ _, fun _ _ => rfl, fun v t _ => by
    show bit01 (f (v.int _ a t) (intOf 32 _ _)) = _; rw [View.int_eq, intOf_eq_num]; exact bit01_eq _⟩

theorem sel_agrees (hold : BitVec 2) (d a b : Reg) : (selRule hold d a b).Agrees (opSel d a b) where
  d := rfl
  wide := rfl
  guarded := rfl
  check v _ := by
    show v.first [(b, if a = 0 then isAny else fun t => t = v.res a.toNat)] =
      v.first (if a = 0 then anyTags [b] else [(b, (· = v.res a.toNat))])
    split <;> rfl
  tag _ _ := rfl
  val _ _ _ := rfl

theorem movh_agrees (d : Reg) (imm : BitVec 16) :
    Rule.Agrees { instr := .movh d imm, d := d, checks := fun _ => [], tag := fun _ => none,
                  val := fun v t => word (imm ++ (v.reg d.toNat t).extractLsb' 0 16) } (opMovh d imm) :=
  ⟨rfl, rfl, rfl, fun _ _ => rfl, fun _ _ => rfl, fun _ _ _ => rfl⟩

theorem moveRules_modelled (hold : BitVec 2) (d a b : Reg) (k : BitVec 7) (lit : Word) :
    ∀ r ∈ moveRules hold d a b k lit, r.Modelled := by
  simp only [moveRules, compareImmRules_eq, List.forall_mem_append, List.forall_mem_cons]
  exact ⟨⟨⟨_, bitsCompare_agrees .., fun _ => rfl⟩, ⟨_, bitsCompare_agrees .., fun _ => rfl⟩,
    ⟨_, intCompare_agrees .., fun _ => rfl⟩, ⟨_, intCompare_agrees .., fun _ => rfl⟩, ⟨_, sel_agrees .., fun _ => rfl⟩,
    ⟨_, written_agrees .., fun _ => rfl⟩, List.forall_mem_nil _⟩, ⟨_, bitsCompareImm_agrees .., fun _ => rfl⟩,
    ⟨_, bitsCompareImm_agrees .., fun _ => rfl⟩, ⟨_, intCompareImm_agrees .., fun _ => rfl⟩,
    ⟨_, intCompareImm_agrees .., fun _ => rfl⟩, List.forall_mem_nil _⟩

theorem moveRules_plain (hold : BitVec 2) (d a b : Reg) (k : BitVec 7) (lit : Word) :
    ∀ r ∈ moveRules hold d a b k lit, r.Plain := by
  simp [moveRules, compareImmRules, Rule.Plain, bitsCompare, intCompare, selRule, litRule]

/-- Operands that pass ANY, their tags alike where neither is v0, pass the checks of sel (04 R103). -/
theorem sel_checks_pass {v : View} {hold : BitVec 2} {d a b : Reg} (hany : (anyTags [a, b]).all v.ok = true)
    (halike : a = 0 ∨ b = 0 ∨ v.res a.toNat = v.res b.toNat) : ((selRule hold d a b).checks v).all v.ok = true := by
  have hb : v.ok (b, assignedTag) = true := List.all_eq_true.1 hany _ (by simp [anyTags])
  by_cases ha : a = 0
  · simpa [selRule, ha, anyTags] using hb
  · simp only [selRule, if_neg ha, List.all_cons, List.all_nil, Bool.and_true]
    rcases halike with h | rfl | h
    · exact absurd h ha
    · exact v.ok_zero _
    · simp only [View.ok, h, Bool.or_eq_true, Bool.and_eq_true, decide_true] at hb ⊢
      exact hb.imp_right fun hb => ⟨hb.1, trivial⟩

/-- Settles O6: each of the ten rules is modelled and raises no flag. The statement lists sel apart, whose check is on b
alone and follows from what it asks of both operands (`sel_checks_pass`). -/
theorem comparesAndMoves : Obligations.ComparesAndMoves := by
  unfold Obligations.ComparesAndMoves
  refine ⟨fun hold d a b k lit r hr => (moveRules_modelled hold d a b k lit r hr).holds,
    fun hold d a b k lit => ⟨?_, ?_⟩⟩
  · have hsub : (moveRules hold d a b k lit).take 4 ++ compareImmRules hold d a k ++ [litRule d lit] ⊆
        moveRules hold d a b k lit :=
      List.append_subset.2 ⟨List.append_subset.2 ⟨List.take_subset .., List.subset_append_right ..⟩,
        by simp [moveRules]⟩
    exact goOn_of_modelled (fun _ => rfl) (fun r hr => moveRules_modelled hold d a b k lit r (hsub hr))
      fun r hr => moveRules_plain hold d a b k lit r (hsub hr)
  · intro s fr x hx hs hchecks hneeds
    obtain rfl := List.mem_singleton.1 hx
    have hsel : selRule hold d a b ∈ moveRules hold d a b k lit := by simp [moveRules]
    exact (moveRules_modelled hold d a b k lit _ hsel).goesOn (moveRules_plain hold d a b k lit _ hsel) hs
      (sel_checks_pass hchecks hneeds)

/-! ### mov, movk and movh -/

/-- An instruction of single registers, whatever they are, is well formed. -/
theorem wellFormed_of_single {i : Instr} {os : List Opnd} (hoperands : operands i = os)
    (hsingle : ∀ o ∈ os, o.count = 1) (hnumbers : numbersOk i = true) : i.wellFormed = true := by
  have hformed : os.all Opnd.formed = true :=
    List.all_eq_true.2 fun o ho => by simp [Opnd.formed, hsingle o ho, Nat.mod_one]
  rw [Instr.wellFormed, hoperands, hformed, hnumbers, Bool.and_self]

theorem decode_mov_reserved (hold : BitVec 2) (d a b : Reg) (h : b ≠ 0) :
    decode (wordR 0x023 hold d a b) 0 = .reject .reserved := by
  have hb : fB (wordR 0x023 hold d a b) ≠ 0 := by rwa [fB_wordR]
  rw [decode, fOp_wordR]
  show (ifZero (decide (fB _ = 0)) _).checked = _
  rw [decide_eq_false hb]; rfl

theorem movRule_modelled (hold : BitVec 2) (d a : Reg) : (movRule hold d a).Modelled :=
  ⟨_, written_agrees .., fun _ => rfl⟩

theorem movRule_plain (hold : BitVec 2) (d a : Reg) : (movRule hold d a).Plain := ⟨fun _ => rfl, fun _ _ => rfl⟩

/-- Settles O7: the word is that of the instruction, a field b that is not zero is refused by the decoder's row, and the
rule asks nothing of the tags. -/
theorem movCopiesBitsAndTag : Obligations.MovCopiesBitsAndTag := by
  unfold Obligations.MovCopiesBitsAndTag
  intro hold d a
  have hmov : (Instr.mov hold d a).wellFormed = true :=
    wellFormed_of_single rfl (List.forall_mem_cons.2 ⟨rfl, List.forall_mem_singleton.2 rfl⟩) rfl
  refine ⟨decode_of_encode rfl rfl hmov, decode_mov_reserved hold d a, (movRule_modelled hold d a).holds, ?_⟩
  exact goOn_of_modelled (rs := [movRule hold d a]) (fun _ => rfl)
    (List.forall_mem_singleton.2 (movRule_modelled hold d a)) (List.forall_mem_singleton.2 (movRule_plain hold d a))

theorem setWidth_low_half (x : Word) : (x.extractLsb' 0 16).setWidth 32 = x &&& 0xFFFF := by
  apply BitVec.eq_of_toNat_eq
  have hlow : x.toNat &&& 0xFFFF = x.toNat % 2 ^ 16 := Nat.and_two_pow_sub_one_eq_mod x.toNat 16
  rw [BitVec.toNat_and, BitVec.toNat_setWidth, BitVec.extractLsb'_toNat, Nat.shiftRight_zero]
  show _ = x.toNat &&& 0xFFFF
  omega

/-- movh puts its constant above the low half of d by concatenation, the rule by a shift. -/
theorem append_low_half (imm : BitVec 16) (x : Word) :
    imm ++ x.extractLsb' 0 16 = imm.setWidth 32 <<< 16 ||| (x &&& 0xFFFF) := by
  rw [← setWidth_low_half, ← BitVec.setWidth_append_eq_shiftLeft_setWidth_or, BitVec.setWidth_eq]

theorem constantRules_modelled (d : Reg) (imm : BitVec 16) : ∀ r ∈ constantRules d imm, r.Modelled := by
  have hword : imm.setWidth 64 = word (imm.setWidth 32) := (BitVec.setWidth_setWidth (by decide)).symm
  simp only [constantRules, ← append_low_half, hword, List.forall_mem_cons]
  exact ⟨⟨_, written_agrees .., fun _ => rfl⟩, ⟨_, movh_agrees .., fun _ => rfl⟩, List.forall_mem_nil _⟩

theorem constantRules_plain (d : Reg) (imm : BitVec 16) : ∀ r ∈ constantRules d imm, r.Plain := by
  simp [constantRules, Rule.Plain]

/-- Settles O8: the words are those of the two instructions, and both rules are modelled and ask nothing of the tags. -/
theorem constantsOfSixteenBits : Obligations.ConstantsOfSixteenBits := by
  unfold Obligations.ConstantsOfSixteenBits
  intro d imm
  have hmovk : (Instr.movk d imm).wellFormed = true := wellFormed_of_single rfl (List.forall_mem_singleton.2 rfl) rfl
  have hmovh : (Instr.movh d imm).wellFormed = true := wellFormed_of_single rfl (List.forall_mem_singleton.2 rfl) rfl
  refine ⟨decode_of_encode rfl rfl hmovk, decode_of_encode rfl rfl hmovh,
    fun r hr => (constantRules_modelled d imm r hr).holds, ?_⟩
  exact goOn_of_modelled (fun _ => rfl) (constantRules_modelled d imm) (constantRules_plain d imm)

end Sys2Proof.Machine
